-- ==== Sys2Proof/Word.lean ====
section
/-! DEFINITION. The word types of the LC64 and the tables its numbered objects stand in.

A byte, a key, a nonce and a cipher block are bits on an interface and are bit vectors; links, key
slots, units, descriptors and trunk slots are numbered objects and are bounded numbers (chapter
"Conventions" of the manual: links 0 to 63, trunk slots 0 to 95, key slots 0 to 159, units 0 to
2047, descriptors 0 to 511). -/

namespace Sys2Proof

/-- One byte of any interface. -/
abbrev Byte := BitVec 8
/-- A two-byte field of a host record, and an event count of the current second (R143). -/
abbrev W16 := BitVec 16
/-- A 32-bit register: a statistics counter, the switch count, the device clock, a time stamp. -/
abbrev W32 := BitVec 32
/-- A head or shop nonce (R37, R87). -/
abbrev Nonce := BitVec 48
/-- The 16-byte input or output of one block operation (R38); byte 0 is the most significant. -/
abbrev Block := BitVec 128
/-- A root key or an epoch key (R22, R25); byte 0 is the most significant. -/
abbrev Key := BitVec 256

/-- A shop link. -/
abbrev LinkId := Fin 64
/-- An epoch key slot. -/
abbrev SlotNo := Fin 160
/-- A 64-byte unit of the frame store. -/
abbrev UnitNo := Fin 2048
/-- A frame descriptor. -/
abbrev DescNo := Fin 512
/-- A byte position in the trunk cycle. -/
abbrev TrunkSlot := Fin 96

/-- The entry of a table at a number of its own range. -/
def tget {α : Type} {n : Nat} (v : Vector α n) (i : Fin n) : α := v[i.val]

/-- The table with one entry replaced. -/
def tput {α : Type} {n : Nat} (v : Vector α n) (i : Fin n) (x : α) : Vector α n := v.set i.val x

/-- Every number of a range, in ascending order. -/
def allFin (n : Nat) : List (Fin n) := List.finRange n

/-- A saturating counter after one more event: it does not wrap ("Counters" of the manual). -/
def satInc {w : Nat} (c : BitVec w) : BitVec w := if c = BitVec.allOnes w then c else c + 1

/-- A saturating total after `k` more events. -/
def satAdd {w : Nat} (c : BitVec w) (k : Nat) : BitVec w :=
  if c.toNat + k < 2 ^ w then BitVec.ofNat w (c.toNat + k) else BitVec.allOnes w

@[simp] theorem tget_tput_self {α : Type} {n : Nat} (v : Vector α n) (i : Fin n) (x : α) :
    tget (tput v i x) i = x := by
  simp [tget, tput]

theorem tget_tput_of_ne {α : Type} {n : Nat} (v : Vector α n) {i j : Fin n} (x : α) (h : i ≠ j) :
    tget (tput v i x) j = tget v j := by
  have h' : i.val ≠ j.val := fun e => h (Fin.ext e)
  simp [tget, tput, Vector.getElem_set, h']

theorem tget_tput {α : Type} {n : Nat} (v : Vector α n) (i j : Fin n) (x : α) :
    tget (tput v i x) j = if i = j then x else tget v j := by
  by_cases h : i = j
  · subst h; simp
  · simp [h, tget_tput_of_ne v x h]

@[simp] theorem tget_replicate {α : Type} {n : Nat} (x : α) (i : Fin n) :
    tget (Vector.replicate n x) i = x := by
  simp [tget]

@[simp] theorem mem_allFin {n : Nat} (i : Fin n) : i ∈ allFin n := List.mem_finRange i

end Sys2Proof
end

