-- ==== Sys2Proof/Syntax.lean ====
section
/-! DEFINITION. The commands and events of the LC64: one constructor for each row of the table of
operations and events, with the operands the row's rule gives it.

The first 28 are host commands. Each carries the host's tag (R171) and the raw bytes of its fields
in the order of R173, so that out-of-range fields can be sent and are refused as the rules say. The
other 23 are events: bytes on the host line, the line and reset input, the tick and the timers, the
cipher engine, and the trunk ports. -/

namespace Sys2Proof

/-- A trunk port (R120). -/
inductive Port where
  | a
  | b
  deriving DecidableEq, Repr

/-- The commands and events (the rows of the table, in its order). -/
inductive Instr where
  /-- LINK_CONFIGURE (R10), code 10h. -/
  | linkConfigure (tag link : Byte) (maxPayload : W16)
      (budgetClass intervalCode offerCode attempts graceCode : Byte) (quota : W16)
      (threshold tagAction renewalAction startHeld : Byte)
  /-- LINK_ACTIVATE (R12), code 11h. -/
  | linkActivate (tag link : Byte)
  /-- LINK_ISOLATE (R13), code 12h. -/
  | linkIsolate (tag link : Byte)
  /-- LINK_RESUME (R16), code 13h. -/
  | linkResume (tag link : Byte)
  /-- LINK_DEACTIVATE (R17), code 14h. -/
  | linkDeactivate (tag link : Byte)
  /-- LINK_UNCONFIGURE (R19), code 15h. -/
  | linkUnconfigure (tag link : Byte)
  /-- LINK_STATUS (R21), code 16h. -/
  | linkStatus (tag link clear : Byte)
  /-- ROOT_LOAD (R23), code 20h; the key field is of varying length. -/
  | rootLoad (tag link : Byte) (key : List Byte)
  /-- ROOT_ERASE (R24), code 21h. -/
  | rootErase (tag link : Byte)
  /-- STORE_STATUS (R40), code 22h. -/
  | storeStatus (tag : Byte)
  /-- RENEW (R96), code 23h. -/
  | renew (tag link : Byte)
  /-- TRAFFIC_OUT (R106), a record kind of its own; the payload is of varying length. -/
  | trafficOut (tag link : Byte) (payload : List Byte)
  /-- QUEUE_HOLD (R110), code 30h. -/
  | queueHold (tag link : Byte)
  /-- QUEUE_RELEASE (R111), code 31h. -/
  | queueRelease (tag link count : Byte)
  /-- QUEUE_UNHOLD (R112), code 32h. -/
  | queueUnhold (tag link : Byte)
  /-- QUEUE_DISCARD (R113), code 33h. -/
  | queueDiscard (tag link : Byte) (count : W16)
  /-- PORT_MODE (R126), code 40h. -/
  | portMode (tag mode : Byte)
  /-- MAP_SET (R128), code 41h. -/
  | mapSet (tag first count entry : Byte)
  /-- MAP_READ (R129), code 42h. -/
  | mapRead (tag selector : Byte)
  /-- MAP_COMMIT (R130), code 43h. -/
  | mapCommit (tag : Byte)
  /-- TRUNK_STATUS (R141), code 44h. -/
  | trunkStatus (tag clear : Byte)
  /-- FAULT_POLICY (R146), code 50h. -/
  | faultPolicy (tag kind declare clear report : Byte)
  /-- FAULT_LIST (R155), code 51h. -/
  | faultList (tag selector : Byte)
  /-- FAULT_READ (R156), code 52h. -/
  | faultRead (tag source kind : Byte)
  /-- FAULT_PURGE (R157), code 53h. -/
  | faultPurge (tag : Byte)
  /-- SET_CLOCK (R166), code 60h. -/
  | setClock (tag : Byte) (value : W32)
  /-- IDENTIFY (R167), code 61h. -/
  | identify (tag : Byte)
  /-- RESET (R169), code 62h. -/
  | reset (tag : Byte)
  /-- RECORD_ARRIVAL (R159): these bytes arrive on the inbound line, in this order. -/
  | recordArrival (bytes : List Byte)
  /-- MALFORMED_RECORD (R160): these bytes arrive, the last of them failing the length or kind test. -/
  | malformedRecord (bytes : List Byte)
  /-- TAKE_RECORD (R162). -/
  | takeRecord
  /-- SEND_START (R164). -/
  | sendStart
  /-- SEND_END (R164). -/
  | sendEnd
  /-- POWER_ON (R168). -/
  | powerOn
  /-- RESET_LINE_ASSERT (R169). -/
  | resetLineAssert
  /-- RESET_LINE_RELEASE (R169). -/
  | resetLineRelease
  /-- TICK (R166). -/
  | tick
  /-- INTERVAL_TIMER_EXPIRY (R76). -/
  | intervalTimerExpiry (link : LinkId)
  /-- OFFER_TIMER_EXPIRY (R84). -/
  | offerTimerExpiry (link : LinkId)
  /-- GRACE_TIMER_EXPIRY (R93). -/
  | graceTimerExpiry (link : LinkId)
  /-- BACKOFF_TIMER_EXPIRY (R86). -/
  | backoffTimerExpiry (link : LinkId)
  /-- SEALING_START (R44). -/
  | sealingStart
  /-- BLOCK_OPERATION_END (R39). -/
  | blockOperationEnd
  /-- SEALING_COMPLETION (R56). -/
  | sealingCompletion
  /-- OPENING_START (R60). -/
  | openingStart
  /-- OPENING_COMPLETION (R68). -/
  | openingCompletion
  /-- DERIVATION_BEGIN (R35). -/
  | derivationBegin
  /-- DERIVATION_COMPLETION (R36). -/
  | derivationCompletion
  /-- RECEIVE_CYCLE (R122): a port's marker verdict and the 96 slot bytes. -/
  | receiveCycle (port : Port) (good : Bool) (bytes : Vector Byte 96)
  /-- SIGNAL_ABSENCE (R121). -/
  | signalAbsence (port : Port)
  /-- TRANSMIT_CYCLE_REQUEST (R133). -/
  | transmitCycleRequest
  deriving DecidableEq, Repr

end Sys2Proof
end

