-- ==== Sys2Proof/Decode.lean ====
section
/-! DEFINITION. The table's words. No row of the table of operations and events gives any bits
(every row's field list is empty): the LC64 is a block, its commands come as host records and
events, and no number spells one. The bytes of a host record are decoded in
Machine/HostPort.lean, by the codes and field orders of R171 to R173. -/

namespace Sys2Proof

/-- The command that a word spells by the table's bits: none, for every word. -/
def decodeTableWord (_nbits _w : Nat) : Option Instr := none

end Sys2Proof
end

