-- ==== Sys2Proof/Config.lean ====
section
/-! DEFINITION. What the part fixes once, and the values the manual leaves open.

Each `opaque` constant is a FREE VALUE: it has no body, so no proof can see what it is, and a
statement about it holds whatever it is. The assumption log names each one. -/

namespace Sys2Proof.Config

/-- The block function of the cipher engine. The manual treats it as a primitive: for each key a
permutation of the 16-byte blocks, its output determined by the key and the input, and nothing else
about it is relied on ("What this manual covers"). Log entry 1. -/
opaque blockFunction : Key → Equiv.Perm Block

/-- The draws of the nonce generator (R37): draw number `n` gives the value one above this, so a
drawn nonce is any 48-bit value except zero, and nothing more is known of it. Log entry 2. -/
opaque nonceSource : Nat → Fin (281474976710654 + 1)

/-- Which block starts first when, within one event, both the sealer and the opener have work to
take: the manual says either may be taken first (R63). Log entry 3. -/
opaque sealerFirst : Nat → Bool

/-- Which of several things due at one tick (timer expiries and the sampling) is taken next: "either
is the world's order" (R143, R145). Log entry 4. -/
opaque agendaPick : Nat → Nat

/-- The number that FAULT_READ gives to the oldest entry's place in the creation order: the manual
does not say whether places are counted from 0 or from 1 (R156, R174). Log entry 5. -/
opaque firstPlace : Nat

/-- The backoff after a failed renewal, in seconds (R76). -/
def backoffSeconds : Nat := 60
/-- Records the inbound record buffer holds (R161). -/
def inboundBufferSize : Nat := 4
/-- Replies the reply queue holds (R163). -/
def replyQueueSize : Nat := 4
/-- Ordinary entries the fault table holds beside the reserved place (R148). -/
def ordinaryEntries : Nat := 95
/-- The revision IDENTIFY and READY report (R167). -/
def revision : Byte := 1

end Sys2Proof.Config
end

