-- ==== Sys2Proof/Machine/State.lean ====
section
/-! DEFINITION. Everything the manual gives the part to hold, block by block as its block diagram
has them, and the state right after a power-on reset. All of it is plain data. -/

namespace Sys2Proof.Machine

/-! ### Link table (chapter 1) -/

/-- R1: where a link stands in its life. -/
inductive LinkState where
  | idle
  | configured
  | active
  | isolated
  deriving DecidableEq, Repr

/-- R6: the act on declaration of the link's TAG_FAILURES fault. -/
inductive TagAction where
  | noAction
  | renew
  | isolate
  deriving DecidableEq, Repr

/-- R6: the host's choices for one link, each within the range of the table of R6. -/
structure Profile where
  maxPayload : Nat
  budgetClass : Nat
  intervalCode : Nat
  offerCode : Nat
  attempts : Nat
  graceCode : Nat
  quota : Nat
  threshold : Nat
  tagAction : TagAction
  /-- The renewal-failure action: ISOLATE when set, NONE when clear. -/
  isolateOnFailure : Bool
  startHeld : Bool
  deriving DecidableEq, Repr

/-- R76: a timer. A running timer has counted `count` of its `limit` ticks; a paused one keeps its
count; a stopped one keeps none. Only the interval timer stands expired. -/
inductive Timer where
  | stopped
  | running (count limit : Nat)
  | paused (count limit : Nat)
  | expired
  deriving DecidableEq, Repr

/-- R75: where a link stands in the exchange. -/
inductive RenewalState where
  | quiet
  | offering
  | derivingNext
  | cutting
  | backoff
  deriving DecidableEq, Repr

/-- R75: the renewal record of one link. -/
structure Renewal where
  state : RenewalState := .quiet
  offeredEpoch : Nat := 0
  headNonce : Nonce := 0
  shopNonce : Nonce := 0
  attempts : Nat := 0
  pendingTrigger : Bool := false
  failureMark : Bool := false
  interval : Timer := .stopped
  offer : Timer := .stopped
  grace : Timer := .stopped
  backoff : Timer := .stopped
  deriving DecidableEq, Repr

/-- R3: an outbound control message with the fields the sealer needs to build it. -/
inductive LaneMsg where
  | offer (epoch : Nat) (headNonce : Nonce) (attempt : Nat)
  | cutover (epoch : Nat) (headNonce shopNonce : Nonce)
  deriving DecidableEq, Repr

/-- R20: the fourteen statistics counters, in the order of its table. -/
inductive Counter where
  | framesSealed
  | delivered
  | badHeader
  | noBuffer
  | unknownEpoch
  | noKey
  | badSeq
  | stale
  | repeated
  | budget
  | badTag
  | isolatedDiscard
  | protocol
  | abandoned
  deriving DecidableEq, Repr

/-- R1: one link context. -/
structure Link where
  state : LinkState := .idle
  profile : Option Profile := none
  previous : Option SlotNo := none
  current : Option SlotNo := none
  next : Option SlotNo := none
  renewal : Renewal := {}
  hold : Bool := false
  allowance : Nat := 0
  budgetHeld : Bool := false
  lane : Option LaneMsg := none
  eventPending : Bool := false
  stats : Vector W32 14 := Vector.replicate 14 0
  deriving DecidableEq, Repr

/-! ### Key store and cipher engine (chapter 2) -/

/-- R22: the state of a root key record. -/
inductive RootState where
  | empty
  | fresh
  | used
  deriving DecidableEq, Repr

/-- R22: a root key record. -/
structure RootRecord where
  state : RootState := .empty
  key : Key := 0
  deriving DecidableEq, Repr

/-- R26: the state of an epoch key slot. -/
inductive KeyState where
  | free
  | derivingKeys
  | ready
  | draining
  deriving DecidableEq, Repr

/-- R25: the outbound next sequence; it is 0 in a FREE slot. -/
inductive NextSeq where
  | number (n : Nat)
  | exhausted
  deriving DecidableEq, Repr

/-- R25: an epoch key slot; the values here are those of a FREE slot. -/
structure KeySlot where
  state : KeyState := .free
  owner : LinkId := 0
  epoch : Nat := 0
  cipherKey : Key := 0
  integrityKey : Key := 0
  used : Nat := 0
  next : NextSeq := .number 0
  softCrossed : Bool := false
  highest : Nat := 0
  /-- The accepted set, in descending order. -/
  accepted : List Nat := []
  inFlight : Nat := 0
  deriving DecidableEq, Repr

/-- R34: a derivation request. -/
structure DerivationRequest where
  slot : SlotNo
  link : LinkId
  epoch : Nat
  headNonce : Nonce
  shopNonce : Nonce
  deriving DecidableEq, Repr

/-- R35: the derivation in flight, with its working copy of the root key and the values Dk reached. -/
structure Derivation where
  request : DerivationRequest
  rootCopy : Key
  left : Nat
  results : List Block
  deriving DecidableEq, Repr

/-- The key store. -/
structure KeyStore where
  roots : Vector RootRecord 64
  slots : Vector KeySlot 160
  waitList : List LinkId
  requests : List DerivationRequest
  derivation : Option Derivation
  deriving DecidableEq, Repr

/-- R38: the three requesters of the cipher engine. -/
inductive Requester where
  | sealer
  | opener
  | deriver
  deriving DecidableEq, Repr

/-- R39: the unit (idle, or performing an operation of a requester) and the last-served requester. -/
structure Engine where
  unit : Option Requester
  lastServed : Requester
  deriving DecidableEq, Repr

/-! ### Frames, sealer, opener, frame store (chapters 3, 4 and 6) -/

/-- The kind of a link frame (R51, R59). -/
inductive FrameKind where
  | traffic
  | offer
  | accept
  | cutover
  | ask
  deriving DecidableEq, Repr

/-- R103: a descriptor of one buffered frame. -/
structure Descriptor where
  link : LinkId
  inbound : Bool
  kind : FrameKind
  epoch : Option Nat
  seq : Option Nat
  length : Nat
  chain : List UnitNo
  hostTag : Option Byte
  header : Option (List Byte)
  tag : Option (List Byte)
  deriving DecidableEq, Repr

/-- R41: the sealing record, with the tag chain value T(k) reached so far (R54). -/
structure Sealing where
  link : LinkId
  kind : FrameKind
  slot : SlotNo
  epoch : Nat
  seq : Nat
  length : Nat
  /-- The descriptor of a TRAFFIC frame; absent for a control frame, which is in the control buffer. -/
  desc : Option DescNo
  left : Nat
  tagChain : Block
  discard : Bool
  deriving DecidableEq, Repr

/-- R41: the sealer's request list, its frame in sealing, and its control buffer with the header and
tag kept beside it (R50, R53). -/
structure Sealer where
  requests : List LinkId
  current : Option Sealing
  control : List Byte
  controlHeader : List Byte
  controlTag : List Byte
  deriving DecidableEq, Repr

/-- R60: the opening record. -/
structure Opening where
  link : LinkId
  kind : FrameKind
  slot : SlotNo
  epoch : Nat
  seq : Nat
  length : Nat
  desc : DescNo
  left : Nat
  tagChain : Block
  discard : Bool
  deriving DecidableEq, Repr

/-- R59: the open list and the frame in opening. -/
structure Opener where
  waiting : List DescNo
  current : Option Opening
  deriving DecidableEq, Repr

/-- R102, R103, R105, R117: descriptors (`none` where free), the bytes of the units, the outbound link
queues and the delivery queue. The units held are those of the held descriptors' chains. -/
structure FrameStore where
  descs : Vector (Option Descriptor) 512
  mem : List Host.Cell
  queues : Vector (List DescNo) 64
  delivery : List DescNo
  deriving DecidableEq, Repr

/-! ### Trunk interface (chapter 7) -/

/-- R121: the state of an alignment monitor. -/
inductive MonitorState where
  | lost
  | seeking
  | aligned
  deriving DecidableEq, Repr

/-- R121: an alignment monitor. -/
structure Monitor where
  state : MonitorState := .lost
  good : Nat := 0
  bad : Nat := 0
  deriving DecidableEq, Repr

/-- R123: the protection mode. -/
inductive ProtectionMode where
  | auto
  | fixedA
  | fixedB
  deriving DecidableEq, Repr

/-- R136: a circuit receiver and what it holds in each state. -/
inductive Receiver where
  | hunt
  | header (bytes : List Byte)
  | body (desc : DescNo) (written : Nat)
  | skip (left : Nat)
  deriving DecidableEq, Repr

/-- R134: a circuit transmitter: IDLE, or SENDING a TRAFFIC frame from its descriptor, or SENDING its own
copy of a control frame; `sent` bytes have gone. -/
inductive Transmitter where
  | idle
  | frame (desc : DescNo) (sent : Nat)
  | copy (bytes : List Byte) (sent : Nat)
  deriving DecidableEq, Repr

/-- The trunk interface. A slot map entry is `none` for NONE (R127). -/
structure Trunk where
  monitorA : Monitor
  monitorB : Monitor
  mode : ProtectionMode
  selected : Port
  switchCount : W32
  live : Vector (Option LinkId) 96
  shadow : Vector (Option LinkId) 96
  receivers : Vector Receiver 64
  transmitters : Vector Transmitter 64
  /-- The model's view of the two ports' outputs: the last cycle sent, on both ports alike (R133). -/
  lastCycle : List Byte
  deriving DecidableEq, Repr

/-! ### Fault supervisor (chapter 8) -/

/-- R142: the fourteen kinds of fault, in the order of its table. -/
inductive FaultKind where
  | portLoss
  | trunkDown
  | protectionSwitch
  | headerErrors
  | tagFailures
  | unknownEpoch
  | inboundOverrun
  | renewalFailed
  | keyExhausted
  | epochExhausted
  | keyStoreFull
  | frameStoreLow
  | hostOverrun
  | tableOverflow
  deriving DecidableEq, Repr

/-- R142: the 71 sources. -/
inductive FaultSource where
  | portA
  | portB
  | trunk
  | keyStore
  | frameStore
  | hostPort
  | device
  | link (l : LinkId)
  deriving DecidableEq, Repr

/-- R147: the state of a fault entry. -/
inductive EntryState where
  | clear
  | rising
  | declared
  | falling
  deriving DecidableEq, Repr

/-- R147: a fault entry. -/
structure FaultEntry where
  source : FaultSource
  kind : FaultKind
  state : EntryState
  persistence : Nat
  occurrences : W16
  eventsTotal : W32
  firstDeclared : Option W32
  lastChange : W32
  reportPending : Bool
  deriving DecidableEq, Repr

/-- R146: the policy of one kind. -/
structure Policy where
  declare : Nat
  clear : Nat
  report : Bool
  deriving DecidableEq, Repr

/-- R143: a link's event counts of the current second. -/
structure LinkEvents where
  headerErrors : W16 := 0
  tagFailures : W16 := 0
  unknownEpoch : W16 := 0
  inboundOverrun : W16 := 0
  deriving DecidableEq, Repr

/-- The fault supervisor: the table in creation order, oldest first (R148), the policies (R146) and the
event counts of the current second (R143). -/
structure Supervisor where
  entries : List FaultEntry
  policies : Vector Policy 14
  protectionSwitches : W16
  hostOverruns : W16
  tableOverflows : W16
  linkEvents : Vector LinkEvents 64
  deriving DecidableEq, Repr

/-! ### Host port (chapter 9) -/

/-- R159: the record receiver; in COLLECT it holds the bytes after the start byte. -/
inductive RecordReceiver where
  | hunt
  | collect (bytes : List Byte)
  deriving DecidableEq, Repr

/-- R159: the kinds a record to the part may carry. -/
inductive RecordKind where
  | command
  | trafficOut
  deriving DecidableEq, Repr

/-- R160, R161: an item of the inbound record buffer. -/
inductive InRecord where
  | record (kind : RecordKind) (tag : Byte) (body : List Byte)
  | malformed
  deriving DecidableEq, Repr

/-- R163: the result codes. -/
inductive ResultCode where
  | ok
  | accepted
  | malformed
  | unknownCommand
  | badValue
  | wrongState
  | profileCheck
  | keyStoreFull
  | renewing
  | quota
  | storeFull
  deriving DecidableEq, Repr

/-- R163: a reply in the reply queue; `forReset` marks the reply of RESET, whose last byte takes the
reset (R169). -/
structure Reply where
  tag : Byte
  code : ResultCode
  fields : List Byte
  forReset : Bool
  deriving DecidableEq, Repr

/-- R165: an item of the notice list. A fault entry is named by its source and kind (R148). -/
inductive NoticeItem where
  | ready
  | fault (source : FaultSource) (kind : FaultKind)
  | link (l : LinkId)
  deriving DecidableEq, Repr

/-- R164: the record on the outbound line, all its bytes, with the frame of a TRAFFIC_IN (R117). -/
structure LineRecord where
  bytes : List Byte
  frame : Option DescNo
  forReset : Bool
  deriving DecidableEq, Repr

/-- R164: which of the notice list and the delivery queue was served last. -/
inductive Served where
  | notices
  | delivery
  deriving DecidableEq, Repr

/-- R168: the reset causes. -/
inductive ResetCause where
  | powerOn
  | resetLine
  | command
  deriving DecidableEq, Repr

/-- The host port. -/
structure HostPort where
  receiver : RecordReceiver
  buffer : List InRecord
  recordsLost : Bool
  replies : List Reply
  line : Option LineRecord
  servedLast : Served
  notices : List NoticeItem
  /-- The attention output (R164). -/
  attention : Bool
  clock : W32
  resetPending : Bool
  /-- The reset input, asserted or not (R169). -/
  resetInput : Bool
  resetCause : ResetCause
  resets : W32
  deriving DecidableEq, Repr

/-- The model's own field: how many free values of each sort have been used (log entries 2 to 4). -/
structure Draws where
  nonces : Nat
  starts : Nat
  agenda : Nat
  deriving DecidableEq, Repr

/-- The whole part, and the queue of the commands and events that wait to reach it. -/
structure State where
  pending : List Instr
  links : Vector Link 64
  keys : KeyStore
  engine : Engine
  sealer : Sealer
  opener : Opener
  store : FrameStore
  trunk : Trunk
  faults : Supervisor
  host : HostPort
  draws : Draws
  deriving DecidableEq, Repr

/-- The machine never stops with a fault: the manual names no event that stops the part, and every
address and number of the state is bounded by its type. Nothing raises a fault. -/
inductive Fault where
  deriving DecidableEq, Repr

/-- Why a command has no meaning. -/
inductive Refusal where
  /-- Raised by `exec` alone, for a row of the table without a meaning (safe). No arm raises it. -/
  | notModelled (mnemonic : String)
  deriving DecidableEq, Repr

/-! ### After a reset -/

/-- R142: the default policy of each kind, in the order of its table, report on (R146). -/
def defaultPolicies : Vector Policy 14 :=
  #v[⟨2, 3, true⟩, ⟨1, 3, true⟩, ⟨1, 10, true⟩, ⟨3, 10, true⟩, ⟨1, 30, true⟩, ⟨3, 10, true⟩,
     ⟨1, 10, true⟩, ⟨1, 1, true⟩, ⟨1, 1, true⟩, ⟨1, 1, true⟩, ⟨5, 5, true⟩, ⟨5, 5, true⟩,
     ⟨1, 10, true⟩, ⟨1, 60, true⟩]

/-- The key store after any reset (R22, R25, R31, R34). -/
def KeyStore.reset : KeyStore where
  roots := Vector.replicate 64 {}
  slots := Vector.replicate 160 {}
  waitList := []
  requests := []
  derivation := none

/-- The engine after any reset (R38, R39). -/
def Engine.reset : Engine := ⟨none, .deriver⟩

/-- The sealer after any reset (R41). -/
def Sealer.reset : Sealer := ⟨[], none, List.replicate 14 0, List.replicate 10 0, List.replicate 8 0⟩

/-- The opener after any reset (R59). -/
def Opener.reset : Opener := ⟨[], none⟩

/-- The frame store after a reset: empty, its unit contents not cleared (R102). -/
def FrameStore.reset (mem : List Host.Cell) : FrameStore where
  descs := Vector.replicate 512 none
  mem := mem
  queues := Vector.replicate 64 []
  delivery := []

/-- The trunk interface after any reset (R121, R123, R127, R134, R136). -/
def Trunk.reset : Trunk where
  monitorA := {}
  monitorB := {}
  mode := .auto
  selected := .a
  switchCount := 0
  live := Vector.replicate 96 none
  shadow := Vector.replicate 96 none
  receivers := Vector.replicate 64 .hunt
  transmitters := Vector.replicate 64 .idle
  lastCycle := []

/-- The supervisor after any reset (R143, R146, R148). -/
def Supervisor.reset : Supervisor where
  entries := []
  policies := defaultPolicies
  protectionSwitches := 0
  hostOverruns := 0
  tableOverflows := 0
  linkEvents := Vector.replicate 64 {}

/-- The host port after a reset (R159, R161, R163 to R165, R168), with what the cause decides. -/
def HostPort.reset (cause : ResetCause) (clock resets : W32) (resetInput : Bool) : HostPort where
  receiver := .hunt
  buffer := []
  recordsLost := false
  replies := []
  line := none
  servedLast := .delivery
  notices := [.ready]
  attention := true
  clock := clock
  resetPending := false
  resetInput := resetInput
  resetCause := cause
  resets := resets

/-- Every block as its chapter gives it after a reset (R168). -/
def State.afterReset (pending : List Instr) (mem : List Host.Cell) (host : HostPort)
    (draws : Draws) : State where
  pending := pending
  links := Vector.replicate 64 {}
  keys := .reset
  engine := .reset
  sealer := .reset
  opener := .reset
  store := .reset mem
  trunk := .reset
  faults := .reset
  host := host
  draws := draws

/-- The machine right after a power-on reset (R168), the reset input not asserted, no command waiting. -/
def State.reset : State :=
  .afterReset [] [] (.reset .powerOn 0 0 false) ⟨0, 0, 0⟩

end Sys2Proof.Machine
end

