-- ==== Sys2Proof/Machine/Ops.lean ====
section
/-! DEFINITION. The named reads and writes of the state: one pair for each numbered object, the bytes
of the frame store's units, the statistics and event counts, and the notice list. -/

namespace Sys2Proof.Machine

/-! ### The numbered objects -/

/-- The context of a link (R1). -/
def State.link (s : State) (l : LinkId) : Link := tget s.links l
/-- A link context changed. -/
def State.modLink (l : LinkId) (f : Link → Link) (s : State) : State :=
  { s with links := tput s.links l (f (s.link l)) }
/-- The renewal record of a link changed (R75). -/
def State.modRenewal (l : LinkId) (f : Renewal → Renewal) (s : State) : State :=
  s.modLink l fun k => { k with renewal := f k.renewal }

/-- The root key record of a link (R22). -/
def State.root (s : State) (l : LinkId) : RootRecord := tget s.keys.roots l
/-- A root key record replaced. -/
def State.setRoot (l : LinkId) (r : RootRecord) (s : State) : State :=
  { s with keys := { s.keys with roots := tput s.keys.roots l r } }

/-- An epoch key slot (R25). -/
def State.slot (s : State) (k : SlotNo) : KeySlot := tget s.keys.slots k
/-- An epoch key slot changed. -/
def State.modSlot (k : SlotNo) (f : KeySlot → KeySlot) (s : State) : State :=
  { s with keys := { s.keys with slots := tput s.keys.slots k (f (s.slot k)) } }

/-- The key wait list replaced (R31). -/
def State.setWaitList (w : List LinkId) (s : State) : State :=
  { s with keys := { s.keys with waitList := w } }
/-- The derivation request list replaced (R34). -/
def State.setRequests (r : List DerivationRequest) (s : State) : State :=
  { s with keys := { s.keys with requests := r } }
/-- The derivation in flight replaced (R35). -/
def State.setDerivation (d : Option Derivation) (s : State) : State :=
  { s with keys := { s.keys with derivation := d } }

/-- A descriptor, absent where it is free (R103). -/
def State.desc (s : State) (d : DescNo) : Option Descriptor := tget s.store.descs d
/-- A descriptor replaced. -/
def State.setDesc (d : DescNo) (x : Option Descriptor) (s : State) : State :=
  { s with store := { s.store with descs := tput s.store.descs d x } }
/-- A held descriptor changed; a free one stays free. -/
def State.modDesc (d : DescNo) (f : Descriptor → Descriptor) (s : State) : State :=
  s.setDesc d ((s.desc d).map f)
/-- A frame's units and descriptor are freed together (R104); the units are those of its chain. -/
def State.freeFrame (d : DescNo) (s : State) : State := s.setDesc d none

/-- The outbound link queue of a link (R105). -/
def State.queue (s : State) (l : LinkId) : List DescNo := tget s.store.queues l
/-- An outbound link queue replaced. -/
def State.setQueue (l : LinkId) (q : List DescNo) (s : State) : State :=
  { s with store := { s.store with queues := tput s.store.queues l q } }
/-- The delivery queue replaced (R117). -/
def State.setDelivery (q : List DescNo) (s : State) : State :=
  { s with store := { s.store with delivery := q } }

/-- The circuit receiver of a link (R136). -/
def State.receiver (s : State) (l : LinkId) : Receiver := tget s.trunk.receivers l
/-- A circuit receiver replaced. -/
def State.setReceiver (l : LinkId) (r : Receiver) (s : State) : State :=
  { s with trunk := { s.trunk with receivers := tput s.trunk.receivers l r } }
/-- The circuit transmitter of a link (R134). -/
def State.transmitter (s : State) (l : LinkId) : Transmitter := tget s.trunk.transmitters l
/-- A circuit transmitter replaced. -/
def State.setTransmitter (l : LinkId) (t : Transmitter) (s : State) : State :=
  { s with trunk := { s.trunk with transmitters := tput s.trunk.transmitters l t } }

/-- A port's alignment monitor (R121). -/
def State.monitor (s : State) : Port → Monitor
  | .a => s.trunk.monitorA
  | .b => s.trunk.monitorB
/-- A port's alignment monitor replaced. -/
def State.setMonitor (p : Port) (m : Monitor) (s : State) : State :=
  match p with
  | .a => { s with trunk := { s.trunk with monitorA := m } }
  | .b => { s with trunk := { s.trunk with monitorB := m } }

/-- The sealer's frame in sealing replaced (R41). -/
def State.setSealing (r : Option Sealing) (s : State) : State :=
  { s with sealer := { s.sealer with current := r } }
/-- The sealer's request list replaced (R41). -/
def State.setSealRequests (r : List LinkId) (s : State) : State :=
  { s with sealer := { s.sealer with requests := r } }
/-- The opener's frame in opening replaced (R60). -/
def State.setOpening (r : Option Opening) (s : State) : State :=
  { s with opener := { s.opener with current := r } }
/-- The open list replaced (R59). -/
def State.setOpenList (w : List DescNo) (s : State) : State :=
  { s with opener := { s.opener with waiting := w } }

/-- The host port changed. -/
def State.modHost (f : HostPort → HostPort) (s : State) : State := { s with host := f s.host }
/-- The supervisor changed. -/
def State.modFaults (f : Supervisor → Supervisor) (s : State) : State :=
  { s with faults := f s.faults }

/-! ### Statistics, event counts and the notice list -/

/-- The place of a counter in the order of R20's table. -/
def Counter.index : Counter → Fin 14
  | .framesSealed => 0
  | .delivered => 1
  | .badHeader => 2
  | .noBuffer => 3
  | .unknownEpoch => 4
  | .noKey => 5
  | .badSeq => 6
  | .stale => 7
  | .repeated => 8
  | .budget => 9
  | .badTag => 10
  | .isolatedDiscard => 11
  | .protocol => 12
  | .abandoned => 13

/-- One more event on a statistics counter of a link, saturating (R20). -/
def State.count (l : LinkId) (c : Counter) (s : State) : State :=
  s.modLink l fun k => { k with stats := tput k.stats c.index (satInc (tget k.stats c.index)) }

/-- The event counts of the current second of a link (R143). -/
def State.events (s : State) (l : LinkId) : LinkEvents := tget s.faults.linkEvents l

/-- A link's event counts of the current second changed (R143). -/
def State.modEvents (l : LinkId) (f : LinkEvents → LinkEvents) (s : State) : State :=
  s.modFaults fun v => { v with linkEvents := tput v.linkEvents l (f (tget v.linkEvents l)) }

/-- An item joins the end of the notice list (R165). -/
def State.listNotice (n : NoticeItem) (s : State) : State :=
  s.modHost fun h => { h with notices := h.notices ++ [n] }

/-- R5: the link-event pending flag is set; where it was clear, the link joins the notice list. -/
def State.setEventPending (l : LinkId) (s : State) : State :=
  if (s.link l).eventPending then s
  else (s.modLink l fun k => { k with eventPending := true }).listNotice (.link l)

/-! ### The bytes of the units -/

/-- What a byte of a unit reads as that nothing has written since power-on (log entry 7). -/
def Memory.unwritten : Byte := 0

/-- The byte at an address; the byte of unit `u` at offset `j` has address `64 * u + j` (R102). -/
def Memory.read : List Host.Cell → Nat → Byte
  | [], _ => Memory.unwritten
  | (x, c) :: m, a => if x = a then c else Memory.read m a

/-- One byte written, keeping the canonical form: addresses rising, no entry equal to what an unlisted
address reads as. -/
def Memory.write : List Host.Cell → Nat → Byte → List Host.Cell
  | [], a, b => if b = Memory.unwritten then [] else [(a, b)]
  | (x, c) :: m, a, b =>
    if a < x then (if b = Memory.unwritten then (x, c) :: m else (a, b) :: (x, c) :: m)
    else if a = x then (if b = Memory.unwritten then m else (a, b) :: m)
    else (x, c) :: Memory.write m a b

/-- Every entry lies at or above an address, the addresses rise, and no entry is an unwritten value. -/
def Memory.wfFrom : Nat → List Host.Cell → Bool
  | _, [] => true
  | lo, (x, c) :: m => decide (lo ≤ x) && decide (c ≠ Memory.unwritten) && Memory.wfFrom (x + 1) m

/-- The canonical form of the unit bytes. -/
def Memory.wf (m : List Host.Cell) : Bool := Memory.wfFrom 0 m

/-- The address of byte `j` of the content a unit chain holds (R103), where the chain reaches it. -/
def chainAddress (chain : List UnitNo) (j : Nat) : Option Nat :=
  (chain[j / 64]?).map fun u => 64 * u.val + j % 64

/-- Byte `j` of the content a unit chain holds. -/
def chainByte (mem : List Host.Cell) (chain : List UnitNo) (j : Nat) : Byte :=
  match chainAddress chain j with
  | some a => Memory.read mem a
  | none => Memory.unwritten

/-- The `n` bytes of a chain's content from byte `j` on. -/
def chainBytes (mem : List Host.Cell) (chain : List UnitNo) (j n : Nat) : List Byte :=
  (List.range n).map fun i => chainByte mem chain (j + i)

/-- Bytes written into a chain's content from byte `j` on. -/
def writeChain (chain : List UnitNo) : Nat → List Byte → List Host.Cell → List Host.Cell
  | _, [], mem => mem
  | j, b :: bs, mem =>
    writeChain chain (j + 1) bs
      (match chainAddress chain j with
        | some a => Memory.write mem a b
        | none => mem)

/-- Bytes written into the units of a chain. -/
def State.writeUnits (chain : List UnitNo) (j : Nat) (bs : List Byte) (s : State) : State :=
  { s with store := { s.store with mem := writeChain chain j bs s.store.mem } }

/-! ### Timers (R76) -/

/-- A timer of `limit` seconds starts, or counts again from zero. -/
def Timer.start (limit : Nat) : Timer := .running 0 limit

/-- A running timer pauses, keeping its count (R83). -/
def Timer.pause : Timer → Timer
  | .running c t => .paused c t
  | t => t

/-- A paused timer resumes from its count (R83). -/
def Timer.resume : Timer → Timer
  | .paused c t => .running c t
  | t => t

/-- One tick counted; only a running timer counts. -/
def Timer.advance : Timer → Timer
  | .running c t => .running (c + 1) t
  | t => t

/-- The timer has counted its last tick and its expiry is to be taken. -/
def Timer.due : Timer → Bool
  | .running c t => decide (t ≤ c)
  | _ => false

/-- The next tick is the timer's last, or its last tick has been counted. -/
def Timer.atLastTick : Timer → Bool
  | .running c t => decide (t ≤ c + 1)
  | _ => false

end Sys2Proof.Machine
end

