-- ==== Sys2Proof/Machine/Operands.lean ====
section
/-! DEFINITION. The forms in which fields travel: byte order, the codes of R172, link frames and the
three 16-byte cipher inputs (chapter 10), and the durations and limits that the profile's codes
stand for. -/

namespace Sys2Proof.Machine

/-! ### Byte order (R170: most significant byte first) -/

/-- A number in `k` bytes. -/
def beBytes : Nat → Nat → List Byte
  | 0, _ => []
  | k + 1, n => BitVec.ofNat 8 (n / 256 ^ k) :: beBytes k n

/-- The number that bytes spell. -/
def beNat (bs : List Byte) : Nat := bs.foldl (fun acc b => acc * 256 + b.toNat) 0

/-- The 16 bytes of a block. -/
def blockBytes (x : Block) : List Byte := beBytes 16 x.toNat

/-- The block of up to 16 bytes, padded with zero bytes to 16. -/
def blockOf (bs : List Byte) : Block := BitVec.ofNat 128 (beNat (bs ++ List.replicate (16 - bs.length) 0))

/-- The key of 32 bytes. -/
def keyOf (bs : List Byte) : Key := BitVec.ofNat 256 (beNat bs)

/-- Bytes exclusive-or bytes, as far as the first list goes. -/
def xorBytes (xs ys : List Byte) : List Byte := List.zipWith (fun x y => x ^^^ y) xs ys

/-- The one-byte code of a flag (R172). -/
def flagByte (b : Bool) : Byte := if b then 1 else 0

/-! ### Codes (R172) -/

def LinkState.code : LinkState → Byte
  | .idle => 0 | .configured => 1 | .active => 2 | .isolated => 3

def RootState.code : RootState → Byte
  | .empty => 0 | .fresh => 1 | .used => 2

def KeyState.code : KeyState → Byte
  | .free => 0 | .derivingKeys => 1 | .ready => 2 | .draining => 3

def RenewalState.code : RenewalState → Byte
  | .quiet => 0 | .offering => 1 | .derivingNext => 2 | .cutting => 3 | .backoff => 4

def TagAction.code : TagAction → Byte
  | .noAction => 0 | .renew => 1 | .isolate => 2

def TagAction.ofCode (b : Byte) : Option TagAction :=
  if b = 0 then some .noAction else if b = 1 then some .renew else if b = 2 then some .isolate else none

def laneCode : Option LaneMsg → Byte
  | none => 0
  | some (.offer ..) => 1
  | some (.cutover ..) => 2

/-- A byte that must be the code of a flag, an option or a choice of two. -/
def flagOfCode (b : Byte) : Option Bool :=
  if b = 0 then some false else if b = 1 then some true else none

def ProtectionMode.code : ProtectionMode → Byte
  | .auto => 0 | .fixedA => 1 | .fixedB => 2

def ProtectionMode.ofCode (b : Byte) : Option ProtectionMode :=
  if b = 0 then some .auto else if b = 1 then some .fixedA else if b = 2 then some .fixedB else none

def portCode : Port → Byte
  | .a => 0 | .b => 1

def MonitorState.code : MonitorState → Byte
  | .lost => 0 | .seeking => 1 | .aligned => 2

def EntryState.code : EntryState → Byte
  | .clear => 0 | .rising => 1 | .declared => 2 | .falling => 3

def FaultSource.code : FaultSource → Byte
  | .link l => BitVec.ofNat 8 l.val
  | .portA => 0x40 | .portB => 0x41 | .trunk => 0x42 | .keyStore => 0x43
  | .frameStore => 0x44 | .hostPort => 0x45 | .device => 0x46

/-- A link number carried in a byte, 00h to 3Fh. -/
def linkOfByte (b : Byte) : Option LinkId :=
  if h : b.toNat < 64 then some ⟨b.toNat, h⟩ else none

def FaultSource.ofCode (b : Byte) : Option FaultSource :=
  match linkOfByte b with
  | some l => some (.link l)
  | none =>
    if b = 0x40 then some .portA else if b = 0x41 then some .portB else if b = 0x42 then some .trunk
    else if b = 0x43 then some .keyStore else if b = 0x44 then some .frameStore
    else if b = 0x45 then some .hostPort else if b = 0x46 then some .device else none

/-- The place of a kind in R142's table. -/
def FaultKind.index : FaultKind → Fin 14
  | .portLoss => 0 | .trunkDown => 1 | .protectionSwitch => 2 | .headerErrors => 3
  | .tagFailures => 4 | .unknownEpoch => 5 | .inboundOverrun => 6 | .renewalFailed => 7
  | .keyExhausted => 8 | .epochExhausted => 9 | .keyStoreFull => 10 | .frameStoreLow => 11
  | .hostOverrun => 12 | .tableOverflow => 13

/-- Every kind, in the order of R142's table. -/
def allKinds : List FaultKind :=
  [.portLoss, .trunkDown, .protectionSwitch, .headerErrors, .tagFailures, .unknownEpoch,
   .inboundOverrun, .renewalFailed, .keyExhausted, .epochExhausted, .keyStoreFull, .frameStoreLow,
   .hostOverrun, .tableOverflow]

/-- Fault kind codes run from 01h in the order of the table. -/
def FaultKind.code (k : FaultKind) : Byte := BitVec.ofNat 8 (k.index.val + 1)

def FaultKind.ofCode (b : Byte) : Option FaultKind := allKinds.find? fun k => k.code = b

def ResetCause.code : ResetCause → Byte
  | .powerOn => 1 | .resetLine => 2 | .command => 3

def ResultCode.code : ResultCode → Byte
  | .ok => 0x00 | .accepted => 0x01 | .malformed => 0x80 | .unknownCommand => 0x81
  | .badValue => 0x82 | .wrongState => 0x83 | .profileCheck => 0x84 | .keyStoreFull => 0x85
  | .renewing => 0x86 | .quota => 0x87 | .storeFull => 0x88

/-- The kind code of a host record to the part (R171). -/
def RecordKind.code : RecordKind → Byte
  | .command => 0x01 | .trafficOut => 0x02

/-! ### Profile codes (R7, R8) -/

/-- The interval of a renewal interval code; code 0 is off. -/
def intervalSeconds : Nat → Option Nat
  | 1 => some 900 | 2 => some 3600 | 3 => some 14400 | 4 => some 43200 | 5 => some 86400
  | _ => none

/-- The offer timeout of an offer timeout code. -/
def offerSeconds : Nat → Nat
  | 0 => 2 | 1 => 5 | 2 => 10 | _ => 30

/-- The grace period of a grace code. -/
def graceSeconds : Nat → Nat
  | 0 => 5 | 1 => 15 | 2 => 60 | _ => 300

/-- The hard limit H of a budget class (R8). -/
def hardLimitOf (c : Nat) : Nat := 2 ^ (16 + 2 * c)

/-- The soft threshold S of a hard limit (R8). -/
def softLimitOf (h : Nat) : Nat := h - h / 4

/-- The blocks reserved above H for control frames (R47, R63). -/
def controlReserve : Nat := 1024

/-- Chunks of 16 bytes in a payload: ceil(P/16). -/
def chunks (p : Nat) : Nat := (p + 15) / 16

/-- The cost of a frame in blocks: 2·ceil(P/16) + 1 (R46, R63). -/
def cost (p : Nat) : Nat := 2 * chunks p + 1

/-- The last sequence number a TRAFFIC frame may take (R46). -/
def lastTrafficSeq : Nat := 0xFFFFFF00

/-- The last sequence number of all (R47). -/
def lastSeq : Nat := 0xFFFFFFFF

/-- Units of 64 bytes for `n` bytes. -/
def unitsFor (n : Nat) : Nat := (n + 63) / 64

/-! ### Link frames (R51, R138, chapter 10) -/

def FrameKind.code : FrameKind → Byte
  | .traffic => 0x01 | .offer => 0x11 | .accept => 0x12 | .cutover => 0x13 | .ask => 0x14

def FrameKind.ofCode (b : Byte) : Option FrameKind :=
  if b = 0x01 then some .traffic else if b = 0x11 then some .offer else if b = 0x12 then some .accept
  else if b = 0x13 then some .cutover else if b = 0x14 then some .ask else none

/-- The sum of bytes modulo 256. -/
def byteSum (bs : List Byte) : Byte := bs.foldl (fun acc b => acc + b) 0

/-- The first nine bytes of a link frame header (R51). -/
def headerFields (kind : FrameKind) (epoch seq p : Nat) : List Byte :=
  kind.code :: (beBytes 2 epoch ++ beBytes 4 seq ++ beBytes 2 (p + 8))

/-- The ten header bytes, the last making their sum FFh (R51). -/
def headerBytes (kind : FrameKind) (epoch seq p : Nat) : List Byte :=
  headerFields kind epoch seq p ++ [0xFF - byteSum (headerFields kind epoch seq p)]

/-- The fields the header check reads (R138). -/
structure HeaderFields where
  kind : FrameKind
  epoch : Nat
  seq : Nat
  bodyLength : Nat
  deriving DecidableEq, Repr

/-- R138, test 3: the body lengths of a kind. -/
def bodyLengthOk (kind : FrameKind) (maxPayload n : Nat) : Bool :=
  match kind with
  | .traffic => 9 ≤ n && n ≤ maxPayload + 8
  | .offer => n = 17
  | .accept => n = 22
  | .cutover => n = 22
  | .ask => n = 9

/-- R138: the header check of ten collected bytes. -/
def checkHeader (maxPayload : Nat) (bs : List Byte) : Option HeaderFields :=
  if byteSum bs = 0xFF then
    match FrameKind.ofCode (bs.headD 0) with
    | some kind =>
      let n := beNat ((bs.drop 7).take 2)
      if bodyLengthOk kind maxPayload n then
        some ⟨kind, beNat ((bs.drop 1).take 2), beNat ((bs.drop 3).take 4), n⟩
      else none
    | none => none
  else none

/-- The start byte of a link frame (R51). -/
def frameStart : Byte := 0xA3
/-- The fill of an idle transmitter (R133). -/
def fillByte : Byte := 0x55
/-- The byte of a slot that carries no link's stream (R133). -/
def idleByte : Byte := 0xFF

/-- The payload of an OFFER before encipherment (R52). -/
def offerPayload (epoch : Nat) (nh : Nonce) (attempt : Nat) : List Byte :=
  beBytes 2 epoch ++ beBytes 6 nh.toNat ++ beBytes 1 attempt

/-- The payload of a CUTOVER before encipherment (R52). -/
def cutoverPayload (epoch : Nat) (nh ns : Nonce) : List Byte :=
  beBytes 2 epoch ++ beBytes 6 nh.toNat ++ beBytes 6 ns.toNat

/-! ### Cipher inputs (R35, R52, R53, R65, R66) -/

/-- The direction byte: 0Fh for frames sealed by the part, F0h for frames sealed by the shop. -/
def directionByte (inbound : Bool) : Byte := if inbound then 0xF0 else 0x0F

/-- Counter block `i` of a frame (R52, R65). -/
def counterBlock (l : LinkId) (inbound : Bool) (epoch seq : Nat) (kind : FrameKind) (i : Nat) : Block :=
  blockOf (beBytes 1 l.val ++ [directionByte inbound] ++ beBytes 2 epoch ++ beBytes 4 seq ++
    [kind.code] ++ beBytes 3 0 ++ beBytes 4 i)

/-- The tag start block of a frame (R53, R66). -/
def tagStartBlock (l : LinkId) (inbound : Bool) (epoch seq : Nat) (kind : FrameKind) (p : Nat) : Block :=
  blockOf (beBytes 1 l.val ++ [directionByte inbound] ++ beBytes 2 epoch ++ beBytes 4 seq ++
    [kind.code] ++ beBytes 2 (p + 8) ++ beBytes 5 0)

/-- Derivation block `label` of a request (R35). -/
def derivationBlock (r : DerivationRequest) (label : Nat) : Block :=
  blockOf (beBytes 1 label ++ beBytes 1 r.link.val ++ beBytes 2 r.epoch ++
    beBytes 6 r.headNonce.toNat ++ beBytes 6 r.shopNonce.toNat)

/-- One block operation: the block function under a key (R38). -/
def encipher (k : Key) (x : Block) : Block := Config.blockFunction k x

/-- The tag of a finished chain: the first 8 bytes of T(m) (R53). -/
def tagOf (t : Block) : List Byte := (blockBytes t).take 8

end Sys2Proof.Machine
end

