-- ==== Sys2Proof/Machine/Flags.lean ====
section
/-! DEFINITION. The conditions and flags that other rules read: circuits, the sealer's conditions, the
standing triggers, the level conditions, the summary byte and the attention output. None of them is
stored twice: each is computed from the state it is defined by. -/

namespace Sys2Proof.Machine

/-- The other port. -/
def otherPort : Port → Port
  | .a => .b
  | .b => .a

/-- The trunk is up while the selected port's monitor is ALIGNED (R123). -/
def trunkUp (s : State) : Bool := (s.monitor s.trunk.selected).state = .aligned

/-- The slot set of a link in a map, in ascending order (R127). -/
def slotSet (map : Vector (Option LinkId) 96) (l : LinkId) : List TrunkSlot :=
  (allFin 96).filter fun i => tget map i = some l

/-- The link has at least one live trunk slot. -/
def hasSlot (s : State) (l : LinkId) : Bool := (allFin 96).any fun i => tget s.trunk.live i = some l

/-- The link's circuit is up (R132). -/
def circuitUp (s : State) (l : LinkId) : Bool := trunkUp s && hasSlot s l

/-- The link is ACTIVE or ISOLATED. -/
def Link.live (k : Link) : Bool := k.state = .active || k.state = .isolated

/-- The link's circuit receiver runs (R136). -/
def receiverRuns (s : State) (l : LinkId) : Bool := (s.link l).live && circuitUp s l

/-- The hard limit H of a link's key slots (R8). -/
def hardLimit (s : State) (l : LinkId) : Nat :=
  match (s.link l).profile with
  | some p => hardLimitOf p.budgetClass
  | none => 0

/-- A role holds a slot that is READY. -/
def roleReady (s : State) (role : Option SlotNo) : Bool :=
  match role with
  | some k => (s.slot k).state = .ready
  | none => false

/-- R42: the control lane holds a message whose key slot is READY. -/
def laneReady (s : State) (k : Link) : Bool :=
  match k.lane with
  | some (.offer ..) => roleReady s k.current
  | some (.cutover ..) => roleReady s k.next
  | none => false

/-- R42: the outbound queue has a sendable head frame. -/
def headSendable (s : State) (l : LinkId) : Bool :=
  let k := s.link l
  !(s.queue l).isEmpty && k.state = .active && roleReady s k.current && !k.budgetHeld &&
    (!k.hold || 0 < k.allowance)

/-- R42: the link's transmitter is idle and no frame of the link is in sealing. -/
def pathFree (s : State) (l : LinkId) : Bool :=
  s.transmitter l = .idle &&
    match s.sealer.current with
    | some r => r.link ≠ l
    | none => true

/-- R42: the link may be on the sealer's request list. -/
def sealEligible (s : State) (l : LinkId) : Bool :=
  (laneReady s (s.link l) || headSendable s l) && pathFree s l && hasSlot s l

/-- The current slot's soft-crossed flag. -/
def softCrossed (s : State) (k : Link) : Bool :=
  match k.current with
  | some c => (s.slot c).softCrossed
  | none => false

/-- R78: at least one standing condition of the link holds. -/
def standing (s : State) (l : LinkId) : Bool :=
  let k := s.link l
  softCrossed s k || k.budgetHeld || k.renewal.interval = .expired

/-! ### The frame store's counts (R104, R118, R119) -/

/-- The descriptors of a direction's share: outbound 0 to 383, inbound 384 to 511 (R102). -/
def shareDescs (inbound : Bool) : List DescNo :=
  (allFin 512).filter fun d => decide (384 ≤ d.val) = inbound

/-- The units of a direction's share: outbound 0 to 1279, inbound 1280 to 2047 (R102). -/
def shareUnits (inbound : Bool) : List UnitNo :=
  (allFin 2048).filter fun u => decide (1280 ≤ u.val) = inbound

/-- The units of a frame. -/
def frameUnits (s : State) (d : DescNo) : List UnitNo :=
  match s.desc d with
  | some x => x.chain
  | none => []

/-- Every unit held in a share. -/
def heldUnits (s : State) (inbound : Bool) : List UnitNo :=
  (shareDescs inbound).flatMap (frameUnits s)

/-- The size of a share in units (R102). -/
def shareUnitCount (inbound : Bool) : Nat := if inbound then 768 else 1280
/-- The size of a share in descriptors (R102). -/
def shareDescCount (inbound : Bool) : Nat := if inbound then 128 else 384

/-- The units a share holds. -/
def unitsHeld (s : State) (inbound : Bool) : Nat := (heldUnits s inbound).length
/-- The units a share has free. -/
def unitsFree (s : State) (inbound : Bool) : Nat := shareUnitCount inbound - unitsHeld s inbound
/-- The descriptors a share holds. -/
def descsHeld (s : State) (inbound : Bool) : Nat :=
  ((shareDescs inbound).filter fun d => (s.desc d).isSome).length
/-- The descriptors a share has free. -/
def descsFree (s : State) (inbound : Bool) : Nat := shareDescCount inbound - descsHeld s inbound

/-- The units of the frames of a list. -/
def unitsOf (s : State) (ds : List DescNo) : Nat := (ds.flatMap (frameUnits s)).length

/-- A link's outbound units, for its quota and its queue's depth (R104, R105). -/
def queueUnits (s : State) (l : LinkId) : Nat := unitsOf s (s.queue l)

/-! ### Level conditions (R142, R144) -/

/-- EPOCH_EXHAUSTED of a link (R79). -/
def epochExhausted (s : State) (l : LinkId) : Bool :=
  let k := s.link l
  k.live &&
    match k.current with
    | some c => (s.slot c).epoch = 65535
    | none => false

/-- FRAME_STORE_LOW (R118). -/
def frameStoreLow (s : State) : Bool := unitsFree s false < 128 || unitsFree s true < 48

/-! ### The host port's flags (R163, R164) -/

/-- The attention output: a reply, a notice or an inbound frame waits (R164). -/
def attentionOutput (s : State) : Bool :=
  !s.host.replies.isEmpty || !s.host.notices.isEmpty || !s.store.delivery.isEmpty

/-- The summary byte: records lost, fault declared, notices waiting, traffic waiting in bits 0 to 3
(R163, R172). -/
def summaryByte (s : State) : Byte :=
  (if s.host.recordsLost then 1 else 0) +
  (if s.faults.entries.any (fun e => e.state = .declared) then 2 else 0) +
  (if s.host.notices.isEmpty then 0 else 4) +
  (if s.store.delivery.isEmpty then 0 else 8)

/-- A record or malformed entry can be taken: room in the reply queue and no RESET pending (R162). -/
def canTake (s : State) : Bool :=
  decide (s.host.replies.length < Config.replyQueueSize) && !s.host.resetPending

/-- The arbiter can choose a record: the line is free, something waits and the reset input is not
asserted (R164, R169). -/
def canSend (s : State) : Bool :=
  s.host.line.isNone && attentionOutput s && !s.host.resetInput

end Sys2Proof.Machine
end

