-- ==== Sys2Proof/Machine/Renewal.lean ====
section
/-! DEFINITION. The key store's allocation, release and hand-over (chapter 2) and the renewal controller
(chapter 5). They stand together because a slot that becomes FREE starts the renewal of the link at
the head of the key wait list in the same event (R32). -/

namespace Sys2Proof.Machine

/-! ### Key slots (R27 to R33) -/

/-- The lowest-numbered FREE key slot (R27). -/
def lowestFreeSlot (s : State) : Option SlotNo := (allFin 160).find? fun k => (s.slot k).state = .free

/-- R27: a slot is allocated to a link for an epoch; its other fields take R25's allocation values. -/
def allocateSlot (k : SlotNo) (l : LinkId) (epoch : Nat) (s : State) : State :=
  s.modSlot k fun _ => { state := .derivingKeys, owner := l, epoch := epoch, next := .number 1 }

/-- The head nonce of draw `n`: never zero (R37). -/
def headNonce (n : Nat) : Nonce := BitVec.ofNat 48 ((Config.nonceSource n).val + 1)

/-- R80, R81: the start of a link's renewal on a given key slot, steps 1 to 6. -/
def startRenewal (l : LinkId) (k : SlotNo) (s : State) : State :=
  match (s.link l).current with
  | none => s
  | some c =>
    let e := (s.slot c).epoch + 1
    let nh := headNonce s.draws.nonces
    let s := { s with draws := { s.draws with nonces := s.draws.nonces + 1 } }
    (allocateSlot k l e s).modLink l fun x =>
      { x with
        next := some k
        lane := some (.offer e nh 1)
        renewal := { x.renewal with
          state := .offering, offeredEpoch := e, headNonce := nh, shopNonce := 0, attempts := 1,
          pendingTrigger := false } }

/-- R32: FREE slots, lowest first, go to the waiting links in order, head first. -/
def handOverTo : List LinkId → State → State
  | [], s => s
  | l :: rest, s =>
    match lowestFreeSlot s with
    | some k => handOverTo rest (startRenewal l k (s.setWaitList rest))
    | none => s

/-- R32: the slots that became FREE in an event are offered to the key wait list. -/
def handOver (s : State) : State := handOverTo s.keys.waitList s

/-- R29: a slot detached from its role has its waiting derivation request withdrawn, and is erased and
FREE, or DRAINING while operations on it are in flight. -/
def releaseSlot (k : SlotNo) (s : State) : State :=
  (s.setRequests (s.keys.requests.filter fun r => r.slot ≠ k)).modSlot k fun x =>
    if x.inFlight = 0 then {} else { x with state := .draining }

/-- Several slots released in one event (R32: the hand-over comes after all of them). -/
def releaseSlots (ks : List SlotNo) (s : State) : State := ks.foldl (fun s k => releaseSlot k s) s

/-- R28: an operation on the slot begins. -/
def raiseInFlight (k : SlotNo) (s : State) : State :=
  s.modSlot k fun x => { x with inFlight := x.inFlight + 1 }

/-- R30: an operation on the slot completes; a DRAINING slot whose count reaches 0 is erased, FREE and
offered to the key wait list. -/
def lowerInFlight (k : SlotNo) (s : State) : State :=
  if (s.slot k).state = .draining ∧ (s.slot k).inFlight ≤ 1 then handOver (s.modSlot k fun _ => {})
  else s.modSlot k fun x => { x with inFlight := x.inFlight - 1 }

/-- R33: a link leaves the key wait list; the others keep their order. -/
def leaveWaitList (l : LinkId) (s : State) : State :=
  s.setWaitList (s.keys.waitList.filter fun x => x ≠ l)

/-! ### Triggers (R77 to R81) -/

/-- R77: the controller may act on a trigger for the link. -/
def mayAct (k : Link) : Bool :=
  k.state = .active && k.renewal.state = .quiet && !k.renewal.pendingTrigger

/-- R79 to R81: the controller acts on a trigger: the epoch check, then the start or the wait. -/
def actOnTrigger (l : LinkId) (s : State) : State :=
  match (s.link l).current with
  | none => s
  | some c =>
    if (s.slot c).epoch = 65535 then s
    else
      match lowestFreeSlot s with
      | some k => startRenewal l k s
      | none =>
        (s.modRenewal l fun r => { r with pendingTrigger := true }).setWaitList (s.keys.waitList ++ [l])

/-- R77: a renewal trigger is acted on or absorbed. -/
def trigger (l : LinkId) (s : State) : State := if mayAct (s.link l) then actOnTrigger l s else s

/-- R78: the standing conditions are re-evaluated; however many hold, one trigger is taken. -/
def reevaluate (l : LinkId) (s : State) : State := if standing s l then trigger l s else s

/-! ### Abort, isolation and failure (R85, R94, R15) -/

/-- R94: the renewal of a link is aborted; the slots it frees go to the key wait list. -/
def abortRenewal (l : LinkId) (s : State) : State :=
  let k := s.link l
  let s := s.modLink l fun x =>
    { x with
      previous := none, next := none, lane := none
      renewal := { x.renewal with
        state := .quiet, offer := .stopped, grace := .stopped, backoff := .stopped,
        pendingTrigger := false } }
  handOver (releaseSlots (k.next.toList ++ k.previous.toList) (leaveWaitList l s))

/-- R13, R94: an ACTIVE link becomes ISOLATED and its renewal is aborted. -/
def isolate (l : LinkId) (s : State) : State :=
  abortRenewal l (s.modLink l fun x => { x with state := .isolated })

/-- R15: automatic isolation; a link that is not ACTIVE is left as it is. -/
def autoIsolate (l : LinkId) (s : State) : State :=
  if (s.link l).state = .active then (isolate l s).setEventPending l else s

/-- R6: the profile's renewal-failure action is ISOLATE. -/
def isolatesOnFailure (k : Link) : Bool :=
  match k.profile with
  | some p => p.isolateOnFailure
  | none => false

/-- R85: a renewal fails: steps 1 to 5. An OFFER that waits in the lane is withdrawn, since R75's table lets
the lane hold nothing in BACKOFF; R85 names no emptying (DEDUCED, log entry 31). -/
def failRenewal (l : LinkId) (s : State) : State :=
  let k := s.link l
  let s := handOver (releaseSlots k.next.toList (s.modLink l fun x => { x with next := none, lane := none }))
  let s := s.modRenewal l fun r => { r with offer := .stopped, failureMark := true }
  if isolatesOnFailure k then autoIsolate l s
  else
    s.modRenewal l fun r =>
      { r with state := .backoff, backoff := Timer.start Config.backoffSeconds }

/-! ### Cutover and retirement (R91 to R93) -/

/-- The interval timer as it starts or restarts: stopped with code 0 (R7, R76). -/
def startedInterval (k : Link) : Timer :=
  match k.profile.bind fun p => intervalSeconds p.intervalCode with
  | some t => Timer.start t
  | none => .stopped

/-- R91: the cutover of a link, before its CUTOVER is admitted (R45). -/
def cutover (l : LinkId) (s : State) : State :=
  let k := s.link l
  let s := s.modLink l fun x =>
    { x with
      previous := x.current, current := x.next, next := none, budgetHeld := false
      renewal := { x.renewal with
        state := .cutting, interval := startedInterval x, failureMark := false } }
  (handOver (releaseSlots k.previous.toList s)).setEventPending l

/-- R93: the previous slot is retired: steps 1 to 4. -/
def retire (l : LinkId) (s : State) : State :=
  let k := s.link l
  let s := handOver (releaseSlots k.previous.toList (s.modLink l fun x => { x with previous := none }))
  reevaluate l (s.modRenewal l fun r => { r with grace := .stopped, state := .quiet })

/-- R72, R93: the opener reports a good frame's link and epoch; in CUTTING a frame under the current
slot's epoch retires the previous slot. -/
def reportEpoch (l : LinkId) (epoch : Nat) (s : State) : State :=
  match (s.link l).current with
  | some c =>
    if (s.link l).renewal.state = .cutting ∧ (s.slot c).epoch = epoch then retire l s else s
  | none => s

/-! ### Answers from the shop (R87 to R89) -/

/-- R87: the ACCEPT is a valid answer. -/
def acceptValid (k : Link) (epoch : Nat) (echo : Nonce) : Bool :=
  k.state = .active && k.renewal.state = .offering && k.renewal.offeredEpoch = epoch &&
    k.renewal.headNonce = echo

/-- R87: a waiting OFFER copy is withdrawn from the lane. -/
def withoutOffer : Option LaneMsg → Option LaneMsg
  | some (.offer ..) => none
  | m => m

/-- R87, R88: an ACCEPT is handed over; one that is not valid is counted PROTOCOL. -/
def handAccept (l : LinkId) (epoch : Nat) (echo ns : Nonce) (s : State) : State :=
  let k := s.link l
  if acceptValid k epoch echo then
    let s := s.modLink l fun x =>
      { x with
        lane := withoutOffer x.lane
        renewal := { x.renewal with state := .derivingNext, shopNonce := ns, offer := .stopped } }
    match k.next with
    | some n => s.setRequests (s.keys.requests ++ [⟨n, l, k.renewal.offeredEpoch, echo, ns⟩])
    | none => s
  else s.count l .protocol

/-- R89: an ASK is handed over, whatever its reason byte. -/
def handAsk (l : LinkId) (s : State) : State := trigger l s

/-- R90: the link's next slot has become READY, and a CUTOVER enters the lane. -/
def queueCutover (l : LinkId) (s : State) : State :=
  s.modLink l fun x =>
    { x with lane := some (.cutover x.renewal.offeredEpoch x.renewal.headNonce x.renewal.shopNonce) }

/-! ### Reports of sealed control frames (R82, R92) -/

/-- The offer timer as it starts: paused where the link's circuit is down (R82, R83). -/
def startedOffer (s : State) (l : LinkId) (k : Link) : Timer :=
  let t := Timer.start (match k.profile with | some p => offerSeconds p.offerCode | none => offerSeconds 0)
  if circuitUp s l then t else t.pause

/-- R82: a sealed OFFER is reported. -/
def reportOffer (l : LinkId) (s : State) : State :=
  if (s.link l).renewal.state = .offering then
    s.modRenewal l fun r => { r with offer := startedOffer s l (s.link l) }
  else s

/-- The grace timer as it starts (R7). -/
def startedGrace (k : Link) : Timer :=
  Timer.start (match k.profile with | some p => graceSeconds p.graceCode | none => graceSeconds 0)

/-- R92: a sealed CUTOVER is reported. -/
def reportCutover (l : LinkId) (s : State) : State :=
  if (s.link l).renewal.state = .cutting then
    s.modRenewal l fun r => { r with grace := startedGrace (s.link l) }
  else s

/-! ### Timer expiries (R76) -/

/-- The four timers of a renewal record. -/
inductive TimerName where
  | interval
  | offer
  | grace
  | backoff
  deriving DecidableEq, Repr

/-- A timer of a renewal record. -/
def Renewal.timer (r : Renewal) : TimerName → Timer
  | .interval => r.interval
  | .offer => r.offer
  | .grace => r.grace
  | .backoff => r.backoff

/-- R76: the interval timer expires, stands expired and raises a trigger. -/
def expireInterval (l : LinkId) (s : State) : State :=
  trigger l (s.modRenewal l fun r => { r with interval := .expired })

/-- The profile's offer attempts (R6). -/
def offerAttempts (k : Link) : Nat :=
  match k.profile with
  | some p => p.attempts
  | none => 0

/-- R84, R85: the offer timer expires; the OFFER is repeated, in place of whatever the lane holds (log
entry 26), or after the last attempt the renewal fails. -/
def expireOffer (l : LinkId) (s : State) : State :=
  let k := s.link l
  let s := s.modRenewal l fun r => { r with offer := .stopped }
  if k.renewal.state = .offering then
    if k.renewal.attempts < offerAttempts k then
      s.modLink l fun x =>
        { x with
          lane := some (.offer x.renewal.offeredEpoch x.renewal.headNonce (x.renewal.attempts + 1))
          renewal := { x.renewal with attempts := x.renewal.attempts + 1 } }
    else failRenewal l s
  else s

/-- R93: the grace timer expires. -/
def expireGrace (l : LinkId) (s : State) : State :=
  let k := s.link l
  let s := s.modRenewal l fun r => { r with grace := .stopped }
  if k.renewal.state = .cutting then retire l s else s

/-- R86: the backoff timer expires. -/
def expireBackoff (l : LinkId) (s : State) : State :=
  let k := s.link l
  let s := s.modRenewal l fun r => { r with backoff := .stopped }
  if k.renewal.state = .backoff then reevaluate l (s.modRenewal l fun r => { r with state := .quiet })
  else s

/-- The expiry of a timer of a link. -/
def expire (t : TimerName) (l : LinkId) (s : State) : State :=
  match t with
  | .interval => expireInterval l s
  | .offer => expireOffer l s
  | .grace => expireGrace l s
  | .backoff => expireBackoff l s

end Sys2Proof.Machine
end

