-- ==== Sys2Proof/Machine/FrameStore.lean ====
section
/-! DEFINITION. Taking and freeing units and descriptors (chapter 6). -/

namespace Sys2Proof.Machine

/-- The lowest-numbered free descriptor of a share (R102). -/
def lowestFreeDesc (s : State) (inbound : Bool) : Option DescNo :=
  (shareDescs inbound).find? fun d => (s.desc d).isNone

/-- The first `n` members of a list that a test passes. -/
def takeSuch (p : UnitNo → Bool) : Nat → List UnitNo → List UnitNo
  | 0, _ => []
  | _ + 1, [] => []
  | n + 1, u :: us => if p u then u :: takeSuch p n us else takeSuch p (n + 1) us

/-- The `n` lowest-numbered free units of a share, fewer where it has fewer (R102). -/
def lowestFreeUnits (s : State) (inbound : Bool) (n : Nat) : List UnitNo :=
  let held := heldUnits s inbound
  takeSuch (fun u => !held.contains u) n (shareUnits inbound)

/-- R104: the share can supply `n` units and a descriptor together, or it supplies neither. -/
def findRoom (s : State) (inbound : Bool) (n : Nat) : Option (DescNo × List UnitNo) :=
  match lowestFreeDesc s inbound with
  | some d =>
    let us := lowestFreeUnits s inbound n
    if us.length = n then some (d, us) else none
  | none => none

/-- Several frames freed in one event. -/
def freeFrames (ds : List DescNo) (s : State) : State := ds.foldl (fun s d => s.freeFrame d) s

/-- R107: an outbound frame that passed its checks takes its room, is written and joins its queue. -/
def admitOutbound (l : LinkId) (hostTag : Byte) (payload : List Byte) (d : DescNo) (us : List UnitNo)
    (s : State) : State :=
  ((s.setDesc d (some ⟨l, false, .traffic, none, none, payload.length, us, some hostTag, none, none⟩)).writeUnits
    us 0 payload).setQueue l (s.queue l ++ [d])

/-- R115: an inbound frame whose header was accepted takes its room. -/
def admitInbound (l : LinkId) (h : HeaderFields) (d : DescNo) (us : List UnitNo) (s : State) : State :=
  s.setDesc d (some ⟨l, true, h.kind, some h.epoch, some h.seq, h.bodyLength - 8, us, none, none, none⟩)

end Sys2Proof.Machine
end

