-- ==== Sys2Proof/Machine/Sealing.lean ====
section
/-! DEFINITION. The cipher engine's arbiter (R38, R39) and the sealer (chapter 3): the request list, the
sealing start, the block operations of a sealing, and its completion. -/

namespace Sys2Proof.Machine

/-! ### The arbiter (R38, R39) -/

/-- R38: a requester's sequence has block operations left (and the unit is not performing one). -/
def waiting (s : State) : Requester → Bool
  | .sealer => match s.sealer.current with | some r => 0 < r.left | none => false
  | .opener => match s.opener.current with | some r => 0 < r.left | none => false
  | .deriver => match s.keys.derivation with | some d => 0 < d.left | none => false

/-- R39: the requesters in the fixed cyclic order, from the one after a given requester. -/
def orderAfter : Requester → List Requester
  | .sealer => [.opener, .deriver, .sealer]
  | .opener => [.deriver, .sealer, .opener]
  | .deriver => [.sealer, .opener, .deriver]

/-- R39: an idle unit is granted to the first waiting requester after the last served. -/
def grant (s : State) : State :=
  match s.engine.unit with
  | some _ => s
  | none =>
    match (orderAfter s.engine.lastServed).find? (waiting s) with
    | some r => { s with engine := ⟨some r, r⟩ }
    | none => s

/-! ### The request list (R43) -/

/-- R43: links whose conditions fail leave, the others keep their order, and links whose conditions
have come to hold join the end in ascending order. -/
def refreshRequests (s : State) : State :=
  let kept := s.sealer.requests.filter (sealEligible s)
  s.setSealRequests (kept ++ (allFin 64).filter fun l => !kept.contains l && sealEligible s l)

/-! ### Admission (R46 to R50) -/

/-- R49, R63: a cost is added to a slot's blocks used; the charge that first reaches S sets the
soft-crossed flag and raises a trigger. -/
def chargeSlot (k : SlotNo) (l : LinkId) (n : Nat) (s : State) : State :=
  let soft := softLimitOf (hardLimit s l)
  let x := s.slot k
  if soft ≤ x.used + n ∧ x.used < soft ∧ ¬ x.softCrossed then
    trigger l (s.modSlot k fun x => { x with used := x.used + n, softCrossed := true })
  else s.modSlot k fun x => { x with used := x.used + n }

/-- R48: the next sequence after one is reserved. -/
def seqAfter (n : Nat) : NextSeq := if n = lastSeq then .exhausted else .number (n + 1)

/-- R46: the sequence a TRAFFIC frame takes if it is admitted. -/
def trafficAdmission (s : State) (l : LinkId) (k : SlotNo) (p : Nat) : Option Nat :=
  match (s.slot k).next with
  | .number n =>
    if (s.slot k).used + cost p ≤ hardLimit s l ∧ n ≤ lastTrafficSeq then some n else none
  | .exhausted => none

/-- R47: the sequence a control frame takes if it is admitted. -/
def controlAdmission (s : State) (l : LinkId) (k : SlotNo) (p : Nat) : Option Nat :=
  match (s.slot k).next with
  | .number n =>
    if (s.slot k).used + cost p ≤ hardLimit s l + controlReserve ∧ n ≤ lastSeq then some n else none
  | .exhausted => none

/-- R48 to R50: an admitted frame reserves its sequence, is charged, raises the in-flight count, has its
header (and a control frame its payload) written, and fills the sealing record; the sealer becomes a
requester of the engine. The tag chain value stands at 0 until the first block operation ends (DESIGN
CHOICE, log entry 32). -/
def admitSealing (l : LinkId) (kind : FrameKind) (k : SlotNo) (seq p : Nat) (desc : Option DescNo)
    (payload : List Byte) (s : State) : State :=
  let epoch := (s.slot k).epoch
  let s := s.modSlot k fun x => { x with next := seqAfter seq }
  let s := raiseInFlight k (chargeSlot k l (cost p) s)
  let h := headerBytes kind epoch seq p
  let s :=
    match desc with
    | some d => s.modDesc d fun x => { x with epoch := some epoch, seq := some seq, header := some h }
    | none =>
      { s with sealer := { s.sealer with
          control := payload ++ s.sealer.control.drop payload.length, controlHeader := h } }
  grant (s.setSealing (some ⟨l, kind, k, epoch, seq, p, desc, cost p, 0, false⟩))

/-- R50: the release allowance is lowered by 1 for a traffic frame admitted under hold. -/
def spendAllowance (k : Link) : Link :=
  if k.hold then { k with allowance := k.allowance - 1 } else k

/-- R46: the head traffic frame of a link is admitted, or held with budget-held set and a trigger. -/
def startTraffic (l : LinkId) (s : State) : State :=
  match (s.link l).current, s.queue l with
  | some k, d :: rest =>
    match s.desc d with
    | some x =>
      match trafficAdmission s l k x.length with
      | some seq =>
        admitSealing l .traffic k seq x.length (some d) []
          ((s.setQueue l rest).modLink l spendAllowance)
      | none => trigger l (s.modLink l fun x => { x with budgetHeld := true })
    | none => s
  | _, _ => s

/-- R45, R47: a lane message is sealed under the current slot, a CUTOVER after the cutover; an OFFER that
is not admitted fails the renewal. -/
def startControl (l : LinkId) (m : LaneMsg) (s : State) : State :=
  match m with
  | .offer e nh attempt =>
    match (s.link l).current with
    | some k =>
      match controlAdmission s l k 9 with
      | some seq => admitSealing l .offer k seq 9 none (offerPayload e nh attempt) s
      | none => failRenewal l s
    | none => s
  | .cutover e nh ns =>
    let s := cutover l s
    match (s.link l).current with
    | some k =>
      match controlAdmission s l k 14 with
      | some seq => admitSealing l .cutover k seq 14 none (cutoverPayload e nh ns) s
      | none => s
    | none => s

/-- R44: the sealer is free and its request list is not empty. -/
def sealerReady (s : State) : Bool := s.sealer.current.isNone && !s.sealer.requests.isEmpty

/-- R44: the sealing start: the head link leaves the list; its lane message, else its head frame, goes
through admission. -/
def startSealing (s : State) : State :=
  match s.sealer.current, s.sealer.requests with
  | none, l :: rest =>
    let s := s.setSealRequests rest
    match (s.link l).lane with
    | some m => startControl l m (s.modLink l fun x => { x with lane := none })
    | none => startTraffic l s
  | _, _ => s

/-! ### The frame's bytes and block operations (R52 to R54) -/

/-- The bytes in chunk `k` of a payload of `p` bytes. -/
def chunkLength (p k : Nat) : Nat := min 16 (p - 16 * k)

/-- Bytes of the payload in sealing: in the frame's units, or in the control buffer. -/
def sealingBytes (s : State) (r : Sealing) (j n : Nat) : List Byte :=
  match r.desc with
  | some d => chainBytes s.store.mem (frameUnits s d) j n
  | none => (s.sealer.control.drop j).take n

/-- Bytes of the payload in sealing overwritten in place (R52). -/
def writeSealing (r : Sealing) (j : Nat) (bs : List Byte) (s : State) : State :=
  match r.desc with
  | some d => s.writeUnits (frameUnits s d) j bs
  | none =>
    { s with sealer := { s.sealer with
        control := s.sealer.control.take j ++ bs ++ s.sealer.control.drop (j + bs.length) } }

/-- The state after block operation `i` of a sealing (R54): operation 0 is the tag start block; then for
each chunk the counter block enciphers it in place and the tag chain takes it. -/
def sealingOperation (r : Sealing) (i : Nat) (s : State) : State × Block :=
  let x := s.slot r.slot
  if i = 0 then
    (s, encipher x.integrityKey (tagStartBlock r.link false r.epoch r.seq r.kind r.length))
  else if i % 2 = 1 then
    let k := i / 2
    let ks := blockBytes (encipher x.cipherKey (counterBlock r.link false r.epoch r.seq r.kind k))
    (writeSealing r (16 * k) (xorBytes (sealingBytes s r (16 * k) (chunkLength r.length k)) ks) s,
      r.tagChain)
  else
    let k := i / 2 - 1
    (s, encipher x.integrityKey
      (r.tagChain ^^^ blockOf (sealingBytes s r (16 * k) (chunkLength r.length k))))

/-! ### Completion (R55, R56) -/

/-- A discarded frame's units and descriptor are freed; a control frame holds none. -/
def freeSealed (r : Sealing) (s : State) : State :=
  match r.desc with
  | some d => s.freeFrame d
  | none => s

/-- R53: the tag is written into the descriptor of a TRAFFIC frame, and beside the control buffer for a
control frame, whatever becomes of the frame. -/
def writeTag (r : Sealing) (tag : List Byte) (s : State) : State :=
  match r.desc with
  | some d => s.modDesc d fun x => { x with tag := some tag }
  | none => { s with sealer := { s.sealer with controlTag := tag } }

/-- R56, R134: the frame passes to the link's circuit transmitter, with its header and tag. -/
def handToTransmitter (r : Sealing) (s : State) : State :=
  match r.desc with
  | some d => s.setTransmitter r.link (.frame d 0)
  | none =>
    s.setTransmitter r.link
      (.copy (frameStart :: (s.sealer.controlHeader ++ s.sealer.control.take r.length ++
        s.sealer.controlTag)) 0)

/-- R56: the renewal controller is told of a sealed OFFER or CUTOVER. -/
def reportSealed (r : Sealing) (s : State) : State :=
  match r.kind with
  | .offer => reportOffer r.link s
  | .cutover => reportCutover r.link s
  | .traffic => s
  | .accept => s
  | .ask => s

/-- R53, R55, R56: the sealing completion. -/
def completeSealing (r : Sealing) (s : State) : State :=
  let s := lowerInFlight r.slot (writeTag r (tagOf r.tagChain) (s.setSealing none))
  if r.discard then freeSealed r s
  else
    let s := s.count r.link .framesSealed
    if hasSlot s r.link then reportSealed r (handToTransmitter r s)
    else reportSealed r (freeSealed r (s.count r.link .abandoned))

/-- R54: the sealer's block operation ends; the one that brings the count to 0 is the completion. -/
def endSealerOperation (s : State) : State :=
  match s.sealer.current with
  | some r =>
    let (s', t) := sealingOperation r (cost r.length - r.left) s
    let r := { r with left := r.left - 1, tagChain := t }
    if r.left = 0 then completeSealing r s' else s'.setSealing (some r)
  | none => s

end Sys2Proof.Machine
end

