-- ==== Sys2Proof/Machine/Opening.lean ====
section
/-! DEFINITION. The opener (chapter 4): the opening start with its pre-checks and charge, the block
operations of an opening, and its completion. -/

namespace Sys2Proof.Machine

/-! ### Pre-checks (R61 to R64) -/

/-- R61: the epoch is that of a held previous slot. -/
def resolvePrevious (s : State) (k : Link) (epoch : Nat) : Except Counter SlotNo :=
  match k.previous with
  | some p => if (s.slot p).epoch = epoch then .ok p else .error .unknownEpoch
  | none => .error .unknownEpoch

/-- R61: the slot a frame's epoch resolves to, or the counter of its rejection. -/
def resolveEpoch (s : State) (l : LinkId) (epoch : Nat) : Except Counter SlotNo :=
  let k := s.link l
  match k.current with
  | some c =>
    if (s.slot c).epoch = epoch then
      if (s.slot c).state = .ready then .ok c else .error .noKey
    else resolvePrevious s k epoch
  | none => resolvePrevious s k epoch

/-- R62: the window's verdict on a sequence: the counter of its rejection, if any. -/
def windowVerdict (x : KeySlot) (seq : Nat) : Option Counter :=
  if seq = 0 then some .badSeq
  else if seq ≤ x.highest then
    if 64 ≤ x.highest - seq then some .stale
    else if x.accepted.contains seq then some .repeated
    else none
  else none

/-- R63: the blocks a slot may reach for a frame of a kind. -/
def openingLimit (s : State) (l : LinkId) (kind : FrameKind) : Nat :=
  if kind = .traffic then hardLimit s l else hardLimit s l + controlReserve

/-- R61 to R63: the three pre-checks in their order. -/
def preCheck (s : State) (x : Descriptor) : Except Counter SlotNo :=
  match resolveEpoch s x.link (x.epoch.getD 0) with
  | .error c => .error c
  | .ok k =>
    match windowVerdict (s.slot k) (x.seq.getD 0) with
    | some c => .error c
    | none =>
      if (s.slot k).used + cost x.length ≤ openingLimit s x.link x.kind then .ok k
      else .error .budget

/-- R61, R143: the UNKNOWN_EPOCH event count rises at both rejections of the first pre-check. -/
def countEpochEvent (l : LinkId) (c : Counter) (s : State) : State :=
  if c = .unknownEpoch ∨ c = .noKey then
    s.modEvents l fun e => { e with unknownEpoch := satInc e.unknownEpoch }
  else s

/-- R64: a frame rejected at the opening start is dropped and counted. -/
def rejectFrame (d : DescNo) (l : LinkId) (c : Counter) (s : State) : State :=
  countEpochEvent l c ((s.freeFrame d).count l c)

/-- R63: a frame that passes is charged and becomes the frame in opening. The tag chain value stands at 0
until the first block operation ends (DESIGN CHOICE, log entry 32). -/
def chargeOpening (d : DescNo) (x : Descriptor) (k : SlotNo) (s : State) : State :=
  let s := raiseInFlight k (chargeSlot k x.link (cost x.length) s)
  grant (s.setOpening
    (some ⟨x.link, x.kind, k, x.epoch.getD 0, x.seq.getD 0, x.length, d, cost x.length, 0, false⟩))

/-- R60: the opener is free and the open list is not empty. -/
def openerReady (s : State) : Bool := s.opener.current.isNone && !s.opener.waiting.isEmpty

/-- R60: the opening start. -/
def startOpening (s : State) : State :=
  match s.opener.current, s.opener.waiting with
  | none, d :: rest =>
    let s := s.setOpenList rest
    match s.desc d with
    | some x =>
      match preCheck s x with
      | .ok k => chargeOpening d x k s
      | .error c => rejectFrame d x.link c s
    | none => s
  | _, _ => s

/-! ### Block operations (R65) -/

/-- The state after block operation `i` of an opening: operation 0 is the tag start block; then for each
chunk the tag chain takes it as received and the counter block deciphers it in place. -/
def openingOperation (r : Opening) (i : Nat) (s : State) : State × Block :=
  let x := s.slot r.slot
  let us := frameUnits s r.desc
  if i = 0 then
    (s, encipher x.integrityKey (tagStartBlock r.link true r.epoch r.seq r.kind r.length))
  else if i % 2 = 1 then
    let k := i / 2
    (s, encipher x.integrityKey
      (r.tagChain ^^^ blockOf (chainBytes s.store.mem us (16 * k) (chunkLength r.length k))))
  else
    let k := i / 2 - 1
    let ks := blockBytes (encipher x.cipherKey (counterBlock r.link true r.epoch r.seq r.kind k))
    (s.writeUnits us (16 * k)
      (xorBytes (chainBytes s.store.mem us (16 * k) (chunkLength r.length k)) ks), r.tagChain)

/-! ### Completion (R67 to R72) -/

/-- A number put into a descending list that does not hold it. -/
def insertDescending (n : Nat) : List Nat → List Nat
  | [] => [n]
  | m :: ms => if m < n then n :: m :: ms else if m = n then m :: ms else m :: insertDescending n ms

/-- R69: an accepted sequence is entered into the window. -/
def enterWindow (seq : Nat) (x : KeySlot) : KeySlot :=
  if x.highest < seq then
    { x with highest := seq, accepted := seq :: x.accepted.filter fun m => seq ≤ m + 63 }
  else { x with accepted := insertDescending seq x.accepted }

/-- R66: the computed tag equals the eight received tag bytes at the end of the body. -/
def tagMatches (s : State) (r : Opening) : Bool :=
  tagOf r.tagChain = chainBytes s.store.mem (frameUnits s r.desc) r.length 8

/-- The 48-bit number of six bytes. -/
def nonceOf (bs : List Byte) : Nonce := BitVec.ofNat 48 (beNat bs)

/-- R70, R71: a good frame is delivered, discarded or handed on by its kind and its link's state. -/
def disposeGood (r : Opening) (s : State) : State :=
  let bs := chainBytes s.store.mem (frameUnits s r.desc) 0 r.length
  match r.kind with
  | .traffic =>
    if (s.link r.link).state = .active then
      (s.setDelivery (s.store.delivery ++ [r.desc])).count r.link .delivered
    else (s.freeFrame r.desc).count r.link .isolatedDiscard
  | .accept =>
    (handAccept r.link (beNat (bs.take 2)) (nonceOf ((bs.drop 2).take 6)) (nonceOf ((bs.drop 8).take 6))
      s).freeFrame r.desc
  | .ask => (handAsk r.link s).freeFrame r.desc
  | .offer => (s.freeFrame r.desc).count r.link .protocol
  | .cutover => (s.freeFrame r.desc).count r.link .protocol

/-- R67 to R72: the opening completion. -/
def completeOpening (r : Opening) (s : State) : State :=
  let s := s.setOpening none
  if r.discard then lowerInFlight r.slot (s.freeFrame r.desc)
  else if tagMatches s r then
    let s := lowerInFlight r.slot (s.modSlot r.slot (enterWindow r.seq))
    disposeGood r (reportEpoch r.link r.epoch s)
  else
    let s := ((s.freeFrame r.desc).count r.link .badTag).modEvents r.link fun e =>
      { e with tagFailures := satInc e.tagFailures }
    lowerInFlight r.slot s

/-- R65: the opener's block operation ends; the one that brings the count to 0 is the completion. -/
def endOpenerOperation (s : State) : State :=
  match s.opener.current with
  | some r =>
    let (s', t) := openingOperation r (cost r.length - r.left) s
    let r := { r with left := r.left - 1, tagChain := t }
    if r.left = 0 then completeOpening r s' else s'.setOpening (some r)
  | none => s

end Sys2Proof.Machine
end

