-- ==== Sys2Proof/Machine/Deriver.lean ====
section
/-! DEFINITION. The key store's deriver (R35, R36), the end of a block operation on the cipher engine
(R39), and what the blocks take up by themselves within an event. -/

namespace Sys2Proof.Machine

/-! ### The deriver -/

/-- R35: the deriver is idle and the derivation request list is not empty. -/
def deriverReady (s : State) : Bool := s.keys.derivation.isNone && !s.keys.requests.isEmpty

/-- R35: the deriver begins the head request and takes a working copy of the link's root key. -/
def beginDerivation (s : State) : State :=
  match s.keys.derivation, s.keys.requests with
  | none, r :: rest =>
    let s := raiseInFlight r.slot (s.setRequests rest)
    grant (s.setDerivation (some ⟨r, (s.root r.link).key, 4, []⟩))
  | _, _ => s

/-- R35, R170: Kc is D1 followed by D2. -/
def cipherKeyOf (ds : List Block) : Key := ds.getD 0 0 ++ ds.getD 1 0
/-- R35, R170: Ki is D3 followed by D4. -/
def integrityKeyOf (ds : List Block) : Key := ds.getD 2 0 ++ ds.getD 3 0

/-- R36: the derivation completes: a slot that still fills its role takes its keys and becomes READY, and
a next slot has a CUTOVER queued (R90); a DRAINING slot's keys are dropped. -/
def completeDerivation (d : Derivation) (s : State) : State :=
  let k := d.request.slot
  let s := s.setDerivation none
  if (s.slot k).state = .derivingKeys then
    let s := s.modSlot k fun x =>
      { x with
        state := .ready, cipherKey := cipherKeyOf d.results, integrityKey := integrityKeyOf d.results,
        inFlight := x.inFlight - 1 }
    if (s.link d.request.link).next = some k then queueCutover d.request.link s else s
  else lowerInFlight k s

/-- R35: the deriver's block operation ends; the fourth is the completion. -/
def endDeriverOperation (s : State) : State :=
  match s.keys.derivation with
  | some d =>
    let d := { d with
      left := d.left - 1
      results := d.results ++ [encipher d.rootCopy (derivationBlock d.request (5 - d.left))] }
    if d.left = 0 then completeDerivation d s else s.setDerivation (some d)
  | none => s

/-- The effect of the block operation that a requester has in the unit. -/
def endOperation (r : Requester) (s : State) : State :=
  match r with
  | .sealer => endSealerOperation s
  | .opener => endOpenerOperation s
  | .deriver => endDeriverOperation s

/-- R39: the unit ends its operation and is granted to the next waiting requester. -/
def freeUnit (s : State) : State := grant { s with engine := { s.engine with unit := none } }

/-! ### What the blocks take up by themselves (R43, R44, R60, R35) -/

/-- The three starts that come about by themselves. -/
inductive Start where
  | sealing
  | opening
  | derivation
  deriving DecidableEq, Repr

/-- Which start is taken next, if any can be; where sealer and opener both can, either may be first
(log entry 3). -/
def nextStart (s : State) : Option Start :=
  match sealerReady s, openerReady s with
  | true, true => some (if Config.sealerFirst s.draws.starts then .sealing else .opening)
  | true, false => some .sealing
  | false, true => some .opening
  | false, false => if deriverReady s then some .derivation else none

/-- The order of a double start is drawn afresh each time. -/
def drawStart (s : State) : State :=
  if sealerReady s && openerReady s then { s with draws := { s.draws with starts := s.draws.starts + 1 } }
  else s

/-- A start is taken. -/
def takeStart (c : Start) (s : State) : State :=
  match c with
  | .sealing => startSealing s
  | .opening => startOpening s
  | .derivation => beginDerivation s

/-- The request list follows its conditions, and every start that can be taken is taken, one after
another. -/
def settleBlocksFor : Nat → State → State
  | 0, s => refreshRequests s
  | n + 1, s =>
    match nextStart (refreshRequests s) with
    | some c => settleBlocksFor n (takeStart c (drawStart (refreshRequests s)))
    | none => refreshRequests s

/-- The bound on the starts of one event: far above the 128 frames of the open list and the starts the
64 links can make (log entry 8). -/
def startBound : Nat := 1024

/-- The blocks come to rest after an event. -/
def settleBlocks (s : State) : State := settleBlocksFor startBound s

end Sys2Proof.Machine
end

