-- ==== Sys2Proof/Machine/Trunk.lean ====
section
/-! DEFINITION. The trunk interface (chapter 7): alignment, protection, circuits, the circuit receivers and
transmitters, and the answer to a transmit cycle request. -/

namespace Sys2Proof.Machine

/-! ### Alignment (R121) -/

/-- R121: the monitor takes the marker verdict of a receive cycle. -/
def Monitor.mark (m : Monitor) (good : Bool) : Monitor :=
  match m.state, good with
  | .lost, true => ⟨.seeking, 1, 0⟩
  | .lost, false => m
  | .seeking, true => if 3 ≤ m.good + 1 then ⟨.aligned, 0, 0⟩ else { m with good := m.good + 1 }
  | .seeking, false => ⟨.lost, 0, 0⟩
  | .aligned, true => { m with bad := 0 }
  | .aligned, false => if 4 ≤ m.bad + 1 then ⟨.lost, 0, 0⟩ else { m with bad := m.bad + 1 }

/-- R121: the monitor takes a signal absence. -/
def Monitor.absent (_m : Monitor) : Monitor := ⟨.lost, 0, 0⟩

/-! ### Circuits (R132, R140, R83) -/

/-- R140: a receiver returns to HUNT, and a frame in BODY has its units and descriptor freed. -/
def abandonReception (l : LinkId) (s : State) : State :=
  match s.receiver l with
  | .body d _ => (s.freeFrame d).setReceiver l .hunt
  | .hunt => s
  | .header _ => s.setReceiver l .hunt
  | .skip _ => s.setReceiver l .hunt

/-- R132: a link's circuit goes down: its receiver stops, and its offer timer pauses. -/
def circuitGoesDown (l : LinkId) (s : State) : State :=
  (abandonReception l s).modRenewal l fun r => { r with offer := r.offer.pause }

/-- R132: a link's circuit comes up: its paused offer timer resumes, and its receiver runs from HUNT. -/
def circuitComesUp (l : LinkId) (s : State) : State :=
  s.modRenewal l fun r => { r with offer := r.offer.resume }

/-- R132: one link's circuit follows what has changed since an earlier state. -/
def reconcileCircuit (before : State) (s : State) (l : LinkId) : State :=
  match circuitUp before l, circuitUp s l with
  | true, false => circuitGoesDown l s
  | false, true => circuitComesUp l s
  | true, true => s
  | false, false => s

/-- R132: every link's circuit follows what has changed since an earlier state. -/
def reconcileCircuits (before : State) (s : State) : State :=
  (allFin 64).foldl (reconcileCircuit before) s

/-! ### Protection (R124, R125) -/

/-- R125: the selection changes to a port: every receiver returns to HUNT (one that is not running is
there already), and the switch is counted twice over. The trunk's state follows from the port. -/
def switchTo (p : Port) (s : State) : State :=
  let s := (allFin 64).foldl (fun s l => abandonReception l s) s
  let s := s.modFaults fun v => { v with protectionSwitches := satInc v.protectionSwitches }
  { s with trunk := { s.trunk with selected := p, switchCount := satInc s.trunk.switchCount } }

/-- R124: in AUTO the selection follows a change of a port's monitor from an earlier value. -/
def followMonitor (p : Port) (old : Monitor) (s : State) : State :=
  if s.trunk.mode = .auto ∧ (s.monitor p).state ≠ old.state then
    if p = s.trunk.selected then
      if (s.monitor p).state = .lost ∧ (s.monitor (otherPort p)).state = .aligned then
        switchTo (otherPort p) s
      else s
    else if (s.monitor p).state = .aligned ∧ (s.monitor s.trunk.selected).state ≠ .aligned then
      switchTo p s
    else s
  else s

/-- R122, parts 1 and 2: a port's monitor changes; selection, trunk and circuits follow. -/
def monitorEvent (p : Port) (f : Monitor → Monitor) (s : State) : State :=
  reconcileCircuits s (followMonitor p (s.monitor p) (s.setMonitor p (f (s.monitor p))))

/-! ### The circuit receiver (R137 to R139) -/

/-- R137, R138: a byte taken in HUNT, or in HEADER where it does not complete the header. -/
def huntByte (r : Receiver) (b : Byte) : Receiver :=
  match r with
  | .hunt => if b = frameStart then .header [] else .hunt
  | .header bs => .header (bs ++ [b])
  | .body d n => .body d n
  | .skip n => .skip n

/-- R138: the ten bytes of a failed header are taken again from HUNT. -/
def replayHeader (bs : List Byte) : Receiver := bs.foldl huntByte .hunt

/-- The largest payload of a link's profile (R6). -/
def maxPayloadOf (k : Link) : Nat :=
  match k.profile with
  | some p => p.maxPayload
  | none => 0

/-- R115: an accepted header asks the inbound share for room. -/
def acceptHeader (l : LinkId) (h : HeaderFields) (s : State) : State :=
  match findRoom s true (unitsFor h.bodyLength) with
  | some (d, us) => (admitInbound l h d us s).setReceiver l (.body d 0)
  | none =>
    ((s.count l .noBuffer).modEvents l fun e =>
      { e with inboundOverrun := satInc e.inboundOverrun }).setReceiver l (.skip h.bodyLength)

/-- R138: the header check of ten collected bytes. -/
def headerCollected (l : LinkId) (bs : List Byte) (s : State) : State :=
  match checkHeader (maxPayloadOf (s.link l)) bs with
  | some h => acceptHeader l h s
  | none =>
    ((s.count l .badHeader).modEvents l fun e =>
      { e with headerErrors := satInc e.headerErrors }).setReceiver l (replayHeader bs)

/-- The body length of the frame in a descriptor: P + 8. -/
def bodyLengthOf (s : State) (d : DescNo) : Nat :=
  match s.desc d with
  | some x => x.length + 8
  | none => 0

/-- R139: a body byte is written; the last hands the frame to the opener, which takes it at once if it
is free. -/
def bodyByte (l : LinkId) (d : DescNo) (n : Nat) (b : Byte) (s : State) : State :=
  let s := s.writeUnits (frameUnits s d) n [b]
  if bodyLengthOf s d ≤ n + 1 then
    settleBlocks ((s.setReceiver l .hunt).setOpenList (s.opener.waiting ++ [d]))
  else s.setReceiver l (.body d (n + 1))

/-- R137 to R139: one byte reaches a running receiver. -/
def receiverByte (l : LinkId) (b : Byte) (s : State) : State :=
  match s.receiver l with
  | .hunt => s.setReceiver l (huntByte .hunt b)
  | .header bs =>
    if bs.length + 1 < 10 then s.setReceiver l (.header (bs ++ [b])) else headerCollected l (bs ++ [b]) s
  | .body d n => bodyByte l d n b s
  | .skip n => s.setReceiver l (if n ≤ 1 then .hunt else .skip (n - 1))

/-- R122, part 3: the byte of one slot goes to the receiver of the link that owns the slot. -/
def feedSlot (bytes : Vector Byte 96) (s : State) (i : TrunkSlot) : State :=
  match tget s.trunk.live i with
  | some l => if receiverRuns s l then receiverByte l (tget bytes i) s else s
  | none => s

/-- R122, part 3: a cycle's bytes are fed in ascending slot order. -/
def feedCycle (bytes : Vector Byte 96) (s : State) : State := (allFin 96).foldl (feedSlot bytes) s

/-! ### The circuit transmitter (R133 to R135) -/

/-- R134: byte `j` of a traffic frame as it is sent: start byte, header, ciphertext, tag. -/
def frameByte (s : State) (x : Descriptor) (j : Nat) : Byte :=
  if j = 0 then frameStart
  else if j ≤ 10 then (x.header.getD []).getD (j - 1) 0
  else if j - 11 < x.length then chainByte s.store.mem x.chain (j - 11)
  else (x.tag.getD []).getD (j - 11 - x.length) 0

/-- R134: a transmitter sends its next byte of a traffic frame; the last frees the frame. -/
def sendFrameByte (l : LinkId) (d : DescNo) (n : Nat) (s : State) : Byte × State :=
  match s.desc d with
  | some x =>
    (frameByte s x n,
      if x.length + 19 ≤ n + 1 then (s.freeFrame d).setTransmitter l .idle
      else s.setTransmitter l (.frame d (n + 1)))
  | none => (fillByte, s.setTransmitter l .idle)

/-- R133: the byte of a link's slot, and the link's transmitter after it. -/
def linkSlotByte (l : LinkId) (s : State) : Byte × State :=
  if (s.link l).live then
    match s.transmitter l with
    | .idle => (fillByte, s)
    | .frame d n => sendFrameByte l d n s
    | .copy bs n =>
      (bs.getD n 0, s.setTransmitter l (if bs.length ≤ n + 1 then .idle else .copy bs (n + 1)))
  else (idleByte, s)

/-- R133: one slot of the cycle, the bytes so far and the state. -/
def transmitSlot (acc : List Byte × State) (i : TrunkSlot) : List Byte × State :=
  match tget acc.2.trunk.live i with
  | none => (acc.1 ++ [idleByte], acc.2)
  | some l => (acc.1 ++ [(linkSlotByte l acc.2).1], (linkSlotByte l acc.2).2)

/-- R133: the cycle's 96 bytes are built in ascending slot order and sent on both ports. -/
def transmitCycle (s : State) : State :=
  let r := (allFin 96).foldl transmitSlot ([], s)
  { r.2 with trunk := { r.2.trunk with lastCycle := r.1 } }

/-- R135: a frame in transmission is abandoned and counted; an idle transmitter is left as it is. -/
def abandonTransmission (l : LinkId) (s : State) : State :=
  match s.transmitter l with
  | .idle => s
  | .frame d _ => ((s.freeFrame d).setTransmitter l .idle).count l .abandoned
  | .copy _ _ => (s.setTransmitter l .idle).count l .abandoned

end Sys2Proof.Machine
end

