-- ==== Sys2Proof/Machine/Answers.lean ====
section
/-! DEFINITION. What a command answers, and the checks that several commands share (R9, R162, R174). -/

namespace Sys2Proof.Machine

/-- The result of a command: the state it leaves and the reply's code and result fields (R163). -/
structure Answer where
  code : ResultCode
  fields : List Byte := []
  forReset : Bool := false
  deriving DecidableEq, Repr

/-- The reply OK with result fields. -/
def okWith (fields : List Byte) (s : State) : State × Answer := (s, ⟨.ok, fields, false⟩)

/-- The reply OK without result fields. -/
def ok (s : State) : State × Answer := okWith [] s

/-- A refusal without result fields: nothing else changes (R9). -/
def refuse (c : ResultCode) (s : State) : State × Answer := (s, ⟨c, [], false⟩)

/-- R9, first step: a link number above 63 is refused with BAD_VALUE. -/
def onLink (b : Byte) (f : LinkId → State → State × Answer) (s : State) : State × Answer :=
  match linkOfByte b with
  | some l => f l s
  | none => refuse .badValue s

/-- R109: a command taken only when the link is ACTIVE or ISOLATED. -/
def onLiveLink (b : Byte) (f : LinkId → State → State × Answer) (s : State) : State × Answer :=
  onLink b (fun l s => if (s.link l).live then f l s else refuse .wrongState s) s

end Sys2Proof.Machine
end

