-- ==== Sys2Proof/Machine/LinkCommands.lean ====
section
/-! DEFINITION. The effects of the link commands (chapter 1), of ROOT_LOAD, ROOT_ERASE and STORE_STATUS
(chapter 2) and of RENEW (R96). -/

namespace Sys2Proof.Machine

/-! ### LINK_CONFIGURE and LINK_UNCONFIGURE -/

/-- R6: the profile that the eleven fields of LINK_CONFIGURE give, where each is in its range. -/
def readProfile (maxPayload : W16) (budgetClass intervalCode offerCode attempts graceCode : Byte)
    (quota : W16) (threshold tagAction renewalAction startHeld : Byte) : Option Profile :=
  match TagAction.ofCode tagAction, flagOfCode renewalAction, flagOfCode startHeld with
  | some t, some r, some h =>
    if (16 ≤ maxPayload.toNat ∧ maxPayload.toNat ≤ 1024) ∧ budgetClass.toNat ≤ 6 ∧
        intervalCode.toNat ≤ 5 ∧ offerCode.toNat ≤ 3 ∧ (1 ≤ attempts.toNat ∧ attempts.toNat ≤ 7) ∧
        graceCode.toNat ≤ 3 ∧ (16 ≤ quota.toNat ∧ quota.toNat ≤ 1280) ∧ 1 ≤ threshold.toNat then
      some ⟨maxPayload.toNat, budgetClass.toNat, intervalCode.toNat, offerCode.toNat, attempts.toNat,
        graceCode.toNat, quota.toNat, threshold.toNat, t, r, h⟩
    else none
  | _, _, _ => none

/-- R10: LINK_CONFIGURE with the profile its fields give, or none where one is out of range. -/
def configure (link : Byte) (p : Option Profile) : State → State × Answer :=
  onLink link fun l s =>
    if (s.link l).state = .idle ∨ (s.link l).state = .configured then
      match p with
      | some p => ok (s.modLink l fun k => { k with state := .configured, profile := some p })
      | none => refuse .badValue s
    else refuse .wrongState s

/-- R19: LINK_UNCONFIGURE. -/
def unconfigure (link : Byte) : State → State × Answer :=
  onLink link fun l s =>
    if (s.link l).state = .configured then
      ok (s.modLink l fun k => { k with state := .idle, profile := none })
    else refuse .wrongState s

/-! ### LINK_ACTIVATE -/

/-- R11, R172: the failing flags of the activation check: NO_SLOTS, NO_ROOT, ROOT_USED in bits 0 to 2. -/
def activationFlags (s : State) (l : LinkId) : Byte :=
  (if hasSlot s l then 0 else 1) +
  (match (s.root l).state with
    | .empty => 2
    | .used => 4
    | .fresh => 0)

/-- R12: the activation of a link that passed its check, on a given key slot. -/
def activateOn (l : LinkId) (k : SlotNo) (s : State) : State :=
  let s := s.setRoot l { s.root l with state := .used }
  let s := allocateSlot k l 0 s
  let s := s.setRequests (s.keys.requests ++ [⟨k, l, 0, 0, 0⟩])
  let s := s.modLink l fun x =>
    { x with
      state := .active, current := some k, allowance := 0, budgetHeld := false
      hold := match x.profile with | some p => p.startHeld | none => false
      renewal := { x.renewal with
        state := .quiet, attempts := 0, pendingTrigger := false, interval := startedInterval x } }
  (s.setReceiver l .hunt).setTransmitter l .idle

/-- R11, R12: LINK_ACTIVATE. -/
def activate (link : Byte) : State → State × Answer :=
  onLink link fun l s =>
    if (s.link l).state = .configured then
      if activationFlags s l ≠ 0 then (s, ⟨.profileCheck, [activationFlags s l], false⟩)
      else
        match lowestFreeSlot s with
        | some k => ok (activateOn l k s)
        | none => refuse .keyStoreFull s
    else refuse .wrongState s

/-! ### LINK_ISOLATE, LINK_RESUME, LINK_DEACTIVATE -/

/-- R13: LINK_ISOLATE. -/
def isolateCommand (link : Byte) : State → State × Answer :=
  onLiveLink link fun l s => if (s.link l).state = .active then ok (isolate l s) else ok s

/-- R16: LINK_RESUME. -/
def resume (link : Byte) : State → State × Answer :=
  onLiveLink link fun l s =>
    if (s.link l).state = .isolated then
      ok (reevaluate l (s.modLink l fun k => { k with state := .active }))
    else ok s

/-- R18, R57: the discard mark of a frame of the link in sealing is set. -/
def markSealing (l : LinkId) (s : State) : State :=
  match s.sealer.current with
  | some r => if r.link = l then s.setSealing (some { r with discard := true }) else s
  | none => s

/-- R18, R73: the discard mark of a frame of the link in opening is set. -/
def markOpening (l : LinkId) (s : State) : State :=
  match s.opener.current with
  | some r => if r.link = l then s.setOpening (some { r with discard := true }) else s
  | none => s

/-- The frame in a descriptor is the link's. -/
def frameOf (s : State) (l : LinkId) (d : DescNo) : Bool :=
  match s.desc d with
  | some x => x.link = l
  | none => false

/-- R18: the frames of the link on the open list are discarded. -/
def discardOpenList (l : LinkId) (s : State) : State :=
  freeFrames (s.opener.waiting.filter (frameOf s l))
    (s.setOpenList (s.opener.waiting.filter fun d => !frameOf s l d))

/-- R18: at teardown every frame of the link is dealt with according to where it stands. -/
def disposeFrames (l : LinkId) (s : State) : State :=
  let s := markOpening l (markSealing l s)
  let s := abandonReception l (abandonTransmission l s)
  let s := discardOpenList l s
  (freeFrames (s.queue l) s).setQueue l []

/-- R17, R95: the link context after teardown; profile, statistics and the link-event pending flag are
kept. -/
def tornDown (k : Link) : Link :=
  { k with
    state := .configured, previous := none, current := none, next := none, renewal := {},
    hold := false, allowance := 0, budgetHeld := false, lane := none }

/-- R17: the teardown of a link. -/
def teardown (l : LinkId) (s : State) : State :=
  let k := s.link l
  let s := (leaveWaitList l (disposeFrames l s)).modLink l tornDown
  let s := s.setSealRequests (s.sealer.requests.filter fun x => x ≠ l)
  handOver (releaseSlots (k.previous.toList ++ k.current.toList ++ k.next.toList) s)

/-- R17: LINK_DEACTIVATE. -/
def deactivate (link : Byte) : State → State × Answer :=
  onLiveLink link fun l s => ok (teardown l s)

/-! ### LINK_STATUS -/

/-- The 13 profile bytes in LINK_CONFIGURE order, zero where no profile is present (R172, R174). -/
def profileBytes : Option Profile → List Byte
  | none => List.replicate 13 0
  | some p =>
    beBytes 2 p.maxPayload ++ beBytes 1 p.budgetClass ++ beBytes 1 p.intervalCode ++
    beBytes 1 p.offerCode ++ beBytes 1 p.attempts ++ beBytes 1 p.graceCode ++ beBytes 2 p.quota ++
    beBytes 1 p.threshold ++
    [p.tagAction.code, flagByte p.isolateOnFailure, flagByte p.startHeld]

/-- A role in a LINK_STATUS reply: present, key slot, epoch, slot state, blocks used (R174). -/
def roleBytes (s : State) : Option SlotNo → List Byte
  | none => List.replicate 9 0
  | some k =>
    [1] ++ beBytes 1 k.val ++ beBytes 2 (s.slot k).epoch ++ [(s.slot k).state.code] ++
      beBytes 4 (s.slot k).used

/-- The fourteen counters in the order of R20's table, 4 bytes each. -/
def statsBytes (k : Link) : List Byte := (allFin 14).flatMap fun i => beBytes 4 (tget k.stats i).toNat

/-- The result fields of LINK_STATUS (R21, R174). -/
def statusBytes (s : State) (l : LinkId) : List Byte :=
  let k := s.link l
  beBytes 1 l.val ++ [k.state.code, (s.root l).state.code, flagByte k.profile.isSome] ++
  profileBytes k.profile ++ roleBytes s k.previous ++ roleBytes s k.current ++ roleBytes s k.next ++
  [k.renewal.state.code] ++ beBytes 1 k.renewal.attempts ++ [flagByte k.hold] ++
  beBytes 1 k.allowance ++ [flagByte k.budgetHeld, laneCode k.lane, flagByte k.eventPending] ++
  beBytes 2 (s.queue l).length ++ beBytes 2 (queueUnits s l) ++ [flagByte (circuitUp s l)] ++
  beBytes 1 (slotSet s.trunk.live l).length ++ statsBytes k

/-- R21: every counter of the link becomes zero. -/
def clearStats (l : LinkId) (s : State) : State :=
  s.modLink l fun k => { k with stats := Vector.replicate 14 0 }

/-- R21: LINK_STATUS. -/
def linkStatus (link clear : Byte) : State → State × Answer :=
  onLink link fun l s =>
    match flagOfCode clear with
    | some true => okWith (statusBytes s l) (clearStats l s)
    | some false => okWith (statusBytes s l) s
    | none => refuse .badValue s

/-! ### ROOT_LOAD, ROOT_ERASE, STORE_STATUS -/

/-- R23: ROOT_LOAD. -/
def rootLoad (link : Byte) (key : List Byte) : State → State × Answer :=
  onLink link fun l s =>
    if (s.link l).live then refuse .wrongState s
    else if key.length = 32 then ok (s.setRoot l ⟨.fresh, keyOf key⟩)
    else refuse .badValue s

/-- R24: ROOT_ERASE. -/
def rootErase (link : Byte) : State → State × Answer :=
  onLink link fun l s =>
    if (s.link l).live then refuse .wrongState s else ok (s.setRoot l ⟨.empty, 0⟩)

/-- The number of key slots in a state (R40). -/
def slotsIn (s : State) (x : KeyState) : Nat := ((allFin 160).filter fun k => (s.slot k).state = x).length

/-- R119: the units held by partial frames in the circuit receivers. -/
def unitsInReception (s : State) : Nat :=
  unitsOf s ((allFin 64).flatMap fun l =>
    match s.receiver l with
    | .body d _ => [d]
    | _ => [])

/-- R119: the units held by frames on the open list or in opening. -/
def unitsInOpening (s : State) : Nat :=
  unitsOf s (s.opener.waiting ++
    (match s.opener.current with
      | some r => [r.desc]
      | none => []))

/-- R119: the outbound units held by queued frames, over all the link queues. -/
def unitsQueued (s : State) : Nat := unitsOf s ((allFin 64).flatMap s.queue)

/-- Units and descriptors held and free of a share (R119). -/
def shareBytes (s : State) (inbound : Bool) : List Byte :=
  beBytes 2 (unitsHeld s inbound) ++ beBytes 2 (unitsFree s inbound) ++
  beBytes 2 (descsHeld s inbound) ++ beBytes 2 (descsFree s inbound)

/-- R40, R119: STORE_STATUS. -/
def storeStatus (s : State) : State × Answer :=
  okWith
    (beBytes 1 (slotsIn s .free) ++ beBytes 1 (slotsIn s .derivingKeys) ++
      beBytes 1 (slotsIn s .ready) ++ beBytes 1 (slotsIn s .draining) ++
      beBytes 1 s.keys.requests.length ++ [flagByte s.keys.derivation.isSome] ++
      shareBytes s false ++ beBytes 2 (unitsQueued s) ++ beBytes 2 (unitsHeld s false - unitsQueued s) ++
      shareBytes s true ++ beBytes 2 (unitsInReception s) ++ beBytes 2 (unitsInOpening s) ++
      beBytes 2 (unitsHeld s true - unitsInReception s - unitsInOpening s) ++
      beBytes 1 s.store.delivery.length ++ beBytes 1 s.keys.waitList.length ++
      s.keys.waitList.flatMap fun l => beBytes 1 l.val) s

/-! ### RENEW -/

/-- The current slot's epoch is 65535 (R79). -/
def atLastEpoch (s : State) (l : LinkId) : Bool :=
  match (s.link l).current with
  | some c => (s.slot c).epoch = 65535
  | none => false

/-- R96: RENEW. -/
def renewCommand (link : Byte) : State → State × Answer :=
  onLink link fun l s =>
    let k := s.link l
    if k.state ≠ .active then refuse .wrongState s
    else if k.renewal.state ≠ .quiet ∨ k.renewal.pendingTrigger then refuse .renewing s
    else if atLastEpoch s l then refuse .wrongState s
    else ok (trigger l s)

end Sys2Proof.Machine
end

