-- ==== Sys2Proof/Machine/QueueCommands.lean ====
section
/-! DEFINITION. The effects of TRAFFIC_OUT and of the four queue commands (chapter 6). -/

namespace Sys2Proof.Machine

/-- The queue depth in frames, as a reply of TRAFFIC_OUT carries it (R174). -/
def depthBytes (s : State) (l : LinkId) : List Byte := beBytes 2 (s.queue l).length

/-- A refused TRAFFIC_OUT carries the link's queue depth in frames (R106, R174). -/
def refuseTraffic (c : ResultCode) (l : LinkId) (s : State) : State × Answer :=
  (s, ⟨c, depthBytes s l, false⟩)

/-- R106, R107: the payload of a TRAFFIC_OUT on a link with a profile. -/
def admitTraffic (tag : Byte) (payload : List Byte) (p : Profile) (l : LinkId) (s : State) :
    State × Answer :=
  let n := unitsFor payload.length
  if payload.length = 0 ∨ p.maxPayload < payload.length then refuseTraffic .badValue l s
  else if p.quota < queueUnits s l + n then refuseTraffic .quota l s
  else
    match findRoom s false n with
    | none => refuseTraffic .storeFull l s
    | some (d, us) =>
      let s := admitOutbound l tag payload d us s
      (s, ⟨.accepted, depthBytes s l, false⟩)

/-- R106: TRAFFIC_OUT, whose reply counts the frame as it stood on the append (R107). -/
def trafficOut (tag link : Byte) (payload : List Byte) (s : State) : State × Answer :=
  match linkOfByte link with
  | none => (s, ⟨.badValue, beBytes 2 0, false⟩)
  | some l =>
    if (s.link l).live then
      match (s.link l).profile with
      | some p => admitTraffic tag payload p l s
      | none => refuseTraffic .wrongState l s
    else refuseTraffic .wrongState l s

/-- The result fields of the queue commands (R109, R174). -/
def queueBytes (s : State) (l : LinkId) : List Byte :=
  beBytes 2 (s.queue l).length ++ beBytes 2 (queueUnits s l) ++ [flagByte (s.link l).hold] ++
    beBytes 1 (s.link l).allowance

/-- R109: the reply shows the queue and the link as they stand after the command, and so after a sealing
start that the command made possible (worked example 6.6, step 4; log entry 17). -/
def queueReply (l : LinkId) (s : State) : State × Answer :=
  okWith (queueBytes (settleBlocks s) l) (settleBlocks s)

/-- R110: QUEUE_HOLD. -/
def hold (link : Byte) : State → State × Answer :=
  onLiveLink link fun l s => queueReply l (s.modLink l fun k => { k with hold := true })

/-- R111: QUEUE_RELEASE. -/
def release (link count : Byte) : State → State × Answer :=
  onLiveLink link fun l s =>
    if count = 0 then refuse .badValue s
    else queueReply l (s.modLink l fun k => { k with allowance := count.toNat })

/-- R112: QUEUE_UNHOLD. -/
def unhold (link : Byte) : State → State × Answer :=
  onLiveLink link fun l s =>
    queueReply l (s.modLink l fun k => { k with hold := false, allowance := 0 })

/-- The host tag of a queued frame. -/
def hostTagOf (s : State) (d : DescNo) : Byte :=
  match s.desc d with
  | some x => x.hostTag.getD 0
  | none => 0

/-- The frames QUEUE_DISCARD removes: as many as asked for from the head, or the whole queue (R113). -/
def discarded (s : State) (l : LinkId) (count : Nat) : List DescNo :=
  if count = 0 then s.queue l else (s.queue l).take count

/-- R113: QUEUE_DISCARD. -/
def discard (link : Byte) (count : W16) : State → State × Answer :=
  onLiveLink link fun l s =>
    if 384 < count.toNat then refuse .badValue s
    else
      let ds := discarded s l count.toNat
      let tags := ds.map (hostTagOf s)
      let s := settleBlocks ((freeFrames ds s).setQueue l ((s.queue l).drop ds.length))
      okWith (queueBytes s l ++ beBytes 2 ds.length ++ tags) s

end Sys2Proof.Machine
end

