-- ==== Sys2Proof/Machine/TrunkCommands.lean ====
section
/-! DEFINITION. The effects of PORT_MODE, MAP_SET, MAP_READ, MAP_COMMIT and TRUNK_STATUS (chapter 7). -/

namespace Sys2Proof.Machine

/-- A port selected: where it was not, with the effects of a change of selection (R125). -/
def selectPort (p : Port) (s : State) : State := if p = s.trunk.selected then s else switchTo p s

/-- R126: the selection after a mode is set: the named port, or one evaluation by R124's third condition. -/
def applyMode (m : ProtectionMode) (s : State) : State :=
  let s := { s with trunk := { s.trunk with mode := m } }
  match m with
  | .fixedA => selectPort .a s
  | .fixedB => selectPort .b s
  | .auto =>
    let p := s.trunk.selected
    if (s.monitor p).state ≠ .aligned ∧ (s.monitor (otherPort p)).state = .aligned then
      switchTo (otherPort p) s
    else s

/-- R126: PORT_MODE. -/
def portMode (mode : Byte) (s : State) : State × Answer :=
  match ProtectionMode.ofCode mode with
  | none => refuse .badValue s
  | some m =>
    let s := reconcileCircuits s (applyMode m s)
    okWith [s.trunk.mode.code, portCode s.trunk.selected, flagByte (trunkUp s)] s

/-- R128, R172: the entry value of MAP_SET: a link number, or FFh for NONE. -/
def mapEntryOf (b : Byte) : Option (Option LinkId) :=
  match linkOfByte b with
  | some l => some (some l)
  | none => if b = 0xFF then some none else none

/-- Entries `first` to `first + count - 1` of a map set to one value. -/
def setEntries (map : Vector (Option LinkId) 96) (first count : Nat) (e : Option LinkId) :
    Vector (Option LinkId) 96 :=
  Vector.ofFn fun i : Fin 96 => if first ≤ i.val ∧ i.val < first + count then e else tget map i

/-- R128: MAP_SET. -/
def mapSet (first count entry : Byte) (s : State) : State × Answer :=
  match mapEntryOf entry with
  | some e =>
    if first.toNat ≤ 95 ∧ 1 ≤ count.toNat ∧ count.toNat ≤ 96 ∧ first.toNat + count.toNat ≤ 96 then
      ok { s with trunk := { s.trunk with
        shadow := setEntries s.trunk.shadow first.toNat count.toNat e } }
    else refuse .badValue s
  | none => refuse .badValue s

/-- The 96 entries of a map, slot 0 first (R129, R174). An entry NONE is sent as FFh, the byte that R172 gives
NONE in MAP_SET's entry value; no rule names the byte of a reply (DEDUCED, log entry 33). -/
def mapBytes (map : Vector (Option LinkId) 96) : List Byte :=
  (allFin 96).map fun i =>
    match tget map i with
    | some l => BitVec.ofNat 8 l.val
    | none => 0xFF

/-- R129: MAP_READ. -/
def mapRead (selector : Byte) (s : State) : State × Answer :=
  match flagOfCode selector with
  | some false => okWith (mapBytes s.trunk.live) s
  | some true => okWith (mapBytes s.trunk.shadow) s
  | none => refuse .badValue s

/-- R130: the links whose slot sets under two maps differ, in ascending order. -/
def affectedLinks (old new : Vector (Option LinkId) 96) : List LinkId :=
  (allFin 64).filter fun l => slotSet old l ≠ slotSet new l

/-- R131: an affected link's receiver and transmitter abandon what they hold. -/
def abandonAffected (s : State) (l : LinkId) : State := abandonTransmission l (abandonReception l s)

/-- R130, R131: MAP_COMMIT. -/
def mapCommit (s : State) : State × Answer :=
  let ls := affectedLinks s.trunk.live s.trunk.shadow
  let new := { s with trunk := { s.trunk with live := s.trunk.shadow } }
  okWith (beBytes 1 ls.length ++ ls.flatMap fun l => beBytes 1 l.val)
    (reconcileCircuits s (ls.foldl abandonAffected new))

/-- A monitor in a TRUNK_STATUS reply: state, good count, bad count (R174). -/
def monitorBytes (m : Monitor) : List Byte := [m.state.code] ++ beBytes 1 m.good ++ beBytes 1 m.bad

/-- The result fields of TRUNK_STATUS (R141, R174). -/
def trunkBytes (s : State) : List Byte :=
  monitorBytes s.trunk.monitorA ++ monitorBytes s.trunk.monitorB ++
  [s.trunk.mode.code, portCode s.trunk.selected, flagByte (trunkUp s)] ++
  beBytes 4 s.trunk.switchCount.toNat ++
  beBytes 1 ((allFin 96).filter fun i => (tget s.trunk.live i).isSome).length ++
  beBytes 1 ((allFin 64).filter fun l => circuitUp s l).length

/-- R141: TRUNK_STATUS. -/
def trunkStatus (clear : Byte) (s : State) : State × Answer :=
  match flagOfCode clear with
  | some true => okWith (trunkBytes s) { s with trunk := { s.trunk with switchCount := 0 } }
  | some false => okWith (trunkBytes s) s
  | none => refuse .badValue s

end Sys2Proof.Machine
end

