-- ==== Sys2Proof/Machine/Faults.lean ====
section
/-! DEFINITION. The fault supervisor (chapter 8): conditions, the sampling, entries and their reports,
fault actions, and the effects of the FAULT commands. -/

namespace Sys2Proof.Machine

/-! ### Conditions (R142 to R144) -/

/-- The event kinds, which are counted; the others are levels. -/
def FaultKind.counted : FaultKind → Bool
  | .protectionSwitch => true
  | .headerErrors => true
  | .tagFailures => true
  | .unknownEpoch => true
  | .inboundOverrun => true
  | .hostOverrun => true
  | .tableOverflow => true
  | .portLoss => false
  | .trunkDown => false
  | .renewalFailed => false
  | .keyExhausted => false
  | .epochExhausted => false
  | .keyStoreFull => false
  | .frameStoreLow => false

/-- A condition as a sampling reads it: present or absent, and the second's count (0 for a level). -/
structure Condition where
  source : FaultSource
  kind : FaultKind
  present : Bool
  amount : Nat
  deriving DecidableEq, Repr

/-- A level condition as it stands (R144). -/
def level (source : FaultSource) (kind : FaultKind) (present : Bool) : Condition :=
  ⟨source, kind, present, 0⟩

/-- An event condition: its count of the second against its threshold (R142). -/
def counted (source : FaultSource) (kind : FaultKind) (n : W16) (threshold : Nat) : Condition :=
  ⟨source, kind, decide (threshold ≤ n.toNat), n.toNat⟩

/-- R142: TAG_FAILURES of a link; a link with no profile has no threshold and no condition. -/
def tagCondition (s : State) (l : LinkId) : Condition :=
  match (s.link l).profile with
  | some p => counted (.link l) .tagFailures (s.events l).tagFailures p.threshold
  | none => ⟨.link l, .tagFailures, false, (s.events l).tagFailures.toNat⟩

/-- The conditions of a link, in the order of R142's table. -/
def linkConditions (s : State) (l : LinkId) : List Condition :=
  [counted (.link l) .headerErrors (s.events l).headerErrors 8,
   tagCondition s l,
   counted (.link l) .unknownEpoch (s.events l).unknownEpoch 4,
   counted (.link l) .inboundOverrun (s.events l).inboundOverrun 1,
   level (.link l) .renewalFailed (s.link l).renewal.failureMark,
   level (.link l) .keyExhausted (s.link l).budgetHeld,
   level (.link l) .epochExhausted (epochExhausted s l)]

/-- R145, steps 1 and 2: the conditions of every source but the device, in the fixed order. -/
def conditions (s : State) : List Condition :=
  [level .portA .portLoss (s.trunk.monitorA.state ≠ .aligned),
   level .portB .portLoss (s.trunk.monitorB.state ≠ .aligned),
   level .trunk .trunkDown (!trunkUp s),
   counted .trunk .protectionSwitch s.faults.protectionSwitches 1,
   level .keyStore .keyStoreFull (!s.keys.waitList.isEmpty),
   level .frameStore .frameStoreLow (frameStoreLow s),
   counted .hostPort .hostOverrun s.faults.hostOverruns 1] ++
  (allFin 64).flatMap (linkConditions s)

/-- R145, step 3: the device's TABLE_OVERFLOW condition, read after the others. -/
def overflowCondition (s : State) : Condition := counted .device .tableOverflow s.faults.tableOverflows 1

/-! ### Entries (R147 to R151) -/

/-- The policy of a kind (R146). -/
def policyOf (s : State) (k : FaultKind) : Policy := tget s.faults.policies k.index

/-- R150: the state and persistence count after one sample. -/
def nextEntryState (p : Policy) (st : EntryState) (n : Nat) (present : Bool) : EntryState × Nat :=
  match st, present with
  | .clear, true => if p.declare ≤ 1 then (.declared, 0) else (.rising, 1)
  | .clear, false => (.clear, n)
  | .rising, true => if p.declare ≤ n + 1 then (.declared, 0) else (.rising, n + 1)
  | .rising, false => (.clear, 0)
  | .declared, true => (.declared, n)
  | .declared, false => if p.clear ≤ 1 then (.clear, 0) else (.falling, 1)
  | .falling, false => if p.clear ≤ n + 1 then (.clear, 0) else (.falling, n + 1)
  | .falling, true => (.declared, 0)

/-- The entry enters DECLARED, by any row of R150. -/
def entersDeclared (old new : EntryState) : Bool := new = .declared && old ≠ .declared

/-- R152: the entry reaches CLEAR from FALLING, or from DECLARED by way of FALLING. -/
def clearsFromFalling (old new : EntryState) : Bool :=
  new = .clear && (old = .falling || old = .declared)

/-- R151: what a sample adds to the events total. -/
def sampleEvents (c : Condition) : Nat :=
  if c.kind.counted then c.amount else if c.present then 1 else 0

/-- R150, R151: an entry after one sample, its report-pending flag apart. -/
def sampledEntry (p : Policy) (now : W32) (c : Condition) (e : FaultEntry) : FaultEntry :=
  let r := nextEntryState p e.state e.persistence c.present
  { e with
    state := r.1
    persistence := r.2
    occurrences := if entersDeclared e.state r.1 then satInc e.occurrences else e.occurrences
    eventsTotal := satAdd e.eventsTotal (sampleEvents c)
    firstDeclared :=
      if entersDeclared e.state r.1 ∧ e.firstDeclared = none then some now else e.firstDeclared
    lastChange := if r.1 ≠ e.state then now else e.lastChange }

/-- The entry of a source and kind. -/
def isEntryOf (source : FaultSource) (kind : FaultKind) (e : FaultEntry) : Bool :=
  e.source = source && e.kind = kind

/-- The table's entry of a source and kind, if any (R148: at most one). -/
def findEntry (s : State) (source : FaultSource) (kind : FaultKind) : Option FaultEntry :=
  s.faults.entries.find? (isEntryOf source kind)

/-- The table's entry of a source and kind replaced, in its place. -/
def replaceEntry (e : FaultEntry) (s : State) : State :=
  s.modFaults fun v =>
    { v with entries := v.entries.map fun x => if isEntryOf e.source e.kind x then e else x }

/-! ### Reports and actions (R152, R153) -/

/-- R152: the step is a change that the kind's policy reports. -/
def reported (p : Policy) (old new : EntryState) : Bool :=
  p.report && (entersDeclared old new || clearsFromFalling old new)

/-- R153: the tag-fault action of a link's profile. -/
def tagFaultAction (l : LinkId) (s : State) : State :=
  match (s.link l).profile with
  | some p =>
    match p.tagAction with
    | .noAction => s
    | .renew => trigger l s
    | .isolate => autoIsolate l s
  | none => s

/-- R153: the act on a declaration; only a link's TAG_FAILURES has one. -/
def declarationAct (source : FaultSource) (kind : FaultKind) (s : State) : State :=
  match source, kind with
  | .link l, .tagFailures => tagFaultAction l s
  | _, _ => s

/-- R150 to R153: an entry takes a sample, is reported, and its declaration acts. -/
def stepEntry (now : W32) (c : Condition) (e : FaultEntry) (s : State) : State :=
  let p := policyOf s c.kind
  let e' := sampledEntry p now c e
  let joins := reported p e.state e'.state && !e.reportPending
  let s := replaceEntry { e' with reportPending := e.reportPending || joins } s
  let s := if joins then s.listNotice (.fault c.source c.kind) else s
  if entersDeclared e.state e'.state then declarationAct c.source c.kind s else s

/-- R148: a new entry, before the sample that creates it. -/
def newEntry (now : W32) (c : Condition) : FaultEntry :=
  ⟨c.source, c.kind, .clear, 0, 0, 0, none, now, false⟩

/-- The ordinary entries, of any kind but TABLE_OVERFLOW (R148). -/
def ordinary (e : FaultEntry) : Bool := e.kind ≠ .tableOverflow

/-- R148: an entry that may be reclaimed: ordinary, CLEAR and not on the notice list. -/
def reclaimable (e : FaultEntry) : Bool := ordinary e && e.state = .clear && !e.reportPending

/-- The list without its first member that a test passes. -/
def dropFirst (p : FaultEntry → Bool) : List FaultEntry → List FaultEntry
  | [] => []
  | e :: es => if p e then es else e :: dropFirst p es

/-- R148, R149: the table with room made for a new entry of a kind, or none where there is no room. -/
def withRoom (kind : FaultKind) (es : List FaultEntry) : Option (List FaultEntry) :=
  if kind = .tableOverflow then some es
  else if (es.filter ordinary).length < Config.ordinaryEntries then some es
  else if es.any reclaimable then some (dropFirst reclaimable es)
  else none

/-- R148: a present condition without an entry is given one, or raises the TABLE_OVERFLOW count. -/
def createEntry (now : W32) (c : Condition) (s : State) : State :=
  match withRoom c.kind s.faults.entries with
  | some es =>
    stepEntry now c (newEntry now c) (s.modFaults fun v => { v with entries := es ++ [newEntry now c] })
  | none => s.modFaults fun v => { v with tableOverflows := satInc v.tableOverflows }

/-- R145, step 2: one condition of a sampling. -/
def sampleCondition (now : W32) (s : State) (c : Condition) : State :=
  match findEntry s c.source c.kind with
  | some e => stepEntry now c e s
  | none => if c.present then createEntry now c s else s

/-- R145, step 4: every event count is set to zero. -/
def zeroCounts (v : Supervisor) : Supervisor :=
  { v with
    protectionSwitches := 0, hostOverruns := 0, tableOverflows := 0
    linkEvents := Vector.replicate 64 {} }

/-- R145: one sampling. -/
def sampling (s : State) : State :=
  let now := s.host.clock
  let s := (conditions s).foldl (sampleCondition now) s
  (sampleCondition now s (overflowCondition s)).modFaults zeroCounts

/-! ### The FAULT commands (R146, R155 to R157) -/

/-- The policy as FAULT_POLICY's reply carries it (R174). -/
def policyBytes (k : FaultKind) (p : Policy) : List Byte :=
  [k.code] ++ beBytes 1 p.declare ++ beBytes 1 p.clear ++ [flagByte p.report]

/-- The policy of a kind replaced. -/
def setPolicy (k : FaultKind) (p : Policy) (s : State) : State :=
  s.modFaults fun v => { v with policies := tput v.policies k.index p }

/-- R146: FAULT_POLICY. -/
def faultPolicy (kind declare clear report : Byte) (s : State) : State × Answer :=
  match FaultKind.ofCode kind with
  | none => refuse .badValue s
  | some k =>
    if declare = 0 then okWith (policyBytes k (policyOf s k)) s
    else
      match flagOfCode report with
      | some r =>
        if declare.toNat ≤ 15 ∧ 1 ≤ clear.toNat ∧ clear.toNat ≤ 15 then
          let p : Policy := ⟨declare.toNat, clear.toNat, r⟩
          okWith (policyBytes k p) (setPolicy k p s)
        else refuse .badValue s
      | none => refuse .badValue s

/-- An entry in a FAULT_LIST reply (R155, R174). -/
def summaryBytes (e : FaultEntry) : List Byte :=
  [e.source.code, e.kind.code, e.state.code, flagByte e.reportPending] ++ beBytes 2 e.occurrences.toNat

/-- The result fields of FAULT_LIST for the entries listed. -/
def listBytes (s : State) (es : List FaultEntry) : List Byte :=
  beBytes 1 s.faults.entries.length ++ beBytes 1 es.length ++ es.flatMap summaryBytes

/-- R155: FAULT_LIST. -/
def faultList (selector : Byte) (s : State) : State × Answer :=
  match flagOfCode selector with
  | some false => okWith (listBytes s s.faults.entries) s
  | some true => okWith (listBytes s (s.faults.entries.filter fun e => e.state ≠ .clear)) s
  | none => refuse .badValue s

/-- R142: the pairs of source and kind that are conditions. -/
def pairExists : FaultSource → FaultKind → Bool
  | .portA, k => k = .portLoss
  | .portB, k => k = .portLoss
  | .trunk, k => k = .trunkDown || k = .protectionSwitch
  | .keyStore, k => k = .keyStoreFull
  | .frameStore, k => k = .frameStoreLow
  | .hostPort, k => k = .hostOverrun
  | .device, k => k = .tableOverflow
  | .link _, k =>
    k = .headerErrors || k = .tagFailures || k = .unknownEpoch || k = .inboundOverrun ||
      k = .renewalFailed || k = .keyExhausted || k = .epochExhausted

/-- The event count of the current second of a pair, 0 for a level kind (R143, R174). -/
def eventCountOf (s : State) (source : FaultSource) (kind : FaultKind) : W16 :=
  match source, kind with
  | .trunk, .protectionSwitch => s.faults.protectionSwitches
  | .hostPort, .hostOverrun => s.faults.hostOverruns
  | .device, .tableOverflow => s.faults.tableOverflows
  | .link l, .headerErrors => (s.events l).headerErrors
  | .link l, .tagFailures => (s.events l).tagFailures
  | .link l, .unknownEpoch => (s.events l).unknownEpoch
  | .link l, .inboundOverrun => (s.events l).inboundOverrun
  | _, _ => 0

/-- A time that may be absent: presence byte and four bytes (R172). -/
def optionalTime : Option W32 → List Byte
  | some t => [1] ++ beBytes 4 t.toNat
  | none => List.replicate 5 0

/-- The entry fields of a FAULT_READ reply, from the presence byte to the place in the creation order
(R156, R174). -/
def entryBytes (s : State) (source : FaultSource) (kind : FaultKind) : List Byte :=
  match findEntry s source kind with
  | some e =>
    [1, e.source.code, e.kind.code, e.state.code] ++ beBytes 1 e.persistence ++
      beBytes 2 e.occurrences.toNat ++ beBytes 4 e.eventsTotal.toNat ++ optionalTime e.firstDeclared ++
      beBytes 4 e.lastChange.toNat ++ [flagByte e.reportPending] ++
      beBytes 1 (Config.firstPlace + s.faults.entries.findIdx (isEntryOf source kind))
  | none => List.replicate 22 0

/-- R156: FAULT_READ. -/
def faultRead (source kind : Byte) (s : State) : State × Answer :=
  match FaultSource.ofCode source, FaultKind.ofCode kind with
  | some x, some k =>
    if pairExists x k then okWith (entryBytes s x k ++ beBytes 2 (eventCountOf s x k).toNat) s
    else refuse .badValue s
  | _, _ => refuse .badValue s

/-- R157: an entry that a purge removes. -/
def purgeable (e : FaultEntry) : Bool := e.state = .clear && !e.reportPending

/-- R157: FAULT_PURGE. -/
def faultPurge (s : State) : State × Answer :=
  let kept := s.faults.entries.filter fun e => !purgeable e
  okWith (beBytes 1 (s.faults.entries.length - kept.length) ++ beBytes 1 kept.length)
    (s.modFaults fun v => { v with entries := kept })

end Sys2Proof.Machine
end

