-- ==== Sys2Proof/WellFormed.lean ====
section
/-! DEFINITION. Which terms of `Instr` name something that can happen on the interface they belong to.

A command's fields have the widths of R173 by their types; what remains to check is that a record
fits the length field (R171: 2 to 1040) and that the bytes of an arrival are what its row says. The
machine gives every term a meaning, well-formed or not (an over-long record is malformed, R160). -/

namespace Sys2Proof

/-- The value of the two-byte length field of a record. -/
def recordLength (hi lo : Byte) : Nat := hi.toNat * 256 + lo.toNat

/-- R160: a length the receiver accepts. -/
def goodRecordLength (n : Nat) : Bool := 2 ≤ n && n ≤ 1040

/-- R160: a kind the receiver accepts, COMMAND or TRAFFIC_OUT (R171). -/
def goodRecordKind (k : Byte) : Bool := k = 0x01 || k = 0x02

/-- Exactly one whole record: start byte, length, kind, tag and body (R171). -/
def isWholeRecord : List Byte → Bool
  | start :: hi :: lo :: kind :: _tag :: body =>
    start = 0x5A && goodRecordLength (recordLength hi lo) && goodRecordKind kind &&
      body.length + 2 = recordLength hi lo
  | _ => false

/-- Exactly the bytes up to the one at which the length test or the kind test fails (R160). -/
def isMalformedHead : List Byte → Bool
  | [start, hi, lo] => start = 0x5A && !goodRecordLength (recordLength hi lo)
  | [start, hi, lo, kind] =>
    start = 0x5A && goodRecordLength (recordLength hi lo) && !goodRecordKind kind
  | _ => false

/-- The well-formed commands and events. -/
def WellFormed : Instr → Bool
  | .linkConfigure .. => true
  | .linkActivate .. => true
  | .linkIsolate .. => true
  | .linkResume .. => true
  | .linkDeactivate .. => true
  | .linkUnconfigure .. => true
  | .linkStatus .. => true
  | .rootLoad _ _ key => key.length ≤ 1036
  | .rootErase .. => true
  | .storeStatus .. => true
  | .renew .. => true
  | .trafficOut _ _ payload => payload.length ≤ 1037
  | .queueHold .. => true
  | .queueRelease .. => true
  | .queueUnhold .. => true
  | .queueDiscard .. => true
  | .portMode .. => true
  | .mapSet .. => true
  | .mapRead .. => true
  | .mapCommit .. => true
  | .trunkStatus .. => true
  | .faultPolicy .. => true
  | .faultList .. => true
  | .faultRead .. => true
  | .faultPurge .. => true
  | .setClock .. => true
  | .identify .. => true
  | .reset .. => true
  | .recordArrival bytes => isWholeRecord bytes
  | .malformedRecord bytes => isMalformedHead bytes
  | .takeRecord => true
  | .sendStart => true
  | .sendEnd => true
  | .powerOn => true
  | .resetLineAssert => true
  | .resetLineRelease => true
  | .tick => true
  | .intervalTimerExpiry .. => true
  | .offerTimerExpiry .. => true
  | .graceTimerExpiry .. => true
  | .backoffTimerExpiry .. => true
  | .sealingStart => true
  | .blockOperationEnd => true
  | .sealingCompletion => true
  | .openingStart => true
  | .openingCompletion => true
  | .derivationBegin => true
  | .derivationCompletion => true
  | .receiveCycle .. => true
  | .signalAbsence .. => true
  | .transmitCycleRequest => true

end Sys2Proof
end

