-- ==== Sys2Proof/Machine/HostPort.lean ====
section
/-! DEFINITION. The host port (chapter 9): the effects of SET_CLOCK, IDENTIFY and RESET, the reading of a
command from its record, replies, the outbound arbiter, notices, the record receiver, resets, and how
the part comes to rest after an event. -/

namespace Sys2Proof.Machine

/-! ### SET_CLOCK, IDENTIFY, RESET (R166, R167, R169) -/

/-- R166: SET_CLOCK. -/
def setClock (value : W32) (s : State) : State × Answer :=
  okWith (beBytes 4 value.toNat) (s.modHost fun h => { h with clock := value })

/-- The capability record (R167, R174). -/
def capabilityBytes (s : State) : List Byte :=
  beBytes 1 64 ++ beBytes 1 96 ++ beBytes 1 160 ++ beBytes 2 2048 ++ beBytes 1 64 ++ beBytes 2 512 ++
  beBytes 2 1280 ++ beBytes 2 384 ++ beBytes 2 768 ++ beBytes 2 128 ++ beBytes 1 96 ++ beBytes 2 1024 ++
  [Config.revision, s.host.resetCause.code] ++ beBytes 4 s.host.resets.toNat

/-- R167: IDENTIFY. -/
def identify (s : State) : State × Answer := okWith (capabilityBytes s) s

/-- R169: RESET: a RESET is pending until the last byte of its reply has gone. -/
def resetCommand (s : State) : State × Answer :=
  (s.modHost fun h => { h with resetPending := true }, ⟨.ok, [], true⟩)

/-! ### Reading a command (R162, R172, R173) -/

/-- The command codes that are assigned (R173). -/
def assignedCodes : List Nat :=
  [0x10, 0x11, 0x12, 0x13, 0x14, 0x15, 0x16, 0x20, 0x21, 0x22, 0x23, 0x30, 0x31, 0x32, 0x33, 0x40, 0x41,
   0x42, 0x43, 0x44, 0x50, 0x51, 0x52, 0x53, 0x60, 0x61, 0x62]

/-- The effect of a command with its code and its field bytes, where the body has the command's size;
ROOT_LOAD's key takes whatever bytes follow the link (R162, R173). -/
def commandEffect (code : Nat) (fields : List Byte) : Option (State → State × Answer) :=
  match code, fields with
  | 0x10, [link, m1, m0, bc, ic, oc, att, gc, q1, q0, th, ta, ra, sh] =>
    some (configure link (readProfile (m1 ++ m0) bc ic oc att gc (q1 ++ q0) th ta ra sh))
  | 0x11, [link] => some (activate link)
  | 0x12, [link] => some (isolateCommand link)
  | 0x13, [link] => some (resume link)
  | 0x14, [link] => some (deactivate link)
  | 0x15, [link] => some (unconfigure link)
  | 0x16, [link, clear] => some (linkStatus link clear)
  | 0x20, link :: key => some (rootLoad link key)
  | 0x21, [link] => some (rootErase link)
  | 0x22, [] => some storeStatus
  | 0x23, [link] => some (renewCommand link)
  | 0x30, [link] => some (hold link)
  | 0x31, [link, count] => some (release link count)
  | 0x32, [link] => some (unhold link)
  | 0x33, [link, c1, c0] => some (discard link (c1 ++ c0))
  | 0x40, [mode] => some (portMode mode)
  | 0x41, [first, count, entry] => some (mapSet first count entry)
  | 0x42, [selector] => some (mapRead selector)
  | 0x43, [] => some mapCommit
  | 0x44, [clear] => some (trunkStatus clear)
  | 0x50, [kind, declare, clear, report] => some (faultPolicy kind declare clear report)
  | 0x51, [selector] => some (faultList selector)
  | 0x52, [source, kind] => some (faultRead source kind)
  | 0x53, [] => some faultPurge
  | 0x60, [v3, v2, v1, v0] => some (setClock (v3 ++ v2 ++ v1 ++ v0))
  | 0x61, [] => some identify
  | 0x62, [] => some resetCommand
  | _, _ => none

/-- R162: the checks of a COMMAND's code and body size, before its own checks. -/
def runCommand (body : List Byte) (s : State) : State × Answer :=
  match body with
  | [] => refuse .unknownCommand s
  | code :: fields =>
    match commandEffect code.toNat fields with
    | some effect => effect s
    | none =>
      if assignedCodes.contains code.toNat then refuse .badValue s else refuse .unknownCommand s

/-- R162: a TRAFFIC_OUT whose body is empty holds no link number. -/
def runTraffic (tag : Byte) (body : List Byte) (s : State) : State × Answer :=
  match body with
  | [] => (s, ⟨.badValue, beBytes 2 0, false⟩)
  | link :: payload => trafficOut tag link payload s

/-! ### Taking a record (R160 to R163) -/

/-- R163: the reply joins the end of the reply queue. -/
def answer (tag : Byte) (r : State × Answer) : State :=
  r.1.modHost fun h =>
    { h with replies := h.replies ++ [⟨tag, r.2.code, r.2.fields, r.2.forReset⟩] }

/-- R160, R162: a record or malformed entry acts and is answered. -/
def answerRecord (x : InRecord) (s : State) : State :=
  match x with
  | .record .command tag body => answer tag (runCommand body s)
  | .record .trafficOut tag body => answer tag (runTraffic tag body s)
  | .malformed => answer 0 (refuse .malformed s)

/-- R162: something waits in the inbound record buffer and can be taken. -/
def takeReady (s : State) : Bool := !s.host.buffer.isEmpty && canTake s

/-- R162: the head of the inbound record buffer is taken. -/
def takeRecord (s : State) : State :=
  match s.host.buffer with
  | [] => s
  | x :: rest => answerRecord x (s.modHost fun h => { h with buffer := rest })

/-- R161: an arrival joins the end of the inbound record buffer, or is lost. -/
def arrive (x : InRecord) (s : State) : State :=
  if s.host.buffer.length < Config.inboundBufferSize then
    s.modHost fun h => { h with buffer := h.buffer ++ [x] }
  else
    (s.modHost fun h => { h with recordsLost := true }).modFaults fun v =>
      { v with hostOverruns := satInc v.hostOverruns }

/-- R161, R162: an arrival that finds the buffer empty and can be taken is taken in the same event; any
other joins the buffer or is lost. -/
def receive (x : InRecord) (s : State) : State :=
  if s.host.buffer.isEmpty && canTake s then answerRecord x s else arrive x s

/-! ### Sending (R163 to R165, R171, R175) -/

/-- R171: a host record as it stands on the line. -/
def recordBytes (kind tag : Byte) (body : List Byte) : List Byte :=
  0x5A :: (beBytes 2 (body.length + 2) ++ [kind, tag] ++ body)

/-- The record on the outbound line replaced. -/
def State.setLine (r : Option LineRecord) (s : State) : State := s.modHost fun h => { h with line := r }

/-- R163: the send start of a reply: its summary byte is built, and the records-lost flag cleared. -/
def sendReply (r : Reply) (rest : List Reply) (s : State) : State :=
  (s.modHost fun h => { h with replies := rest, recordsLost := false }).setLine
    (some ⟨recordBytes 0x81 r.tag (r.code.code :: summaryByte s :: r.fields), none, r.forReset⟩)

/-- The fields of a FAULT notice (R165, R175). -/
def faultNoticeBytes (e : FaultEntry) : List Byte :=
  [e.source.code, e.kind.code, e.state.code] ++ beBytes 2 e.occurrences.toNat ++
  beBytes 4 e.eventsTotal.toNat ++ optionalTime e.firstDeclared ++ beBytes 4 e.lastChange.toNat

/-- The epoch of the current slot in a LINK notice: presence and two bytes (R165, R175). -/
def currentEpochBytes (s : State) (l : LinkId) : List Byte :=
  match (s.link l).current with
  | some c => [1] ++ beBytes 2 (s.slot c).epoch
  | none => [0, 0, 0]

/-- R165, R175: the body of a notice, from the state at its send start. -/
def noticeBody (s : State) (n : NoticeItem) : List Byte :=
  match n with
  | .ready => [1, s.host.resetCause.code] ++ beBytes 4 s.host.resets.toNat ++ [Config.revision]
  | .fault source kind =>
    2 :: (match findEntry s source kind with
      | some e => faultNoticeBytes e
      | none => [source.code, kind.code] ++ List.replicate 16 0)
  | .link l =>
    [3] ++ beBytes 1 l.val ++ [(s.link l).state.code, (s.link l).renewal.state.code] ++
      currentEpochBytes s l

/-- R165: the pending flag of an item is cleared at its send start. -/
def clearPending (n : NoticeItem) (s : State) : State :=
  match n with
  | .ready => s
  | .fault source kind =>
    s.modFaults fun v =>
      { v with entries := v.entries.map fun e =>
          if isEntryOf source kind e then { e with reportPending := false } else e }
  | .link l => s.modLink l fun k => { k with eventPending := false }

/-- R165: the send start of a notice, which carries tag 0. -/
def sendNotice (n : NoticeItem) (rest : List NoticeItem) (s : State) : State :=
  ((clearPending n s).modHost fun h => { h with notices := rest, servedLast := .notices }).setLine
    (some ⟨recordBytes 0x82 0 (noticeBody s n), none, false⟩)

/-- R175: the body of a TRAFFIC_IN: link, epoch, sequence and plaintext. -/
def trafficInBody (s : State) (d : DescNo) : List Byte :=
  match s.desc d with
  | some x =>
    beBytes 1 x.link.val ++ beBytes 2 (x.epoch.getD 0) ++ beBytes 4 (x.seq.getD 0) ++
      chainBytes s.store.mem x.chain 0 x.length
  | none => []

/-- R117: the send start of a TRAFFIC_IN: its frame leaves the delivery queue and keeps its units until
the last byte has gone. -/
def sendTraffic (d : DescNo) (rest : List DescNo) (s : State) : State :=
  ((s.setDelivery rest).modHost fun h => { h with servedLast := .delivery }).setLine
    (some ⟨recordBytes 0x83 0 (trafficInBody s d), some d, false⟩)

/-- R164: the arbiter's choice among what waits: replies first, then the one of notices and deliveries
not served last. -/
def startSending (s : State) : State :=
  match s.host.replies, s.host.notices, s.store.delivery with
  | r :: rest, _, _ => sendReply r rest s
  | [], n :: rest, [] => sendNotice n rest s
  | [], [], d :: rest => sendTraffic d rest s
  | [], n :: ns, d :: ds =>
    match s.host.servedLast with
    | .delivery => sendNotice n ns s
    | .notices => sendTraffic d ds s
  | [], [], [] => s

/-! ### Coming to rest -/

/-- The host port takes records while it can, and starts a record on a free line (R162, R164). -/
def settleHostFor : Nat → State → State
  | 0, s => s
  | n + 1, s =>
    if takeReady s then settleHostFor n (settleBlocks (takeRecord s))
    else if canSend s then settleHostFor n (startSending s)
    else s

/-- Above the four waiting records, the record that starts, and the one taken into the room it leaves. -/
def hostBound : Nat := 16

/-- The blocks and the host port come to rest after an event (log entry 8). -/
def settle (s : State) : State := settleHostFor hostBound (settleBlocks s)

/-- R164: the attention output follows the reply queue, the notice list and the delivery queue. -/
def showAttention (s : State) : State := s.modHost fun h => { h with attention := attentionOutput s }

/-- The end of an event. -/
def finish (s : State) : State := showAttention (settle s)

/-- R164: whatever an earlier event left waiting beside a free line goes before the next byte has its effect:
after a POWER_ON or a COMMAND reset that is the READY notice (log entry 12). -/
def startWaiting (s : State) : State := if canSend s then finish s else s

/-! ### The record receiver (R159, R160) -/

/-- R159, R160: a byte joins the bytes after a start byte; the length is tested at its second byte and
the kind when it arrives, and the last byte hands the record over. -/
def collected (bs : List Byte) : RecordReceiver × Option InRecord :=
  match bs with
  | [hi, lo] =>
    if goodRecordLength (recordLength hi lo) then (.collect [hi, lo], none) else (.hunt, some .malformed)
  | [hi, lo, kind] =>
    if goodRecordKind kind then (.collect [hi, lo, kind], none) else (.hunt, some .malformed)
  | hi :: lo :: kind :: tag :: body =>
    if recordLength hi lo ≤ body.length + 2 then
      (.hunt, some (.record (if kind = 0x01 then .command else .trafficOut) tag body))
    else (.collect (hi :: lo :: kind :: tag :: body), none)
  | bs => (.collect bs, none)

/-- R159: the receiver takes a byte. -/
def receiveByte (r : RecordReceiver) (b : Byte) : RecordReceiver × Option InRecord :=
  match r with
  | .hunt => (if b = 0x5A then .collect [] else .hunt, none)
  | .collect bs => collected (bs ++ [b])

/-- The record receiver replaced. -/
def State.setRecordReceiver (r : RecordReceiver) (s : State) : State :=
  s.modHost fun h => { h with receiver := r }

/-- R159, R160: the record receiver takes a byte; the byte that completes a record, or shows it malformed, ends
its event with that record's receipt. -/
def takeByte (b : Byte) (s : State) : State :=
  match receiveByte s.host.receiver b with
  | (r, none) => s.setRecordReceiver r
  | (r, some x) => finish (receive x (s.setRecordReceiver r))

/-- R159, R160, R164: a byte arrives on the inbound line. What waits for a free line goes first, whether or not
the byte completes a record. -/
def byteArrives (s : State) (b : Byte) : State := takeByte b (startWaiting s)

/-- R169: bytes arrive on the inbound line; while the reset input is asserted they are ignored. -/
def bytesArrive (bs : List Byte) (s : State) : State :=
  if s.host.resetInput then s else bs.foldl byteArrives s

/-- A host command's whole record arrives (log entry 10). With the receiver in HUNT the record is
complete at its last byte and is taken in the same event where it can be; a receiver in COLLECT takes
the bytes into the record it has begun. -/
def commandArrives (kind : RecordKind) (tag : Byte) (body : List Byte) (effect : State → State × Answer)
    (s : State) : State :=
  if s.host.resetInput then s
  else if s.host.receiver = .hunt ∧ body.length ≤ 1038 then
    if (startWaiting s).host.buffer.isEmpty && canTake (startWaiting s) then
      finish (answer tag (effect (startWaiting s)))
    else finish (arrive (.record kind tag body) (startWaiting s))
  else bytesArrive (recordBytes kind.code tag body) s

/-! ### Resets (R168, R169) -/

/-- R168: the reset of the whole part; the cause decides the clock, the count and the cause reported. The
waiting commands and the free values used are the model's own and stay. -/
def resetPart (cause : ResetCause) (input : Bool) (s : State) : State :=
  .afterReset s.pending s.store.mem
    (.reset cause (if cause = .powerOn then 0 else s.host.clock)
      (if cause = .powerOn then 0 else satInc s.host.resets) input)
    s.draws

/-- R117, R164, R169: the last byte of the record on the line goes: the line is free, a TRAFFIC_IN's frame
is freed, and the reply of RESET brings the reset. -/
def endSending (s : State) : State :=
  match s.host.line with
  | none => s
  | some r =>
    if r.forReset then resetPart .command s.host.resetInput s
    else
      match r.frame with
      | some d => finish ((s.setLine none).freeFrame d)
      | none => finish (s.setLine none)

end Sys2Proof.Machine
end

