-- ==== Sys2Proof/Machine/Clock.lean ====
section
/-! DEFINITION. The one-second tick (R166): the device clock, the timers (R76) and the sampling (R145). -/

namespace Sys2Proof.Machine

/-- R76: the four timers of a link count a tick. -/
def Renewal.advance (r : Renewal) : Renewal :=
  { r with
    interval := r.interval.advance, offer := r.offer.advance, grace := r.grace.advance,
    backoff := r.backoff.advance }

/-- R76: the timers of every link count a tick. -/
def countTimers (s : State) : State :=
  { s with links := s.links.map fun k => { k with renewal := k.renewal.advance } }

/-- R166: the device clock rises by one, wrapping. -/
def advanceClock (s : State) : State := s.modHost fun h => { h with clock := h.clock + 1 }

/-- What is due at a tick. -/
inductive TickItem where
  | sampling
  | expiry (timer : TimerName) (link : LinkId)
  deriving DecidableEq, Repr

/-- The four timers. -/
def timerNames : List TimerName := [.interval, .offer, .grace, .backoff]

/-- The timers that have counted their last tick. -/
def dueExpiries (s : State) : List TickItem :=
  (allFin 64).flatMap fun l =>
    (timerNames.filter fun t => ((s.link l).renewal.timer t).due).map fun t => .expiry t l

/-- One item of a tick; an expiry whose timer another item has stopped or restarted does not come. -/
def takeItem (i : TickItem) (s : State) : State :=
  match i with
  | .sampling => sampling s
  | .expiry t l => if ((s.link l).renewal.timer t).due then expire t l s else s

/-- Which of several items is next: the world's order (R143, R145; log entry 4). -/
def drawItem (items : List TickItem) (s : State) : Nat :=
  if items.length ≤ 1 then 0 else Config.agendaPick s.draws.agenda % items.length

/-- A choice among several items uses up one draw. -/
def spendDraw (items : List TickItem) (s : State) : State :=
  if items.length ≤ 1 then s else { s with draws := { s.draws with agenda := s.draws.agenda + 1 } }

/-- The items of a tick are taken one after another, the part coming to rest after each. -/
def runAgenda : Nat → List TickItem → State → State
  | 0, _, s => s
  | n + 1, items, s =>
    match items[drawItem items s]? with
    | some i => runAgenda n (items.eraseIdx (drawItem items s)) (settle (takeItem i (spendDraw items s)))
    | none => s

/-- R145, R166: a tick; while the reset input is asserted only the clock advances (R169). -/
def tickPart (s : State) : State :=
  if s.host.resetInput then advanceClock s
  else
    let s := countTimers (advanceClock s)
    let items := .sampling :: dueExpiries s
    showAttention (runAgenda items.length items s)

/-- The expiry of a timer as an event of its own: it comes at the timer's last tick (log entry 13). -/
def expiryEvent (t : TimerName) (l : LinkId) (s : State) : State :=
  if ((s.link l).renewal.timer t).atLastTick then finish (expire t l s) else s

end Sys2Proof.Machine
end

