-- ==== Sys2Proof/Machine/HostRecords.lean ====
section
/-! DEFINITION. The meanings of the 28 host commands. Each is the arrival of the command's whole record
(log entry 10): the body as R171 and R173 lay it out, and the effect its chapter gives it. -/

namespace Sys2Proof.Machine

/-- What the execution of a command or event answers. -/
abbrev Result := Host.Outcome State Fault Refusal

/-- LINK_CONFIGURE (R10). -/
def execLinkConfigure (tag link : Byte) (maxPayload : W16)
    (budgetClass intervalCode offerCode attempts graceCode : Byte) (quota : W16)
    (threshold tagAction renewalAction startHeld : Byte) (s : State) : Result :=
  .next (commandArrives .command tag
    (0x10 :: link :: (beBytes 2 maxPayload.toNat ++
      [budgetClass, intervalCode, offerCode, attempts, graceCode] ++ beBytes 2 quota.toNat ++
      [threshold, tagAction, renewalAction, startHeld]))
    (configure link (readProfile maxPayload budgetClass intervalCode offerCode attempts graceCode quota
      threshold tagAction renewalAction startHeld)) s)

/-- LINK_ACTIVATE (R11, R12). -/
def execLinkActivate (tag link : Byte) (s : State) : Result :=
  .next (commandArrives .command tag [0x11, link] (activate link) s)

/-- LINK_ISOLATE (R13). -/
def execLinkIsolate (tag link : Byte) (s : State) : Result :=
  .next (commandArrives .command tag [0x12, link] (isolateCommand link) s)

/-- LINK_RESUME (R16). -/
def execLinkResume (tag link : Byte) (s : State) : Result :=
  .next (commandArrives .command tag [0x13, link] (resume link) s)

/-- LINK_DEACTIVATE (R17, R18). -/
def execLinkDeactivate (tag link : Byte) (s : State) : Result :=
  .next (commandArrives .command tag [0x14, link] (deactivate link) s)

/-- LINK_UNCONFIGURE (R19). -/
def execLinkUnconfigure (tag link : Byte) (s : State) : Result :=
  .next (commandArrives .command tag [0x15, link] (unconfigure link) s)

/-- LINK_STATUS (R21). -/
def execLinkStatus (tag link clear : Byte) (s : State) : Result :=
  .next (commandArrives .command tag [0x16, link, clear] (linkStatus link clear) s)

/-- ROOT_LOAD (R23). -/
def execRootLoad (tag link : Byte) (key : List Byte) (s : State) : Result :=
  .next (commandArrives .command tag (0x20 :: link :: key) (rootLoad link key) s)

/-- ROOT_ERASE (R24). -/
def execRootErase (tag link : Byte) (s : State) : Result :=
  .next (commandArrives .command tag [0x21, link] (rootErase link) s)

/-- STORE_STATUS (R40, R119). -/
def execStoreStatus (tag : Byte) (s : State) : Result :=
  .next (commandArrives .command tag [0x22] storeStatus s)

/-- RENEW (R96). -/
def execRenew (tag link : Byte) (s : State) : Result :=
  .next (commandArrives .command tag [0x23, link] (renewCommand link) s)

/-- TRAFFIC_OUT (R106, R107). -/
def execTrafficOut (tag link : Byte) (payload : List Byte) (s : State) : Result :=
  .next (commandArrives .trafficOut tag (link :: payload) (trafficOut tag link payload) s)

/-- QUEUE_HOLD (R110). -/
def execQueueHold (tag link : Byte) (s : State) : Result :=
  .next (commandArrives .command tag [0x30, link] (hold link) s)

/-- QUEUE_RELEASE (R111). -/
def execQueueRelease (tag link count : Byte) (s : State) : Result :=
  .next (commandArrives .command tag [0x31, link, count] (release link count) s)

/-- QUEUE_UNHOLD (R112). -/
def execQueueUnhold (tag link : Byte) (s : State) : Result :=
  .next (commandArrives .command tag [0x32, link] (unhold link) s)

/-- QUEUE_DISCARD (R113). -/
def execQueueDiscard (tag link : Byte) (count : W16) (s : State) : Result :=
  .next (commandArrives .command tag (0x33 :: link :: beBytes 2 count.toNat) (discard link count) s)

/-- PORT_MODE (R126). -/
def execPortMode (tag mode : Byte) (s : State) : Result :=
  .next (commandArrives .command tag [0x40, mode] (portMode mode) s)

/-- MAP_SET (R128). -/
def execMapSet (tag first count entry : Byte) (s : State) : Result :=
  .next (commandArrives .command tag [0x41, first, count, entry] (mapSet first count entry) s)

/-- MAP_READ (R129). -/
def execMapRead (tag selector : Byte) (s : State) : Result :=
  .next (commandArrives .command tag [0x42, selector] (mapRead selector) s)

/-- MAP_COMMIT (R130, R131). -/
def execMapCommit (tag : Byte) (s : State) : Result :=
  .next (commandArrives .command tag [0x43] mapCommit s)

/-- TRUNK_STATUS (R141). -/
def execTrunkStatus (tag clear : Byte) (s : State) : Result :=
  .next (commandArrives .command tag [0x44, clear] (trunkStatus clear) s)

/-- FAULT_POLICY (R146). -/
def execFaultPolicy (tag kind declare clear report : Byte) (s : State) : Result :=
  .next (commandArrives .command tag [0x50, kind, declare, clear, report]
    (faultPolicy kind declare clear report) s)

/-- FAULT_LIST (R155). -/
def execFaultList (tag selector : Byte) (s : State) : Result :=
  .next (commandArrives .command tag [0x51, selector] (faultList selector) s)

/-- FAULT_READ (R156). -/
def execFaultRead (tag source kind : Byte) (s : State) : Result :=
  .next (commandArrives .command tag [0x52, source, kind] (faultRead source kind) s)

/-- FAULT_PURGE (R157). -/
def execFaultPurge (tag : Byte) (s : State) : Result :=
  .next (commandArrives .command tag [0x53] faultPurge s)

/-- SET_CLOCK (R166). -/
def execSetClock (tag : Byte) (value : W32) (s : State) : Result :=
  .next (commandArrives .command tag (0x60 :: beBytes 4 value.toNat) (setClock value) s)

/-- IDENTIFY (R167). -/
def execIdentify (tag : Byte) (s : State) : Result :=
  .next (commandArrives .command tag [0x61] identify s)

/-- RESET (R169). -/
def execReset (tag : Byte) (s : State) : Result :=
  .next (commandArrives .command tag [0x62] resetCommand s)

end Sys2Proof.Machine
end

