-- ==== Sys2Proof/Machine/Events.lean ====
section
/-! DEFINITION. The meanings of the 23 events. An event that the state does not allow to happen (a
completion of an operation that is not in the unit, the expiry of a timer that is not at its last tick)
changes nothing (log entry 9). -/

namespace Sys2Proof.Machine

/-! ### The host line -/

/-- RECORD_ARRIVAL (R159 to R162). -/
def execRecordArrival (bytes : List Byte) (s : State) : Result := .next (bytesArrive bytes s)

/-- MALFORMED_RECORD (R160). -/
def execMalformedRecord (bytes : List Byte) (s : State) : Result := .next (bytesArrive bytes s)

/-- TAKE_RECORD (R162). -/
def execTakeRecord (s : State) : Result :=
  .next (if takeReady s then finish (takeRecord s) else s)

/-- SEND_START (R164). -/
def execSendStart (s : State) : Result :=
  .next (if canSend s then finish (startSending s) else s)

/-- SEND_END (R164, R117, R169). -/
def execSendEnd (s : State) : Result := .next (endSending s)

/-! ### Resets (R168, R169) -/

/-- POWER_ON (R168). -/
def execPowerOn (s : State) : Result := .next (resetPart .powerOn s.host.resetInput s)

/-- RESET_LINE_ASSERT (R169). -/
def execResetLineAssert (s : State) : Result :=
  .next (if s.host.resetInput then s else resetPart .resetLine true s)

/-- RESET_LINE_RELEASE (R169). -/
def execResetLineRelease (s : State) : Result :=
  .next (if s.host.resetInput then finish (s.modHost fun h => { h with resetInput := false }) else s)

/-! ### The tick and the timers -/

/-- TICK (R166). -/
def execTick (s : State) : Result := .next (tickPart s)

/-- INTERVAL_TIMER_EXPIRY (R76). -/
def execIntervalTimerExpiry (l : LinkId) (s : State) : Result := .next (expiryEvent .interval l s)

/-- OFFER_TIMER_EXPIRY (R84). -/
def execOfferTimerExpiry (l : LinkId) (s : State) : Result := .next (expiryEvent .offer l s)

/-- GRACE_TIMER_EXPIRY (R93). -/
def execGraceTimerExpiry (l : LinkId) (s : State) : Result := .next (expiryEvent .grace l s)

/-- BACKOFF_TIMER_EXPIRY (R86). -/
def execBackoffTimerExpiry (l : LinkId) (s : State) : Result := .next (expiryEvent .backoff l s)

/-! ### Sealing, opening and derivation -/

/-- SEALING_START (R44). -/
def execSealingStart (s : State) : Result :=
  .next (if sealerReady (refreshRequests s) then finish (startSealing (refreshRequests s)) else s)

/-- R39: the block operation in the unit ends. What the requester's end makes possible is taken up with
the unit still busy, and the unit is then granted afresh (log entry 15). -/
def operationEnds (r : Requester) (s : State) : State :=
  finish (freeUnit (settleBlocks (endOperation r s)))

/-- BLOCK_OPERATION_END (R39). -/
def execBlockOperationEnd (s : State) : Result :=
  .next (match s.engine.unit with
    | some r => operationEnds r s
    | none => s)

/-- The block operation in the unit is the last of a requester's sequence. -/
def lastOperation (s : State) (r : Requester) : Bool :=
  s.engine.unit = some r &&
    match r with
    | .sealer => match s.sealer.current with | some x => x.left = 1 | none => false
    | .opener => match s.opener.current with | some x => x.left = 1 | none => false
    | .deriver => match s.keys.derivation with | some x => x.left = 1 | none => false

/-- SEALING_COMPLETION (R56). -/
def execSealingCompletion (s : State) : Result :=
  .next (if lastOperation s .sealer then operationEnds .sealer s else s)

/-- OPENING_START (R60). -/
def execOpeningStart (s : State) : Result :=
  .next (if openerReady s then finish (startOpening s) else s)

/-- OPENING_COMPLETION (R68). -/
def execOpeningCompletion (s : State) : Result :=
  .next (if lastOperation s .opener then operationEnds .opener s else s)

/-- DERIVATION_BEGIN (R35). -/
def execDerivationBegin (s : State) : Result :=
  .next (if deriverReady s then finish (beginDerivation s) else s)

/-- DERIVATION_COMPLETION (R36). -/
def execDerivationCompletion (s : State) : Result :=
  .next (if lastOperation s .deriver then operationEnds .deriver s else s)

/-! ### The trunk ports -/

/-- R122: a port's receive cycle: its monitor, selection, trunk and circuits, and then its bytes where
the port is selected and ALIGNED. While the reset input is asserted none is taken (R169). -/
def receiveCycle (port : Port) (good : Bool) (bytes : Vector Byte 96) (s : State) : State :=
  if s.host.resetInput then s
  else
    let s := monitorEvent port (fun m => m.mark good) s
    finish (if s.trunk.selected = port ∧ (s.monitor port).state = .aligned then feedCycle bytes s else s)

/-- RECEIVE_CYCLE (R122). -/
def execReceiveCycle (port : Port) (good : Bool) (bytes : Vector Byte 96) (s : State) : Result :=
  .next (receiveCycle port good bytes s)

/-- SIGNAL_ABSENCE (R121). -/
def execSignalAbsence (port : Port) (s : State) : Result :=
  .next (finish (monitorEvent port Monitor.absent s))

/-- TRANSMIT_CYCLE_REQUEST (R133). -/
def execTransmitCycleRequest (s : State) : Result := .next (finish (transmitCycle s))

end Sys2Proof.Machine
end

