-- ==== Sys2Proof/Machine/Dispatch.lean ====
section
/-! DEFINITION. The one place that gives each command and event its meaning. -/

namespace Sys2Proof.Machine

/-- What a command or event does to everything but the queue. -/
def exec (i : Instr) (s : State) : Host.Outcome State Fault Refusal :=
  match i with
  | .linkConfigure tag link maxPayload budgetClass intervalCode offerCode attempts graceCode quota threshold tagAction renewalAction startHeld => Sys2Proof.Machine.execLinkConfigure tag link maxPayload budgetClass intervalCode offerCode attempts graceCode quota threshold tagAction renewalAction startHeld s
  | .linkActivate tag link => Sys2Proof.Machine.execLinkActivate tag link s
  | .linkIsolate tag link => Sys2Proof.Machine.execLinkIsolate tag link s
  | .linkResume tag link => Sys2Proof.Machine.execLinkResume tag link s
  | .linkDeactivate tag link => Sys2Proof.Machine.execLinkDeactivate tag link s
  | .linkUnconfigure tag link => Sys2Proof.Machine.execLinkUnconfigure tag link s
  | .linkStatus tag link clear => Sys2Proof.Machine.execLinkStatus tag link clear s
  | .rootLoad tag link key => Sys2Proof.Machine.execRootLoad tag link key s
  | .rootErase tag link => Sys2Proof.Machine.execRootErase tag link s
  | .storeStatus tag => Sys2Proof.Machine.execStoreStatus tag s
  | .renew tag link => Sys2Proof.Machine.execRenew tag link s
  | .trafficOut tag link payload => Sys2Proof.Machine.execTrafficOut tag link payload s
  | .queueHold tag link => Sys2Proof.Machine.execQueueHold tag link s
  | .queueRelease tag link count => Sys2Proof.Machine.execQueueRelease tag link count s
  | .queueUnhold tag link => Sys2Proof.Machine.execQueueUnhold tag link s
  | .queueDiscard tag link count => Sys2Proof.Machine.execQueueDiscard tag link count s
  | .portMode tag mode => Sys2Proof.Machine.execPortMode tag mode s
  | .mapSet tag first count entry => Sys2Proof.Machine.execMapSet tag first count entry s
  | .mapRead tag selector => Sys2Proof.Machine.execMapRead tag selector s
  | .mapCommit tag => Sys2Proof.Machine.execMapCommit tag s
  | .trunkStatus tag clear => Sys2Proof.Machine.execTrunkStatus tag clear s
  | .faultPolicy tag kind declare clear report => Sys2Proof.Machine.execFaultPolicy tag kind declare clear report s
  | .faultList tag selector => Sys2Proof.Machine.execFaultList tag selector s
  | .faultRead tag source kind => Sys2Proof.Machine.execFaultRead tag source kind s
  | .faultPurge tag => Sys2Proof.Machine.execFaultPurge tag s
  | .setClock tag value => Sys2Proof.Machine.execSetClock tag value s
  | .identify tag => Sys2Proof.Machine.execIdentify tag s
  | .reset tag => Sys2Proof.Machine.execReset tag s
  | .recordArrival bytes => Sys2Proof.Machine.execRecordArrival bytes s
  | .malformedRecord bytes => Sys2Proof.Machine.execMalformedRecord bytes s
  | .takeRecord => Sys2Proof.Machine.execTakeRecord s
  | .sendStart => Sys2Proof.Machine.execSendStart s
  | .sendEnd => Sys2Proof.Machine.execSendEnd s
  | .powerOn => Sys2Proof.Machine.execPowerOn s
  | .resetLineAssert => Sys2Proof.Machine.execResetLineAssert s
  | .resetLineRelease => Sys2Proof.Machine.execResetLineRelease s
  | .tick => Sys2Proof.Machine.execTick s
  | .intervalTimerExpiry link => Sys2Proof.Machine.execIntervalTimerExpiry link s
  | .offerTimerExpiry link => Sys2Proof.Machine.execOfferTimerExpiry link s
  | .graceTimerExpiry link => Sys2Proof.Machine.execGraceTimerExpiry link s
  | .backoffTimerExpiry link => Sys2Proof.Machine.execBackoffTimerExpiry link s
  | .sealingStart => Sys2Proof.Machine.execSealingStart s
  | .blockOperationEnd => Sys2Proof.Machine.execBlockOperationEnd s
  | .sealingCompletion => Sys2Proof.Machine.execSealingCompletion s
  | .openingStart => Sys2Proof.Machine.execOpeningStart s
  | .openingCompletion => Sys2Proof.Machine.execOpeningCompletion s
  | .derivationBegin => Sys2Proof.Machine.execDerivationBegin s
  | .derivationCompletion => Sys2Proof.Machine.execDerivationCompletion s
  | .receiveCycle port good bytes => Sys2Proof.Machine.execReceiveCycle port good bytes s
  | .signalAbsence port => Sys2Proof.Machine.execSignalAbsence port s
  | .transmitCycleRequest => Sys2Proof.Machine.execTransmitCycleRequest s

end Sys2Proof.Machine
end

