-- ==== Sys2Proof/Safety.lean ====
section
/-! DEFINITION. The terms in which statements about the part are made: when a record is taken at once,
when the blocks are at rest, the laws of the device that every step keeps, and the cipher of a whole
frame. -/

namespace Sys2Proof.Machine

/-! ### When a step does one thing alone -/

/-- A record that arrives now is taken in the event of its arrival (R161, R162), and nothing waits for
the outbound line. -/
def takesAtOnce (s : State) : Bool :=
  !s.host.resetInput && decide (s.host.receiver = .hunt) && s.host.buffer.isEmpty && canTake s &&
    !canSend s

/-- No sealing, opening or derivation can start, and the request list agrees with its conditions. -/
def blocksAtRest (s : State) : Bool :=
  (nextStart s).isNone && decide ((refreshRequests s).sealer.requests = s.sealer.requests)

/-- The end of the event in which a record with a tag is answered. -/
def replied (tag : Byte) (code : ResultCode) (fields : List Byte) (s : State) : State :=
  finish (answer tag (s, ⟨code, fields, false⟩))

/-! ### Laws of the device -/

/-- The unit bytes stand in canonical form, at addresses of the 2048 units (R102). -/
def MemoryLaw (s : State) : Prop :=
  Memory.wf s.store.mem = true ∧ ∀ c ∈ s.store.mem, c.1 < 64 * 2048

/-- R31: the key wait list holds no link twice, holds only ACTIVE links with the pending-trigger flag
set, and is non-empty only while no key slot is FREE. -/
def WaitListLaw (s : State) : Prop :=
  s.keys.waitList.Nodup ∧
  (∀ l ∈ s.keys.waitList,
    (s.link l).state = .active ∧ (s.link l).renewal.pendingTrigger = true) ∧
  (s.keys.waitList = [] ∨ ∀ k, (s.slot k).state ≠ .free)

/-- R31, R75: the law of the key wait list with its links QUIET; and what keeps them so: a link that is neither
ACTIVE nor ISOLATED is QUIET, and in QUIET, CUTTING and BACKOFF a link has no next slot and an empty lane. -/
def WaitersLaw (s : State) : Prop :=
  WaitListLaw s ∧ (∀ l ∈ s.keys.waitList, (s.link l).renewal.state = .quiet) ∧
  ∀ l, ((s.link l).live = false → (s.link l).renewal.state = .quiet) ∧
    ((s.link l).renewal.state ∈ [RenewalState.quiet, .cutting, .backoff] →
      (s.link l).lane = none ∧ (s.link l).next = none)

/-- R148: at most one entry for any source and kind, each a condition of R142's table; at most 95 ordinary
entries, and at most 96 in all. -/
def FaultTableLaw (s : State) : Prop :=
  (s.faults.entries.map fun e => (e.source, e.kind)).Nodup ∧
  (∀ e ∈ s.faults.entries, pairExists e.source e.kind = true) ∧
  (s.faults.entries.filter ordinary).length ≤ 95 ∧
  s.faults.entries.length ≤ 96

/-- R148, R165: the notice list holds no item twice, a link just while its link-event pending flag is set,
and a fault entry just while its report-pending flag is set. -/
def NoticeLaw (s : State) : Prop :=
  s.host.notices.Nodup ∧
  (∀ l, NoticeItem.link l ∈ s.host.notices ↔ (s.link l).eventPending = true) ∧
  (∀ source kind, NoticeItem.fault source kind ∈ s.host.notices ↔
    ∃ e ∈ s.faults.entries, e.source = source ∧ e.kind = kind ∧ e.reportPending = true)

/-- R6: a profile within the ranges of its table. -/
def ProfileInRange (p : Profile) : Prop :=
  (16 ≤ p.maxPayload ∧ p.maxPayload ≤ 1024) ∧ p.budgetClass ≤ 6 ∧ p.intervalCode ≤ 5 ∧ p.offerCode ≤ 3 ∧
  (1 ≤ p.attempts ∧ p.attempts ≤ 7) ∧ p.graceCode ≤ 3 ∧ (16 ≤ p.quota ∧ p.quota ≤ 1280) ∧
  (1 ≤ p.threshold ∧ p.threshold ≤ 255)

/-- R146: the policy of a kind within its ranges. Two of R142's default clear counts (30 and 60) lie above
the 15 that R146 gives and FAULT_POLICY can set; they stand as R142 states them (log entry 27). -/
def PolicyInRange (kind : FaultKind) (p : Policy) : Prop :=
  (1 ≤ p.declare ∧ p.declare ≤ 15) ∧
  ((1 ≤ p.clear ∧ p.clear ≤ 15) ∨ p.clear = (tget defaultPolicies kind.index).clear)

/-- R121: an alignment monitor's counts are 0 to 3, each 0 in the states that do not use it. -/
def MonitorOk (m : Monitor) : Prop :=
  m.good ≤ 3 ∧ m.bad ≤ 3 ∧ (m.state ≠ .seeking → m.good = 0) ∧ (m.state ≠ .aligned → m.bad = 0)

/-- The numbers the part keeps stay within the ranges their tables give: profiles (R6), release allowances
(R4), attempts made (R75), blocks used up to the largest H + 1024 (R25), monitor counts (R121),
policies (R146) and persistence counts, below the largest clear count of all, 60 (R147, R150). -/
def RangeLaw (s : State) : Prop :=
  (∀ l p, (s.link l).profile = some p → ProfileInRange p) ∧
  (∀ l, (s.link l).allowance ≤ 255 ∧ (s.link l).renewal.attempts ≤ 7) ∧
  (∀ k, (s.slot k).used ≤ 2 ^ 28 + 1024) ∧
  (∀ port, MonitorOk (s.monitor port)) ∧
  (∀ kind, PolicyInRange kind (policyOf s kind)) ∧
  (∀ e ∈ s.faults.entries, e.persistence ≤ 59)

/-- The host port holds at most 4 records and 4 replies (R161, R163), a record waits only while it cannot
be taken (R162), and the attention output shows what waits to go out (R164). -/
def PortLaw (s : State) : Prop :=
  s.host.buffer.length ≤ 4 ∧ s.host.replies.length ≤ 4 ∧ takeReady s = false ∧
  s.host.attention = attentionOutput s

/-- R69: the window of a key slot: no number twice, all within 63 below the highest accepted, which is
among them once any is; at most 64 of them. -/
def WindowOk (x : KeySlot) : Prop :=
  x.accepted.Nodup ∧ (∀ n ∈ x.accepted, n ≤ x.highest ∧ x.highest ≤ n + 63 ∧ n ≠ 0) ∧
  (x.accepted = [] → x.highest = 0) ∧ (x.accepted ≠ [] → x.highest ∈ x.accepted) ∧
  x.accepted.length ≤ 64

/-- R69: every window is well kept, and the sequence of a frame in opening is still acceptable. -/
def WindowLaw (s : State) : Prop :=
  (∀ k, WindowOk (s.slot k)) ∧
  ∀ r, s.opener.current = some r → windowVerdict (s.slot r.slot) r.seq = none

/-! ### The laws of the key roles (R2, R26, R28, R31, R75) -/

/-- The key roles a link fills (R2). -/
def rolesOf (k : Link) : List SlotNo := k.previous.toList ++ k.current.toList ++ k.next.toList

/-- R2, R75: a link holds a current slot just while it is ACTIVE or ISOLATED, a next slot just in OFFERING and
DERIVING, a previous slot just in CUTTING; only an ACTIVE link has a renewal under way or pending. The
epochs of its roles follow one another. In DERIVING and CUTTING its current slot is READY, and so is a
previous slot; in OFFERING its next slot is DERIVING and no derivation is requested for it. -/
def LinkRoles (s : State) (l : LinkId) : Prop :=
  let k := s.link l
  (k.current.isSome ↔ k.live = true) ∧
  (k.next.isSome ↔ k.renewal.state = .offering ∨ k.renewal.state = .derivingNext) ∧
  (k.previous.isSome ↔ k.renewal.state = .cutting) ∧
  (k.renewal.state ≠ .quiet ∨ k.renewal.pendingTrigger = true → k.state = .active) ∧
  (∀ c p, k.current = some c → k.previous = some p → (s.slot p).epoch + 1 = (s.slot c).epoch) ∧
  (∀ c n, k.current = some c → k.next = some n →
    (s.slot n).epoch = (s.slot c).epoch + 1 ∧ (s.slot n).epoch = k.renewal.offeredEpoch) ∧
  (∀ p, k.previous = some p → (s.slot p).state = .ready) ∧
  (∀ c, k.current = some c → k.renewal.state = .derivingNext ∨ k.renewal.state = .cutting →
    (s.slot c).state = .ready) ∧
  (∀ n, k.next = some n → k.renewal.state = .offering →
    (s.slot n).state = .derivingKeys ∧ (∀ r ∈ s.keys.requests, r.slot ≠ n) ∧ (s.slot n).inFlight = 0)

/-- R75: what the control lane may hold: an OFFER in OFFERING alone, and a CUTOVER in DERIVING alone, once the
next slot is READY. -/
def LaneTable (s : State) (k : Link) : Prop :=
  match k.lane with
  | none => True
  | some (.offer epoch nonce _) =>
    k.renewal.state = .offering ∧ epoch = k.renewal.offeredEpoch ∧ nonce = k.renewal.headNonce
  | some (.cutover epoch head shop) =>
    k.renewal.state = .derivingNext ∧ epoch = k.renewal.offeredEpoch ∧ head = k.renewal.headNonce ∧
      shop = k.renewal.shopNonce ∧ ∀ n, k.next = some n → (s.slot n).state = .ready

/-- The operations on a key slot that have begun and not completed (R28). -/
def operationsOn (s : State) (k : SlotNo) : Nat :=
  (s.sealer.current.toList.filter fun r => r.slot = k).length +
  (s.opener.current.toList.filter fun r => r.slot = k).length +
  (s.keys.derivation.toList.filter fun d => d.request.slot = k).length

/-- R26, R28, R30: a FREE slot is wholly zero; a DERIVING or READY slot fills exactly one role of the link it
names as owner, and no other slot fills a role; a DRAINING slot has an operation in flight; every in-flight
count is the number of operations on the slot; and no epoch is above 65535. -/
def SlotStates (s : State) : Prop :=
  (∀ k, (s.slot k).state = .free → s.slot k = {}) ∧
  (∀ k, (s.slot k).state = .derivingKeys ∨ (s.slot k).state = .ready →
    (rolesOf (s.link (s.slot k).owner)).count k = 1) ∧
  (∀ l, ∀ k ∈ rolesOf (s.link l), (s.slot k).owner = l ∧
    ((s.slot k).state = .derivingKeys ∨ (s.slot k).state = .ready)) ∧
  (∀ k, (s.slot k).state = .draining → (s.slot k).inFlight ≠ 0) ∧
  (∀ k, (s.slot k).inFlight = operationsOn s k) ∧
  (∀ k, (s.slot k).epoch ≤ 65535)

/-- R34 to R36: a derivation that waits is for a DERIVING slot of its link and epoch, at most one for a slot;
the one in flight is for such a slot, or for one released since, and no other waits for its slot. -/
def Derivations (s : State) : Prop :=
  (s.keys.requests.map fun r => r.slot).Nodup ∧
  (∀ r ∈ s.keys.requests, (s.slot r.slot).state = .derivingKeys ∧ (s.slot r.slot).owner = r.link ∧
    (s.slot r.slot).epoch = r.epoch ∧ (s.slot r.slot).inFlight = 0) ∧
  (∀ d, s.keys.derivation = some d → (∀ r ∈ s.keys.requests, r.slot ≠ d.request.slot) ∧
    ((s.slot d.request.slot).state = .draining ∨
      ((s.slot d.request.slot).state = .derivingKeys ∧ (s.slot d.request.slot).owner = d.request.link)))

/-- R56, R57, R68, R73: a frame in sealing is under its link's current slot, READY, or has its discard mark
and a DRAINING slot; a frame in opening is under a slot that is READY for its link or DRAINING, and one
without the discard mark is of a live link whose current slot is READY. -/
def FramesUnderKeys (s : State) : Prop :=
  (∀ r, s.sealer.current = some r →
    if r.discard then (s.slot r.slot).state = .draining
    else (s.link r.link).current = some r.slot ∧ (s.slot r.slot).state = .ready) ∧
  (∀ r, s.opener.current = some r →
    if r.discard then (s.slot r.slot).state = .draining
    else roleReady s (s.link r.link).current = true ∧
      ((s.slot r.slot).state = .draining ∨
        ((s.slot r.slot).state = .ready ∧ (s.slot r.slot).owner = r.link)))

/-- R31, R33, R79: the links that wait for a key slot are those with a pending trigger; each is ACTIVE and
QUIET and below the last epoch, none stands on the list twice, and they wait only while no slot is FREE. -/
def WaitersQuiet (s : State) : Prop :=
  s.keys.waitList.Nodup ∧
  (∀ l, l ∈ s.keys.waitList ↔ (s.link l).renewal.pendingTrigger = true) ∧
  (∀ l ∈ s.keys.waitList, (s.link l).state = .active ∧ (s.link l).renewal.state = .quiet ∧
    ∀ c, (s.link l).current = some c → (s.slot c).epoch ≠ 65535) ∧
  (s.keys.waitList = [] ∨ ∀ k, (s.slot k).state ≠ .free)

/-- The laws that tie key roles, renewal states, control lanes, slot states and operations in flight to one
another. -/
def RoleLaw (s : State) : Prop :=
  (∀ l, LinkRoles s l) ∧ (∀ l, LaneTable s (s.link l)) ∧ SlotStates s ∧ Derivations s ∧
  FramesUnderKeys s ∧ WaitersQuiet s

/-! ### The laws of the frame store and the circuits (R103, R104, R134, R136) -/

/-- R136: a link's circuit receiver is in HUNT, and holds no units, whenever the link's circuit is down or the
link is neither ACTIVE nor ISOLATED. -/
def ReceiverLaw (s : State) : Prop := ∀ l, receiverRuns s l = false → s.receiver l = .hunt

/-- The descriptor of a frame that a transmitter sends from the frame store. -/
def sentFrame : Transmitter → List DescNo
  | .frame d _ => [d]
  | .copy _ _ => []
  | .idle => []

/-- The descriptor of a frame in reception. -/
def receivedFrame : Receiver → List DescNo
  | .body d _ => [d]
  | .hunt => []
  | .header _ => []
  | .skip _ => []

/-- Every place in which a frame of the frame store stands (R105, R116, R134). -/
def framePlaces (s : State) : List DescNo :=
  (allFin 64).flatMap s.queue ++ (s.sealer.current.bind fun r => r.desc).toList ++
  ((allFin 64).flatMap fun l => sentFrame (s.transmitter l)) ++
  ((allFin 64).flatMap fun l => receivedFrame (s.receiver l)) ++ s.opener.waiting ++
  (s.opener.current.map fun r => r.desc).toList ++ s.store.delivery ++
  (s.host.line.bind fun r => r.frame).toList

/-- R102 to R105: every held descriptor stands in exactly one place, and every place names a held one; no unit is
held twice or by the other direction; no share and no quota is exceeded. A link that is neither ACTIVE nor
ISOLATED has an empty queue and an idle transmitter, and so is the transmitter of a link whose frame is in
sealing. -/
def StoreLaw (s : State) : Prop :=
  (framePlaces s).Nodup ∧ (∀ d, d ∈ framePlaces s ↔ (s.desc d).isSome = true) ∧
  (∀ inbound, (heldUnits s inbound).Nodup ∧
    (∀ u ∈ heldUnits s inbound, decide (1280 ≤ u.val) = inbound) ∧
    unitsHeld s inbound ≤ shareUnitCount inbound ∧ descsHeld s inbound ≤ shareDescCount inbound) ∧
  (∀ l p, (s.link l).profile = some p → queueUnits s l ≤ p.quota) ∧
  (∀ l, (s.link l).live = false → s.queue l = [] ∧ s.transmitter l = .idle) ∧
  (∀ r, s.sealer.current = some r → s.transmitter r.link = .idle) ∧ ReceiverLaw s

/-! ### The sealer's request list, and the blocks at rest (R35, R42 to R44, R60) -/

/-- R42: a link may be on the request list: its path is free, it has a trunk slot, and it has something to send:
a lane message whose key slot is READY, or a sendable head frame. -/
def MaySeal (s : State) (l : LinkId) : Prop :=
  let k := s.link l
  (s.transmitter l = .idle ∧ ∀ r, s.sealer.current = some r → r.link ≠ l) ∧
  (∃ i : TrunkSlot, tget s.trunk.live i = some l) ∧
  ((∃ epoch nonce attempt c, k.lane = some (.offer epoch nonce attempt) ∧ k.current = some c ∧
      (s.slot c).state = .ready) ∨
    (∃ epoch head shop n, k.lane = some (.cutover epoch head shop) ∧ k.next = some n ∧
      (s.slot n).state = .ready) ∨
    (s.queue l ≠ [] ∧ k.state = .active ∧ (∃ c, k.current = some c ∧ (s.slot c).state = .ready) ∧
      k.budgetHeld = false ∧ (k.hold = false ∨ 0 < k.allowance)))

/-- R43: a request list that follows the conditions of a state: of the links on the list, those that meet R42
stay, in their order; those that meet it and are not on the list join the end, in ascending order. -/
def ListFollows (s : State) (list : List LinkId) : Prop :=
  ∃ stay join : List LinkId, list = stay ++ join ∧ stay.Sublist s.sealer.requests ∧
    (∀ l, l ∈ stay ↔ l ∈ s.sealer.requests ∧ MaySeal s l) ∧ join.Pairwise (· < ·) ∧
    ∀ l, l ∈ join ↔ l ∉ s.sealer.requests ∧ MaySeal s l

/-- R41 to R43: the request list holds no link twice, and just the links that meet R42. -/
def RequestLaw (s : State) : Prop :=
  s.sealer.requests.Nodup ∧ ∀ l, l ∈ s.sealer.requests ↔ MaySeal s l

/-- R44, R60, R35: no start that can be taken is left: a sealer with no frame in sealing has an empty request
list, an opener with no frame in opening an empty open list, an idle deriver no request. -/
def RestLaw (s : State) : Prop :=
  (s.sealer.current = none → s.sealer.requests = []) ∧ (s.opener.current = none → s.opener.waiting = []) ∧
  (s.keys.derivation = none → s.keys.requests = [])

/-! ### Triggers, charges, selection and circuits, as the rules list their effects -/

/-- R77, R79 to R81: a state after a renewal trigger for a link. An ACTIVE, QUIET link without a pending trigger,
below epoch 65535, starts its renewal on the lowest FREE slot, or waits where there is none; any other absorbs
the trigger. -/
def TriggerActs (l : LinkId) (s t : State) : Prop :=
  let k := s.link l
  let acts : Prop := k.state = .active ∧ k.renewal.state = .quiet ∧ k.renewal.pendingTrigger = false ∧
    ∃ c, k.current = some c ∧ (s.slot c).epoch ≠ 65535
  (acts →
    (∀ n : SlotNo, (s.slot n).state = .free → (∀ m : SlotNo, m < n → (s.slot m).state ≠ .free) →
      t = startRenewal l n s) ∧
    ((∀ n, (s.slot n).state ≠ .free) →
      t = { s with
        links := tput s.links l { k with renewal := { k.renewal with pendingTrigger := true } }
        keys := { s.keys with waitList := s.keys.waitList ++ [l] } })) ∧
  (¬acts → t = s)

/-- R49, R63: what a charge does beside the slot that it charges, in a state whose slot `k` has been charged: a
charge that first reaches S raises a renewal trigger for the link, any other nothing. -/
def ChargeActs (l : LinkId) (k : SlotNo) (crosses : Prop) (charged t : State) : Prop :=
  ∃ acted : State, (crosses → TriggerActs l charged acted) ∧ (¬crosses → acted = charged) ∧
    t.links = acted.links ∧ t.draws = acted.draws ∧ t.keys.waitList = acted.keys.waitList ∧
    t.keys.requests = acted.keys.requests ∧ t.keys.roots = acted.keys.roots ∧
    t.keys.derivation = acted.keys.derivation ∧ ∀ j, j ≠ k → t.slot j = acted.slot j

/-- R124: the selected port after a port's monitor takes a new value. -/
def selectionAfter (s : State) (port : Port) (new : Monitor) : Port :=
  let selected := s.trunk.selected
  if s.trunk.mode = .auto ∧ new.state ≠ (s.monitor port).state then
    if port = selected then
      if new.state = .lost ∧ (s.monitor (otherPort port)).state = .aligned then otherPort port else selected
    else if new.state = .aligned ∧ (s.monitor selected).state ≠ .aligned then port else selected
  else selected

/-- R83, R132: the offer timer of a link over a change: paused where the change takes the link's circuit down,
resumed where it brings it up. -/
def offerFollowing (s t : State) (l : LinkId) : Timer :=
  if circuitUp s l = true ∧ circuitUp t l = false then (s.link l).renewal.offer.pause
  else if circuitUp s l = false ∧ circuitUp t l = true then (s.link l).renewal.offer.resume
  else (s.link l).renewal.offer

/-! ### Releases, isolations, failures and retirements, as the rules list their effects -/

/-- R29: slots detached from their roles: the derivation requests that wait for them are withdrawn, and each is
erased where nothing is in flight on it, else DRAINING. -/
def released (ks : List SlotNo) (s : State) : State :=
  { s with keys := { s.keys with
      requests := s.keys.requests.filter fun r => !ks.contains r.slot
      slots := Vector.ofFn fun k =>
        if ks.contains k then
          (if (s.slot k).inFlight = 0 then {} else { s.slot k with state := .draining })
        else s.slot k } }

/-- R13, R33, R94: what an isolation leaves: the link ISOLATED and QUIET, off the key wait list, its next and
previous slots released, and the slots that are FREE handed over. -/
def isolated (l : LinkId) (s : State) : State :=
  let k := s.link l
  handOver (released (k.next.toList ++ k.previous.toList)
    { s with
      links := tput s.links l
        { k with
          state := .isolated, previous := none, next := none, lane := none
          renewal := { k.renewal with
            state := .quiet, offer := .stopped, grace := .stopped, backoff := .stopped,
            pendingTrigger := false } }
      keys := { s.keys with waitList := s.keys.waitList.filter fun j => j ≠ l } })

/-- R153: the act on the declaration of a condition: a link's TAG_FAILURES acts by its profile, and no other
condition acts. -/
def faultActed (c : Condition) (s : State) : State :=
  match c.source, c.kind with
  | .link l, .tagFailures =>
    match (s.link l).profile.map Profile.tagAction with
    | some .renew => trigger l s
    | some .isolate => if (s.link l).state = .active then (isolated l s).setEventPending l else s
    | some .noAction => s
    | none => s
  | _, _ => s

/-- R85, steps 1 to 3: the next slot released and handed over, the offer timer stopped, the failure mark set;
the lane is emptied (log entry 31). -/
def failed (l : LinkId) (s : State) : State :=
  let k := s.link l
  (handOver (released k.next.toList
    { s with links := tput s.links l { k with next := none, lane := none } })).modRenewal l fun r =>
      { r with offer := .stopped, failureMark := true }

/-- R85, step 5: the failed renewal with action NONE. -/
def failedToBackoff (l : LinkId) (s : State) : State :=
  (failed l s).modRenewal l fun r => { r with state := .backoff, backoff := .running 0 60 }

/-- R85, step 4, and R15: the failed renewal of an ACTIVE link with action ISOLATE. -/
def failedToIsolation (l : LinkId) (s : State) : State := (isolated l (failed l s)).setEventPending l

/-- R93: the previous slot retired: released and handed over, the grace timer stopped, the state QUIET, and the
standing conditions re-evaluated. -/
def retired (l : LinkId) (s : State) : State :=
  let k := s.link l
  reevaluate l
    ((handOver (released k.previous.toList
      { s with links := tput s.links l { k with previous := none } })).modRenewal l fun r =>
        { r with grace := .stopped, state := .quiet })

/-- R30, R55, R67: how the completion of an operation on a slot lowers its in-flight count: the one that brings
a DRAINING slot's count to 0 erases it and hands it over, any other lowers the count alone. -/
def Lowers (s : State) (k : SlotNo) (low : State → State) : Prop :=
  ((s.slot k).state = .draining ∧ (s.slot k).inFlight ≤ 1 ∧
    low = fun t => handOver { t with keys := { t.keys with slots := tput t.keys.slots k {} } }) ∨
  (((s.slot k).state ≠ .draining ∨ 2 ≤ (s.slot k).inFlight) ∧
    low = fun t => { t with keys := { t.keys with
      slots := tput t.keys.slots k { t.slot k with inFlight := (t.slot k).inFlight - 1 } } })

/-! ### Commands as records (R171, R173) -/

/-- R173: the width of a command's fields; ROOT_LOAD's is that of its link alone, before the key of varying
length. -/
def fieldWidth (code : Nat) : Nat :=
  match code with
  | 0x10 => 14
  | 0x16 => 2
  | 0x22 => 0
  | 0x31 => 2
  | 0x33 => 3
  | 0x41 => 3
  | 0x43 => 0
  | 0x50 => 4
  | 0x52 => 2
  | 0x53 => 0
  | 0x60 => 4
  | 0x61 => 0
  | 0x62 => 0
  | _ => 1

/-- The commands and events that may move the selection of a port (R124, R126, R168): the events of a port,
PORT_MODE, the resets, and bytes of any record; SEND_END may bring the reset of a RESET besides. -/
def mayMoveSelection : Instr → Bool
  | .receiveCycle .. => true
  | .signalAbsence _ => true
  | .portMode .. => true
  | .powerOn => true
  | .resetLineAssert => true
  | .recordArrival _ => true
  | .malformedRecord _ => true
  | _ => false

/-- The record kind, tag and body of a host command. -/
def recordOf : Instr → Option (RecordKind × Byte × List Byte)
  | .linkConfigure tag link maxPayload budgetClass intervalCode offerCode attempts graceCode quota
      threshold tagAction renewalAction startHeld =>
    some (.command, tag, 0x10 :: link :: (beBytes 2 maxPayload.toNat ++
      [budgetClass, intervalCode, offerCode, attempts, graceCode] ++ beBytes 2 quota.toNat ++
      [threshold, tagAction, renewalAction, startHeld]))
  | .linkActivate tag link => some (.command, tag, [0x11, link])
  | .linkIsolate tag link => some (.command, tag, [0x12, link])
  | .linkResume tag link => some (.command, tag, [0x13, link])
  | .linkDeactivate tag link => some (.command, tag, [0x14, link])
  | .linkUnconfigure tag link => some (.command, tag, [0x15, link])
  | .linkStatus tag link clear => some (.command, tag, [0x16, link, clear])
  | .rootLoad tag link key => some (.command, tag, 0x20 :: link :: key)
  | .rootErase tag link => some (.command, tag, [0x21, link])
  | .storeStatus tag => some (.command, tag, [0x22])
  | .renew tag link => some (.command, tag, [0x23, link])
  | .trafficOut tag link payload => some (.trafficOut, tag, link :: payload)
  | .queueHold tag link => some (.command, tag, [0x30, link])
  | .queueRelease tag link count => some (.command, tag, [0x31, link, count])
  | .queueUnhold tag link => some (.command, tag, [0x32, link])
  | .queueDiscard tag link count => some (.command, tag, 0x33 :: link :: beBytes 2 count.toNat)
  | .portMode tag mode => some (.command, tag, [0x40, mode])
  | .mapSet tag first count entry => some (.command, tag, [0x41, first, count, entry])
  | .mapRead tag selector => some (.command, tag, [0x42, selector])
  | .mapCommit tag => some (.command, tag, [0x43])
  | .trunkStatus tag clear => some (.command, tag, [0x44, clear])
  | .faultPolicy tag kind declare clear report =>
    some (.command, tag, [0x50, kind, declare, clear, report])
  | .faultList tag selector => some (.command, tag, [0x51, selector])
  | .faultRead tag source kind => some (.command, tag, [0x52, source, kind])
  | .faultPurge tag => some (.command, tag, [0x53])
  | .setClock tag value => some (.command, tag, 0x60 :: beBytes 4 value.toNat)
  | .identify tag => some (.command, tag, [0x61])
  | .reset tag => some (.command, tag, [0x62])
  | .recordArrival _ => none
  | .malformedRecord _ => none
  | .takeRecord => none
  | .sendStart => none
  | .sendEnd => none
  | .powerOn => none
  | .resetLineAssert => none
  | .resetLineRelease => none
  | .tick => none
  | .intervalTimerExpiry _ => none
  | .offerTimerExpiry _ => none
  | .graceTimerExpiry _ => none
  | .backoffTimerExpiry _ => none
  | .sealingStart => none
  | .blockOperationEnd => none
  | .sealingCompletion => none
  | .openingStart => none
  | .openingCompletion => none
  | .derivationBegin => none
  | .derivationCompletion => none
  | .receiveCycle _ _ _ => none
  | .signalAbsence _ => none
  | .transmitCycleRequest => none

/-! ### The cipher of a whole frame (R52, R53, R65, R66) -/

/-- The keystream of a payload of `p` bytes: the enciphered counter blocks, cut to length. -/
def keystream (l : LinkId) (inbound : Bool) (epoch seq : Nat) (kind : FrameKind) (kc : Key) (p : Nat) :
    List Byte :=
  ((List.range (chunks p)).flatMap fun i =>
    blockBytes (encipher kc (counterBlock l inbound epoch seq kind i))).take p

/-- The last tag chain value T(m) over a ciphertext. -/
def tagChainOf (l : LinkId) (inbound : Bool) (epoch seq : Nat) (kind : FrameKind) (ki : Key)
    (ciphertext : List Byte) : Block :=
  (List.range (chunks ciphertext.length)).foldl
    (fun t i => encipher ki (t ^^^ blockOf ((ciphertext.drop (16 * i)).take 16)))
    (encipher ki (tagStartBlock l inbound epoch seq kind ciphertext.length))

/-- The first `n` block operations of a sealing, one after another. -/
def sealFor (r : Sealing) : Nat → State → State × Block
  | 0, s => (s, r.tagChain)
  | n + 1, s =>
    sealingOperation { r with tagChain := (sealFor r n s).2 } n (sealFor r n s).1

/-- The first `n` block operations of an opening, one after another. -/
def openFor (r : Opening) : Nat → State → State × Block
  | 0, s => (s, r.tagChain)
  | n + 1, s =>
    openingOperation { r with tagChain := (openFor r n s).2 } n (openFor r n s).1

/-- Two states that differ at most in root keys and in the deriver's working copy of one. -/
def SameButRootKeys (s t : State) : Prop :=
  (∃ roots derivation, t = { s with keys := { s.keys with roots := roots, derivation := derivation } }) ∧
  (∀ l, (s.root l).state = (t.root l).state) ∧
  (s.keys.derivation.map fun d => (d.request, d.left)) =
    (t.keys.derivation.map fun d => (d.request, d.left))

end Sys2Proof.Machine
end

