-- ==== Sys2Proof/Certificates/Slice0/Obligations.lean ====
section
/-! DEFINITION. The statements about the part that are to be proved. `replied tag code fields t` is the
end of the event in which a record is answered from the state `t`; `finish t` is the end of any other
event. What the end of an event may still change is said by `FinishKeeps` and `FinishAtRest`. -/

open Sys2Proof Sys2Proof.Machine

/-! ### The step, the reset and the laws that every step keeps -/

/-- A step executes the command or event at the front of the queue on the state with the queue's rest;
with an empty queue nothing happens (the model's choice, log entry 21). -/
def Obligations.StepRunsTheFrontCommand : Prop :=
  (∀ (s : State) (c : Instr) (rest : List Instr), s.pending = c :: rest →
    step s = exec c { s with pending := rest }) ∧
  (∀ s : State, s.pending = [] → step s = .next s)

/-- What a power-on reset leaves in every block. -/
def Obligations.ResetLeavesEveryBlock : Prop :=
  (∀ l, (State.reset.link l).state = .idle ∧ (State.reset.link l).profile = none ∧
    (State.reset.link l).previous = none ∧ (State.reset.link l).current = none ∧
    (State.reset.link l).next = none ∧ (State.reset.link l).renewal.state = .quiet ∧
    (State.reset.link l).renewal.pendingTrigger = false ∧
    (State.reset.link l).renewal.failureMark = false ∧
    (State.reset.link l).hold = false ∧ (State.reset.link l).allowance = 0 ∧
    (State.reset.link l).budgetHeld = false ∧ (State.reset.link l).lane = none ∧
    (State.reset.link l).eventPending = false ∧ ∀ c, tget (State.reset.link l).stats c = 0) ∧
  (∀ l, State.reset.root l = ⟨.empty, 0⟩) ∧
  (∀ k, (State.reset.slot k).state = .free ∧ (State.reset.slot k).cipherKey = 0 ∧
    (State.reset.slot k).integrityKey = 0 ∧ (State.reset.slot k).accepted = []) ∧
  State.reset.keys.waitList = [] ∧ State.reset.keys.requests = [] ∧
  State.reset.keys.derivation = none ∧
  State.reset.engine = ⟨none, .deriver⟩ ∧
  State.reset.sealer.requests = [] ∧ State.reset.sealer.current = none ∧
  (∀ b ∈ State.reset.sealer.control, b = 0) ∧
  State.reset.opener = ⟨[], none⟩ ∧
  (∀ d, State.reset.desc d = none) ∧ (∀ l, State.reset.queue l = []) ∧
  State.reset.store.delivery = [] ∧
  (∀ p, State.reset.monitor p = ⟨.lost, 0, 0⟩) ∧ State.reset.trunk.mode = .auto ∧
  State.reset.trunk.selected = .a ∧ State.reset.trunk.switchCount = 0 ∧
  (∀ i, tget State.reset.trunk.live i = none ∧ tget State.reset.trunk.shadow i = none) ∧
  (∀ l, State.reset.receiver l = .hunt ∧ State.reset.transmitter l = .idle) ∧
  State.reset.faults.entries = [] ∧ State.reset.faults.policies = defaultPolicies ∧
  State.reset.faults.protectionSwitches = 0 ∧ State.reset.faults.hostOverruns = 0 ∧
  State.reset.faults.tableOverflows = 0 ∧ (∀ l, State.reset.events l = ⟨0, 0, 0, 0⟩) ∧
  State.reset.host.receiver = .hunt ∧ State.reset.host.buffer = [] ∧
  State.reset.host.recordsLost = false ∧ State.reset.host.replies = [] ∧
  State.reset.host.line = none ∧ State.reset.host.servedLast = .delivery ∧
  State.reset.host.notices = [.ready] ∧ State.reset.host.attention = true ∧
  State.reset.host.clock = 0 ∧ State.reset.host.resetPending = false ∧
  State.reset.host.resetCause = .powerOn ∧ State.reset.host.resets = 0

/-- The laws of the device hold after a power-on reset. -/
def Obligations.ResetMeetsTheLaws : Prop :=
  MemoryLaw State.reset ∧ WaitListLaw State.reset ∧ FaultTableLaw State.reset ∧
  NoticeLaw State.reset ∧ RangeLaw State.reset ∧ PortLaw State.reset ∧ WindowLaw State.reset ∧
  WaitersLaw State.reset ∧ RoleLaw State.reset ∧ StoreLaw State.reset ∧ RequestLaw State.reset ∧
  RestLaw State.reset

/-- Every step keeps the unit bytes in canonical form and within the 2048 units. Every step keeps each circuit
receiver in HUNT whose circuit is down or whose link is not live; and, where the key roles obey their law, it
keeps the law of the frame store: a held descriptor stands in exactly one place, no unit is held twice, and
shares and quotas are never exceeded. -/
def Obligations.StepKeepsMemoryLaw : Prop :=
  (∀ s t : State, MemoryLaw s → step s = .next t → MemoryLaw t) ∧
  (∀ s t : State, ReceiverLaw s → step s = .next t → ReceiverLaw t) ∧
  (∀ s t : State, RoleLaw s → StoreLaw s → step s = .next t → StoreLaw t)

/-- Every step keeps the law of the key wait list, and keeps its links QUIET where every link's lane and next
slot agree with its renewal state. Every step keeps the laws of the key roles: roles against renewal states,
lanes and slot states, and in-flight counts against the operations in flight. (That the lane is empty in BACKOFF
is R75's table with log entry 31.) Every step keeps the law of the sealer's request list, which holds no link twice
and just the links that meet R42; and, with the laws of the key roles and the frame store, it leaves no sealing
start, opening start or derivation that can be taken. -/
def Obligations.StepKeepsWaitListLaw : Prop :=
  (∀ s t : State, WaitListLaw s → step s = .next t → WaitListLaw t) ∧
  (∀ s t : State, WaitersLaw s → step s = .next t → WaitersLaw t) ∧
  (∀ s t : State, RoleLaw s → step s = .next t → RoleLaw t) ∧
  (∀ s t : State, RequestLaw s → step s = .next t → RequestLaw t) ∧
  (∀ s t : State, RoleLaw s → StoreLaw s → RequestLaw s → RestLaw s → step s = .next t → RestLaw t)

/-- Every step keeps the law of the fault table. -/
def Obligations.StepKeepsFaultTableLaw : Prop :=
  ∀ s t : State, FaultTableLaw s → step s = .next t → FaultTableLaw t

/-- Every step keeps the law of the notice list, where the table obeys its own. -/
def Obligations.StepKeepsNoticeLaw : Prop :=
  ∀ s t : State, FaultTableLaw s → NoticeLaw s → step s = .next t → NoticeLaw t

/-- Every step keeps the numbers within the ranges of their tables; but that two default clear counts lie above
the 15 of R146, and persistence counts up to 59 above the 15 of R147, is the model's choice (log entry 27). -/
def Obligations.StepKeepsRangeLaw : Prop :=
  ∀ s t : State, RangeLaw s → step s = .next t → RangeLaw t

/-- Every step keeps the law of the host port. -/
def Obligations.StepKeepsPortLaw : Prop :=
  ∀ s t : State, PortLaw s → step s = .next t → PortLaw t

/-- Every step keeps every window, and the sequence of a frame in opening stays acceptable. -/
def Obligations.StepKeepsWindowLaw : Prop :=
  ∀ s t : State, WindowLaw s → step s = .next t → WindowLaw t

/-! ### Commands and their records; whole frames; root keys -/

/-- A host command is the arrival of its whole record (the model's choice, log entry 10): every command row
does, from every state, exactly what the arrival of the bytes of its record does. -/
def Obligations.CommandIsItsRecord : Prop :=
  ∀ (c : Instr) (kind : RecordKind) (tag : Byte) (body : List Byte) (s : State),
    WellFormed c = true → recordOf c = some (kind, tag, body) →
    isWholeRecord (recordBytes kind.code tag body) = true ∧
    exec c s = exec (.recordArrival (recordBytes kind.code tag body)) s

/-- The block operations of a sealing, all together: the payload is exclusive-ored with the keystream of
the counter blocks, and the tag chain runs over the ciphertext. In the frame's units and in the control
buffer alike; no byte outside the frame's units changes. -/
def Obligations.SealingEnciphersTheFrame : Prop :=
  (∀ (r : Sealing) (s : State) (d : DescNo) (x : Descriptor),
    MemoryLaw s → r.desc = some d → s.desc d = some x → x.chain.Nodup → r.length ≤ 64 * x.chain.length →
    let plain := chainBytes s.store.mem x.chain 0 r.length
    let t := sealFor r (cost r.length) s
    let sealed := xorBytes plain
      (keystream r.link false r.epoch r.seq r.kind (s.slot r.slot).cipherKey r.length)
    chainBytes t.1.store.mem x.chain 0 r.length = sealed ∧
    t.2 = tagChainOf r.link false r.epoch r.seq r.kind (s.slot r.slot).integrityKey sealed ∧
    (∀ a, (∀ u ∈ x.chain, a / 64 ≠ u.val) →
      Memory.read t.1.store.mem a = Memory.read s.store.mem a)) ∧
  (∀ (r : Sealing) (s : State), r.desc = none → r.length ≤ s.sealer.control.length →
    let plain := s.sealer.control.take r.length
    let t := sealFor r (cost r.length) s
    let sealed := xorBytes plain
      (keystream r.link false r.epoch r.seq r.kind (s.slot r.slot).cipherKey r.length)
    t.1.sealer.control.take r.length = sealed ∧
    t.2 = tagChainOf r.link false r.epoch r.seq r.kind (s.slot r.slot).integrityKey sealed ∧
    t.1.store.mem = s.store.mem)

/-- The block operations of an opening, all together: the tag chain runs over the bytes as received, the
payload is deciphered in place, and the received tag is left; a payload sealed under the same keys is
recovered. -/
def Obligations.OpeningDeciphersTheFrame : Prop :=
  ∀ (r : Opening) (s : State) (x : Descriptor),
    MemoryLaw s → s.desc r.desc = some x → x.chain.Nodup → r.length + 8 ≤ 64 * x.chain.length →
    let received := chainBytes s.store.mem x.chain 0 r.length
    let stream := keystream r.link true r.epoch r.seq r.kind (s.slot r.slot).cipherKey r.length
    let t := openFor r (cost r.length) s
    t.2 = tagChainOf r.link true r.epoch r.seq r.kind (s.slot r.slot).integrityKey received ∧
    chainBytes t.1.store.mem x.chain 0 r.length = xorBytes received stream ∧
    chainBytes t.1.store.mem x.chain r.length 8 = chainBytes s.store.mem x.chain r.length 8 ∧
    (∀ plain : List Byte, plain.length = r.length → received = xorBytes plain stream →
      chainBytes t.1.store.mem x.chain 0 r.length = plain)

/-- No command's reply depends on a root key: its code and its fields are the same in two states that
differ only in root keys. -/
def Obligations.RootKeyCannotBeRead : Prop :=
  ∀ (s t : State) (body : List Byte), SameButRootKeys s t →
    (runCommand body s).2 = (runCommand body t).2

/-! ### The end of an event -/

/-- With no record waiting, the end of an event leaves root keys, the trunk, the unit bytes, policies,
the fault table but for its report-pending flags, the device counts of the second, the clock and the
receiver as they are, and every profile and hold flag. -/
def Obligations.FinishKeeps : Prop :=
  ∀ s : State, s.host.buffer = [] →
    (finish s).pending = s.pending ∧ (finish s).keys.roots = s.keys.roots ∧
    (finish s).trunk = s.trunk ∧ (finish s).store.mem = s.store.mem ∧
    (finish s).faults.policies = s.faults.policies ∧
    (finish s).faults.protectionSwitches = s.faults.protectionSwitches ∧
    (finish s).faults.hostOverruns = s.faults.hostOverruns ∧
    (finish s).faults.tableOverflows = s.faults.tableOverflows ∧
    ((finish s).faults.entries.map fun e => { e with reportPending := false }) =
      (s.faults.entries.map fun e => { e with reportPending := false }) ∧
    (finish s).host.buffer = [] ∧ (finish s).host.receiver = s.host.receiver ∧
    (finish s).host.clock = s.host.clock ∧ (finish s).host.resets = s.host.resets ∧
    (finish s).host.resetCause = s.host.resetCause ∧
    (finish s).host.resetPending = s.host.resetPending ∧
    (finish s).host.resetInput = s.host.resetInput ∧
    (∀ l, ((finish s).link l).profile = (s.link l).profile ∧
      ((finish s).link l).hold = (s.link l).hold)

/-- With no record waiting and the blocks at rest, the end of an event does nothing but show the attention
output, after the send start of one record where the line is free and something waits. -/
def Obligations.FinishAtRest : Prop :=
  ∀ s : State, s.host.buffer = [] → blocksAtRest s = true →
    (canSend s = false →
      finish s = { s with host := { s.host with attention := attentionOutput s } }) ∧
    (canSend s = true →
      finish s =
        { startSending s with
          host := { (startSending s).host with attention := attentionOutput (startSending s) } })

/-! ### Link commands (chapter 1) -/

/-- Commands refused for their link number or the link's state change nothing but the reply queue. -/
def Obligations.LinkCommandsRefused : Prop :=
  ∀ (s : State) (tag link clear count : Byte) (c : W16) (key payload : List Byte)
    (mp q : W16) (bc ic oc att gc th ta ra sh : Byte),
    takesAtOnce s = true → key.length ≤ 1036 → payload.length ≤ 1037 →
    (64 ≤ link.toNat →
      (∀ i ∈ [Instr.linkConfigure tag link mp bc ic oc att gc q th ta ra sh, .linkActivate tag link,
          .linkIsolate tag link, .linkResume tag link, .linkDeactivate tag link,
          .linkUnconfigure tag link, .linkStatus tag link clear, .rootLoad tag link key,
          .rootErase tag link, .renew tag link, .queueHold tag link, .queueRelease tag link count,
          .queueUnhold tag link, .queueDiscard tag link c],
        exec i s = .next (replied tag .badValue [] s)) ∧
      exec (.trafficOut tag link payload) s = .next (replied tag .badValue [0, 0] s)) ∧
    (∀ l : LinkId, linkOfByte link = some l →
      ((s.link l).live = true →
        ∀ i ∈ [Instr.linkConfigure tag link mp bc ic oc att gc q th ta ra sh, .rootLoad tag link key,
          .rootErase tag link], exec i s = .next (replied tag .wrongState [] s)) ∧
      ((s.link l).live = false →
        (∀ i ∈ [Instr.linkIsolate tag link, .linkResume tag link, .linkDeactivate tag link,
          .queueHold tag link, .queueRelease tag link count, .queueUnhold tag link,
          .queueDiscard tag link c], exec i s = .next (replied tag .wrongState [] s)) ∧
        exec (.trafficOut tag link payload) s =
          .next (replied tag .wrongState (beBytes 2 (s.queue l).length) s)) ∧
      ((s.link l).state ≠ .configured →
        exec (.linkActivate tag link) s = .next (replied tag .wrongState [] s) ∧
        exec (.linkUnconfigure tag link) s = .next (replied tag .wrongState [] s)) ∧
      ((s.link l).state ≠ .active →
        exec (.renew tag link) s = .next (replied tag .wrongState [] s)))

/-- LINK_CONFIGURE of an IDLE or CONFIGURED link sets the whole profile and makes it CONFIGURED; a field
out of its range is refused. LINK_UNCONFIGURE takes a CONFIGURED link back to IDLE and removes its
profile; statistics, the link-event pending flag and the root record are kept, and its TAG_FAILURES
condition is absent. -/
def Obligations.ProfileCommands : Prop :=
  ∀ (s : State) (tag link : Byte) (l : LinkId) (mp q : W16) (bc ic oc att gc th ta ra sh : Byte),
    takesAtOnce s = true → linkOfByte link = some l →
    ((s.link l).state = .idle ∨ (s.link l).state = .configured) →
    (∀ p : Profile, ProfileInRange p →
      p = ⟨mp.toNat, bc.toNat, ic.toNat, oc.toNat, att.toNat, gc.toNat, q.toNat, th.toNat, p.tagAction,
        p.isolateOnFailure, p.startHeld⟩ →
      ta = p.tagAction.code → ra = flagByte p.isolateOnFailure → sh = flagByte p.startHeld →
      exec (.linkConfigure tag link mp bc ic oc att gc q th ta ra sh) s =
        .next (replied tag .ok []
          { s with
            links := tput s.links l
              ({ s.link l with state := .configured, profile := some p }) })) ∧
    ((mp.toNat < 16 ∨ 1024 < mp.toNat ∨ 6 < bc.toNat ∨ 5 < ic.toNat ∨ 3 < oc.toNat ∨
        att.toNat < 1 ∨ 7 < att.toNat ∨ 3 < gc.toNat ∨ q.toNat < 16 ∨ 1280 < q.toNat ∨
        th.toNat < 1 ∨ 2 < ta.toNat ∨ 1 < ra.toNat ∨ 1 < sh.toNat) →
      exec (.linkConfigure tag link mp bc ic oc att gc q th ta ra sh) s =
        .next (replied tag .badValue [] s)) ∧
    ((s.link l).state = .configured →
      ∃ t : State,
        t = { s with links := tput s.links l { s.link l with state := .idle, profile := none } } ∧
        exec (.linkUnconfigure tag link) s = .next (replied tag .ok [] t) ∧
        (tagCondition t l).present = false)

/-- LINK_ACTIVATE of a CONFIGURED link: the failing flags are reported; with none, KEY_STORE_FULL where
no key slot is FREE; otherwise the lowest-numbered FREE slot becomes its current slot at epoch 0. -/
def Obligations.LinkActivateTakesASlot : Prop :=
  ∀ (s : State) (tag link : Byte) (l : LinkId) (p : Profile), takesAtOnce s = true →
    linkOfByte link = some l → (s.link l).state = .configured → (s.link l).profile = some p →
    ((hasSlot s l = false ∨ (s.root l).state ≠ .fresh) →
      exec (.linkActivate tag link) s =
        .next (replied tag .profileCheck
          [(if hasSlot s l then 0 else 1) + (if (s.root l).state = .empty then 2 else 0) +
            (if (s.root l).state = .used then 4 else 0)] s)) ∧
    (hasSlot s l = true → (s.root l).state = .fresh → (∀ k, (s.slot k).state ≠ .free) →
      exec (.linkActivate tag link) s = .next (replied tag .keyStoreFull [] s)) ∧
    (hasSlot s l = true → (s.root l).state = .fresh → ∀ k : SlotNo, (s.slot k).state = .free →
      (∀ j : SlotNo, j < k → (s.slot j).state ≠ .free) →
      exec (.linkActivate tag link) s =
        .next (replied tag .ok []
          { s with
            links := tput s.links l
              ({ s.link l with
                state := .active, current := some k, allowance := 0, budgetHeld := false,
                hold := p.startHeld
                renewal := { (s.link l).renewal with
                  state := .quiet, attempts := 0, pendingTrigger := false,
                  interval := match intervalSeconds p.intervalCode with
                    | some n => .running 0 n
                    | none => .stopped } })
            keys := { s.keys with
              roots := tput s.keys.roots l ⟨.used, (s.root l).key⟩
              slots := tput s.keys.slots k
                ({ state := .derivingKeys, owner := l, epoch := 0, next := .number 1 })
              requests := s.keys.requests ++ [⟨k, l, 0, 0, 0⟩] }
            trunk := { s.trunk with
              receivers := tput s.trunk.receivers l .hunt
              transmitters := tput s.trunk.transmitters l .idle } }))

/-- LINK_ISOLATE of an ACTIVE link makes it ISOLATED and aborts its renewal: its next and previous slots are
released, each erased where nothing is in flight on it and else DRAINING, their waiting derivation requests
withdrawn; a slot that becomes FREE goes to the link at the head of the key wait list, and stays FREE where
none waits. Its current slot, hold controls, queue and interval timer stay, every slot but those and the FREE
ones is unchanged, and so is every other link that was not waiting for a key slot. An ISOLATED link is left as
it is. -/
def Obligations.LinkIsolateKeepsKeysAndQueue : Prop :=
  (∀ (s : State) (tag link : Byte) (l : LinkId), takesAtOnce s = true → linkOfByte link = some l →
    ((s.link l).state = .active →
      ∃ t : State, t = isolated l s ∧
        exec (.linkIsolate tag link) s = .next (replied tag .ok [] t) ∧
        t.link l = { s.link l with
          state := .isolated, previous := none, next := none, lane := none
          renewal := { (s.link l).renewal with
            state := .quiet, offer := .stopped, grace := .stopped, backoff := .stopped,
            pendingTrigger := false } } ∧
        l ∉ t.keys.waitList ∧
        (∀ k, (s.link l).next = some k ∨ (s.link l).previous = some k →
          ((s.slot k).inFlight ≠ 0 → t.slot k = { s.slot k with state := .draining }) ∧
          ((s.slot k).inFlight = 0 →
            (t.slot k).cipherKey = 0 ∧ (t.slot k).integrityKey = 0 ∧
            ((∀ j ∈ s.keys.waitList, j = l) → t.slot k = {}))) ∧
        (∀ k, (s.link l).next ≠ some k → (s.link l).previous ≠ some k → (s.slot k).state ≠ .free →
          t.slot k = s.slot k) ∧
        t.keys.requests = s.keys.requests.filter (fun r =>
          decide ((s.link l).next ≠ some r.slot ∧ (s.link l).previous ≠ some r.slot)) ∧
        (∀ j, j ≠ l → j ∉ s.keys.waitList → t.link j = s.link j) ∧
        t.keys.roots = s.keys.roots ∧ t.keys.derivation = s.keys.derivation ∧
        t.store = s.store ∧ t.trunk = s.trunk ∧ t.faults = s.faults ∧ t.host = s.host ∧
        t.engine = s.engine ∧ t.sealer = s.sealer ∧ t.opener = s.opener) ∧
    ((s.link l).state = .isolated →
      exec (.linkIsolate tag link) s = .next (replied tag .ok [] s))) ∧
  (∀ s : State,
    (s.keys.waitList = [] → handOver s = s) ∧ ((∀ k, (s.slot k).state ≠ .free) → handOver s = s) ∧
    (∀ (j : LinkId) (rest : List LinkId) (k : SlotNo), s.keys.waitList = j :: rest →
      (s.slot k).state = .free → (∀ i : SlotNo, i < k → (s.slot i).state ≠ .free) →
      handOver s =
        handOver (startRenewal j k { s with keys := { s.keys with waitList := rest } })))

/-- LINK_RESUME makes an ISOLATED link ACTIVE and starts a renewal where a standing condition holds and a
key slot is FREE; an ACTIVE link is left as it is. -/
def Obligations.LinkResumeReevaluates : Prop :=
  ∀ (s : State) (tag link : Byte) (l : LinkId), takesAtOnce s = true → linkOfByte link = some l →
    ((s.link l).state = .active → exec (.linkResume tag link) s = .next (replied tag .ok [] s)) ∧
    ((s.link l).state = .isolated →
      let t : State := { s with links := tput s.links l { s.link l with state := .active } }
      (standing s l = false → exec (.linkResume tag link) s = .next (replied tag .ok [] t)) ∧
      (∀ k c : SlotNo, standing s l = true → (s.link l).renewal.state = .quiet →
        (s.link l).renewal.pendingTrigger = false → (s.link l).current = some c →
        (s.slot c).epoch ≠ 65535 → (s.slot k).state = .free →
        (∀ j : SlotNo, j < k → (s.slot j).state ≠ .free) →
        exec (.linkResume tag link) s = .next (replied tag .ok [] (startRenewal l k t))))

/-- LINK_DEACTIVATE tears an ACTIVE or ISOLATED link down to CONFIGURED, keeping its profile and
statistics (one frame more is counted abandoned where one was in transmission). Its queued frames, its
frames on the open list, in transmission and in reception are freed; it waits for no key slot and asks for
no sealing. Other frames, and links that were not waiting for a key slot, are unchanged. -/
def Obligations.LinkDeactivateTearsDown : Prop :=
  ∀ (s : State) (tag link : Byte) (l : LinkId), takesAtOnce s = true → linkOfByte link = some l →
    (s.link l).live = true →
    ∃ t : State, exec (.linkDeactivate tag link) s = .next (replied tag .ok [] t) ∧
      t = teardown l s ∧
      t.link l = { s.link l with
        state := .configured, previous := none, current := none, next := none, renewal := {},
        hold := false, allowance := 0, budgetHeld := false, lane := none
        stats :=
          if s.transmitter l = .idle then (s.link l).stats
          else tput (s.link l).stats Counter.abandoned.index
            (satInc (tget (s.link l).stats Counter.abandoned.index)) } ∧
      (∀ j, j ≠ l → j ∉ s.keys.waitList → t.link j = s.link j) ∧
      (∀ j, j ≠ l → t.queue j = s.queue j) ∧ t.queue l = [] ∧
      t.receiver l = .hunt ∧ t.transmitter l = .idle ∧
      (∀ j, j ≠ l → t.receiver j = s.receiver j ∧ t.transmitter j = s.transmitter j) ∧
      l ∉ t.keys.waitList ∧ l ∉ t.sealer.requests ∧
      (∀ d ∈ s.queue l, t.desc d = none) ∧
      (∀ d, (∀ n, s.transmitter l ≠ .frame d n) → (∀ n, s.receiver l ≠ .body d n) →
        (d ∈ s.opener.waiting → frameOf s l d = true → t.desc d = none ∧ d ∉ t.opener.waiting) ∧
        (d ∉ s.queue l → frameOf s l d = false → t.desc d = s.desc d)) ∧
      (∀ d n, s.transmitter l = .frame d n → t.desc d = none) ∧
      (∀ d n, s.receiver l = .body d n → t.desc d = none) ∧
      t.keys.roots = s.keys.roots ∧ t.trunk.live = s.trunk.live ∧ t.trunk.shadow = s.trunk.shadow ∧
      t.store.mem = s.store.mem ∧ t.store.delivery = s.store.delivery ∧ t.faults = s.faults ∧
      t.host = s.host ∧ t.engine = s.engine

/-- A teardown leaves no epoch key of the link in a slot with no operation in flight; a slot with one
keeps its keys and drains. -/
def Obligations.TeardownErasesKeys : Prop :=
  ∀ (s : State) (l : LinkId) (k : SlotNo),
    ((s.link l).previous = some k ∨ (s.link l).current = some k ∨ (s.link l).next = some k) →
    ((s.slot k).inFlight = 0 →
      ((teardown l s).slot k).cipherKey = 0 ∧ ((teardown l s).slot k).integrityKey = 0) ∧
    ((s.slot k).inFlight ≠ 0 → (teardown l s).slot k = { s.slot k with state := .draining })

/-! ### Reading commands -/

/-- The reading commands are answered OK from the state as it stands and change nothing else; the fixed
replies have the widths of their layouts, and IDENTIFY reports the capability record. -/
def Obligations.ReadingCommandsChangeNothing : Prop :=
  (∀ (s : State) (tag link : Byte) (l : LinkId), takesAtOnce s = true → linkOfByte link = some l →
    exec (.linkStatus tag link 0) s = .next (replied tag .ok (statusBytes s l) s) ∧
    (statusBytes s l).length = 113) ∧
  (∀ (s : State) (tag : Byte), takesAtOnce s = true →
    exec (.storeStatus tag) s = .next (replied tag .ok (storeStatus s).2.fields s) ∧
    exec (.trunkStatus tag 0) s = .next (replied tag .ok (trunkBytes s) s) ∧
    (trunkBytes s).length = 15 ∧
    exec (.faultList tag 0) s = .next (replied tag .ok (listBytes s s.faults.entries) s) ∧
    exec (.faultList tag 1) s =
      .next (replied tag .ok (listBytes s (s.faults.entries.filter fun e => e.state ≠ .clear)) s) ∧
    exec (.identify tag) s = .next (replied tag .ok
      ([64, 96, 160, 8, 0, 64, 2, 0, 5, 0, 1, 128, 3, 0, 0, 128, 96, 4, 0, 1, s.host.resetCause.code] ++
        beBytes 4 s.host.resets.toNat) s)) ∧
  (∀ (s : State) (tag : Byte) (source : FaultSource) (kind : FaultKind), takesAtOnce s = true →
    (pairExists source kind = true →
      exec (.faultRead tag source.code kind.code) s = .next (replied tag .ok
        (entryBytes s source kind ++ beBytes 2 (eventCountOf s source kind).toNat) s) ∧
      (entryBytes s source kind ++ beBytes 2 (eventCountOf s source kind).toNat).length = 24) ∧
    (pairExists source kind = false →
      exec (.faultRead tag source.code kind.code) s = .next (replied tag .badValue [] s)))

/-- LINK_STATUS and TRUNK_STATUS with the clearing option reply with the counts from before the clear and
clear them, and nothing else; any other option is refused. -/
def Obligations.ClearingReadsClear : Prop :=
  ∀ (s : State) (tag link clear : Byte) (l : LinkId), takesAtOnce s = true →
    linkOfByte link = some l →
    exec (.linkStatus tag link 1) s = .next (replied tag .ok (statusBytes s l)
      { s with links := tput s.links l { s.link l with stats := Vector.replicate 14 0 } }) ∧
    exec (.trunkStatus tag 1) s = .next (replied tag .ok (trunkBytes s)
      { s with trunk := { s.trunk with switchCount := 0 } }) ∧
    (1 < clear.toNat →
      exec (.linkStatus tag link clear) s = .next (replied tag .badValue [] s) ∧
      exec (.trunkStatus tag clear) s = .next (replied tag .badValue [] s))

/-! ### Root keys and renewal -/

/-- ROOT_LOAD and ROOT_ERASE: a link number above 63 is refused with BAD_VALUE and an ACTIVE or ISOLATED link
with WRONG_STATE. In IDLE and CONFIGURED, from any record state, the key of 32 bytes is placed and the
record FRESH, or the record is EMPTY and its key zero; a key of another length is refused. An EMPTY record
stays as it is when erased and fails the activation check with NO_ROOT. -/
def Obligations.RootRecordCommands : Prop :=
  ∀ (s : State) (tag link : Byte) (key : List Byte), takesAtOnce s = true → key.length ≤ 1036 →
    (64 ≤ link.toNat →
      exec (.rootLoad tag link key) s = .next (replied tag .badValue [] s) ∧
      exec (.rootErase tag link) s = .next (replied tag .badValue [] s)) ∧
    ∀ l : LinkId, linkOfByte link = some l →
      ((s.link l).state = .active ∨ (s.link l).state = .isolated →
        exec (.rootLoad tag link key) s = .next (replied tag .wrongState [] s) ∧
        exec (.rootErase tag link) s = .next (replied tag .wrongState [] s)) ∧
      ((s.link l).state = .idle ∨ (s.link l).state = .configured →
        (key.length = 32 →
          exec (.rootLoad tag link key) s = .next (replied tag .ok []
            { s with keys := { s.keys with roots := tput s.keys.roots l ⟨.fresh, keyOf key⟩ } })) ∧
        (key.length ≠ 32 → exec (.rootLoad tag link key) s = .next (replied tag .badValue [] s)) ∧
        ∃ t : State, t = { s with keys := { s.keys with roots := tput s.keys.roots l ⟨.empty, 0⟩ } } ∧
          exec (.rootErase tag link) s = .next (replied tag .ok [] t) ∧
          ((s.root l) = ⟨.empty, 0⟩ → t = s) ∧ (activationFlags t l).getLsbD 1 = true)

/-- RENEW of an ACTIVE, QUIET link without a pending trigger: the renewal starts on the lowest FREE slot,
or waits at the end of the key wait list; at epoch 65535 it is refused, and so is a RENEW that finds a
renewal under way or pending. A trigger from any other source starts, waits in the same way, or is absorbed. -/
def Obligations.RenewActsAsATrigger : Prop :=
  (∀ (s : State) (l : LinkId), TriggerActs l s (trigger l s)) ∧
  ∀ (s : State) (tag link : Byte) (l : LinkId), takesAtOnce s = true → linkOfByte link = some l →
    (s.link l).state = .active →
    (((s.link l).renewal.state ≠ .quiet ∨ (s.link l).renewal.pendingTrigger = true) →
      exec (.renew tag link) s = .next (replied tag .renewing [] s)) ∧
    (∀ c : SlotNo, (s.link l).renewal.state = .quiet → (s.link l).renewal.pendingTrigger = false →
      (s.link l).current = some c →
      ((s.slot c).epoch = 65535 → exec (.renew tag link) s = .next (replied tag .wrongState [] s)) ∧
      ((s.slot c).epoch ≠ 65535 →
        (∀ k : SlotNo, (s.slot k).state = .free → (∀ j : SlotNo, j < k → (s.slot j).state ≠ .free) →
          exec (.renew tag link) s = .next (replied tag .ok [] (startRenewal l k s))) ∧
        ((∀ k, (s.slot k).state ≠ .free) →
          exec (.renew tag link) s = .next (replied tag .ok []
            { s with
              links := tput s.links l
                ({ s.link l with renewal := { (s.link l).renewal with pendingTrigger := true } })
              keys := { s.keys with waitList := s.keys.waitList ++ [l] } }))))

/-- The start of a renewal: the slot becomes DERIVING for the link at the current epoch plus one, a head
nonce that is not zero is drawn, an OFFER with attempt 1 is in the lane and the state is OFFERING; no
other link, slot or block changes. -/
def Obligations.RenewalStartsWithAnOffer : Prop :=
  ∀ (s : State) (l : LinkId) (k c : SlotNo), (s.link l).current = some c →
    ∃ nh : Nonce, nh ≠ 0 ∧
      (startRenewal l k s).slot k =
        { state := .derivingKeys, owner := l, epoch := (s.slot c).epoch + 1, next := .number 1 } ∧
      (startRenewal l k s).link l = { s.link l with
        next := some k, lane := some (.offer ((s.slot c).epoch + 1) nh 1)
        renewal := { (s.link l).renewal with
          state := .offering, offeredEpoch := (s.slot c).epoch + 1, headNonce := nh, shopNonce := 0,
          attempts := 1, pendingTrigger := false } } ∧
      (∀ j, j ≠ l → (startRenewal l k s).link j = s.link j) ∧
      (∀ j, j ≠ k → (startRenewal l k s).slot j = s.slot j) ∧
      (startRenewal l k s).keys.roots = s.keys.roots ∧
      (startRenewal l k s).keys.waitList = s.keys.waitList ∧
      (startRenewal l k s).keys.requests = s.keys.requests ∧
      (startRenewal l k s).keys.derivation = s.keys.derivation ∧
      (startRenewal l k s).store = s.store ∧ (startRenewal l k s).trunk = s.trunk ∧
      (startRenewal l k s).faults = s.faults ∧ (startRenewal l k s).host = s.host ∧
      (startRenewal l k s).engine = s.engine ∧ (startRenewal l k s).sealer = s.sealer ∧
      (startRenewal l k s).opener = s.opener

/-! ### Outbound traffic (chapter 6) -/

/-- TRAFFIC_OUT on an ACTIVE or ISOLATED link with a profile: the checks in their order, and the
admission, which writes the payload into the frame's units and no other byte. -/
def Obligations.TrafficOutIsAdmitted : Prop :=
  ∀ (s : State) (tag link : Byte) (l : LinkId) (p : Profile) (payload : List Byte),
    takesAtOnce s = true → MemoryLaw s → linkOfByte link = some l → (s.link l).live = true →
    (s.link l).profile = some p → payload.length ≤ 1037 →
    let depth := beBytes 2 (s.queue l).length
    let n := (payload.length + 63) / 64
    ((payload.length = 0 ∨ p.maxPayload < payload.length) →
      exec (.trafficOut tag link payload) s = .next (replied tag .badValue depth s)) ∧
    (1 ≤ payload.length → payload.length ≤ p.maxPayload →
      (p.quota < queueUnits s l + n →
        exec (.trafficOut tag link payload) s = .next (replied tag .quota depth s)) ∧
      (queueUnits s l + n ≤ p.quota →
        (findRoom s false n = none →
          exec (.trafficOut tag link payload) s = .next (replied tag .storeFull depth s)) ∧
        ∀ (d : DescNo) (us : List UnitNo), findRoom s false n = some (d, us) →
          let mem := writeChain us 0 payload s.store.mem
          exec (.trafficOut tag link payload) s =
            .next (replied tag .accepted (beBytes 2 ((s.queue l).length + 1))
              { s with store := { s.store with
                  descs := tput s.store.descs d
                    (some ⟨l, false, .traffic, none, none, payload.length, us, some tag, none, none⟩)
                  queues := tput s.store.queues l (s.queue l ++ [d])
                  mem := mem } }) ∧
          chainBytes mem us 0 payload.length = payload ∧
          ∀ a, (∀ u ∈ us, a / 64 ≠ u.val) → Memory.read mem a = Memory.read s.store.mem a))

/-- Room in a share: the lowest-numbered free descriptor and the lowest-numbered free units, in ascending
order, all of the share and none of them held; and no room only where the share has no free descriptor
or too few free units. -/
def Obligations.RoomIsLowestNumbered : Prop :=
  ∀ (s : State) (inbound : Bool) (n : Nat),
    let inShare := fun u : UnitNo => decide (1280 ≤ u.val) = inbound
    let isFree := fun u : UnitNo => inShare u ∧ u ∉ heldUnits s inbound
    (∀ d us, findRoom s inbound n = some (d, us) →
      s.desc d = none ∧ decide (384 ≤ d.val) = inbound ∧
      (∀ e : DescNo, e < d → decide (384 ≤ e.val) = inbound → s.desc e ≠ none) ∧
      us.length = n ∧ us.Pairwise (· < ·) ∧ (∀ u ∈ us, isFree u) ∧
      (∀ u v : UnitNo, u ∈ us → v < u → isFree v → v ∈ us)) ∧
    (findRoom s inbound n = none →
      (∀ d : DescNo, decide (384 ≤ d.val) = inbound → s.desc d ≠ none) ∨
      ∀ us : List UnitNo, us.Nodup → (∀ u ∈ us, isFree u) → us.length < n)

/-- QUEUE_HOLD, QUEUE_RELEASE and QUEUE_UNHOLD of an ACTIVE or ISOLATED link set the hold flag and the
allowance and nothing else; the reply shows the queue as it stands after the sealing start that the
command may have made possible (the model's reading, log entry 17). -/
def Obligations.HoldControls : Prop :=
  ∀ (s : State) (tag link count : Byte) (l : LinkId), takesAtOnce s = true →
    linkOfByte link = some l → (s.link l).live = true →
    let held : State := { s with links := tput s.links l { s.link l with hold := true } }
    let released : State :=
      { s with links := tput s.links l { s.link l with allowance := count.toNat } }
    let unheld : State :=
      { s with links := tput s.links l { s.link l with hold := false, allowance := 0 } }
    exec (.queueHold tag link) s =
      .next (replied tag .ok (queueBytes (settleBlocks held) l) (settleBlocks held)) ∧
    (count ≠ 0 → exec (.queueRelease tag link count) s =
      .next (replied tag .ok (queueBytes (settleBlocks released) l) (settleBlocks released))) ∧
    exec (.queueRelease tag link 0) s = .next (replied tag .badValue [] s) ∧
    exec (.queueUnhold tag link) s =
      .next (replied tag .ok (queueBytes (settleBlocks unheld) l) (settleBlocks unheld))

/-- QUEUE_DISCARD removes the frames asked for from the head of the queue, or all of them, frees them and
reports their host tags head first; a count above 384 is refused. The reply shows the queue as it stands after
the starts that the command may have made possible (the model's reading, log entry 17). -/
def Obligations.QueueDiscardFreesTheHead : Prop :=
  ∀ (s : State) (tag link : Byte) (count : W16) (l : LinkId), takesAtOnce s = true →
    linkOfByte link = some l → (s.link l).live = true →
    (384 < count.toNat →
      exec (.queueDiscard tag link count) s = .next (replied tag .badValue [] s)) ∧
    (count.toNat ≤ 384 →
      let n := if count.toNat = 0 then (s.queue l).length else min count.toNat (s.queue l).length
      ∃ t : State,
        exec (.queueDiscard tag link count) s =
          .next (replied tag .ok
            (queueBytes (settleBlocks t) l ++ beBytes 2 n ++
              ((s.queue l).take n).map (hostTagOf s)) (settleBlocks t)) ∧
        t.queue l = (s.queue l).drop n ∧ (∀ j, j ≠ l → t.queue j = s.queue j) ∧
        (∀ d ∈ (s.queue l).take n, t.desc d = none) ∧
        (∀ d, d ∉ (s.queue l).take n → t.desc d = s.desc d) ∧
        t.store.mem = s.store.mem ∧ t.store.delivery = s.store.delivery ∧
        t.links = s.links ∧ t.keys = s.keys ∧ t.trunk = s.trunk ∧ t.host = s.host ∧
        t.sealer = s.sealer ∧ t.opener = s.opener ∧ t.engine = s.engine ∧ t.faults = s.faults)

/-! ### Trunk commands (chapter 7) -/

/-- PORT_MODE sets the mode; FIXED_A and FIXED_B select their port, AUTO switches where the selected port
is not ALIGNED and the other is. An unchanged selection changes nothing more; a change returns every
receiver to HUNT and is counted in the switch count and for the second. The offer timer of a link whose circuit
the change takes down pauses, that of one whose circuit it brings up resumes, and no link changes otherwise. -/
def Obligations.PortModeSelects : Prop :=
  ∀ (s : State) (tag mode : Byte), takesAtOnce s = true →
    (2 < mode.toNat → exec (.portMode tag mode) s = .next (replied tag .badValue [] s)) ∧
    (∀ m : ProtectionMode, mode = m.code →
      ∃ t : State,
        exec (.portMode tag mode) s = .next (replied tag .ok
          [mode, portCode t.trunk.selected, flagByte (trunkUp t)] t) ∧
        t.trunk.mode = m ∧
        t.trunk.selected =
          (match m with
            | .fixedA => .a
            | .fixedB => .b
            | .auto =>
              if (s.monitor s.trunk.selected).state ≠ .aligned ∧
                  (s.monitor (otherPort s.trunk.selected)).state = .aligned
              then otherPort s.trunk.selected else s.trunk.selected) ∧
        (∀ l, t.link l = { s.link l with
          renewal := { (s.link l).renewal with offer := offerFollowing s t l } }) ∧
        (t.trunk.selected = s.trunk.selected → t = { s with trunk := { s.trunk with mode := m } }) ∧
        (t.trunk.selected ≠ s.trunk.selected →
          (∀ l, t.receiver l = .hunt) ∧ t.trunk.switchCount = satInc s.trunk.switchCount ∧
          t.faults.protectionSwitches = satInc s.faults.protectionSwitches ∧
          t.trunk.live = s.trunk.live ∧ t.trunk.shadow = s.trunk.shadow ∧
          (∀ p, t.monitor p = s.monitor p) ∧ t.trunk.transmitters = s.trunk.transmitters ∧
          t.keys = s.keys ∧ t.host = s.host ∧ t.store.mem = s.store.mem))

/-- MAP_SET sets entries of the shadow map and changes nothing else; values outside their ranges are
refused. -/
def Obligations.MapSetEditsTheShadow : Prop :=
  ∀ (s : State) (tag first count entry : Byte) (e : Option LinkId), takesAtOnce s = true →
    (e = linkOfByte entry ∧ (entry.toNat < 64 ∨ entry = 0xFF)) →
    (1 ≤ count.toNat → count.toNat ≤ 96 → first.toNat ≤ 95 → first.toNat + count.toNat ≤ 96 →
      ∃ shadow : Vector (Option LinkId) 96,
        exec (.mapSet tag first count entry) s =
          .next (replied tag .ok [] { s with trunk := { s.trunk with shadow := shadow } }) ∧
        ∀ i : TrunkSlot, tget shadow i =
          if first.toNat ≤ i.val ∧ i.val < first.toNat + count.toNat then e
          else tget s.trunk.shadow i) ∧
    ((95 < first.toNat ∨ count.toNat = 0 ∨ 96 < count.toNat ∨ 96 < first.toNat + count.toNat) →
      exec (.mapSet tag first count entry) s = .next (replied tag .badValue [] s)) ∧
    (∀ other : Byte, 64 ≤ other.toNat → other ≠ 0xFF →
      exec (.mapSet tag first count other) s = .next (replied tag .badValue [] s))

/-- MAP_READ returns the 96 entries of the live map or the shadow map, slot 0 first, and changes nothing;
any other selector is refused. That an entry NONE is sent as FFh is the model's reading (log entry 33). -/
def Obligations.MapReadShowsTheMaps : Prop :=
  ∀ (s : State) (tag selector : Byte), takesAtOnce s = true →
    (∃ live : List Byte, exec (.mapRead tag 0) s = .next (replied tag .ok live s) ∧
      live.length = 96 ∧
      ∀ i : TrunkSlot, live[i.val]? = some (match tget s.trunk.live i with
        | some l => BitVec.ofNat 8 l.val
        | none => 0xFF)) ∧
    (∃ shadow : List Byte, exec (.mapRead tag 1) s = .next (replied tag .ok shadow s) ∧
      shadow.length = 96 ∧
      ∀ i : TrunkSlot, shadow[i.val]? = some (match tget s.trunk.shadow i with
        | some l => BitVec.ofNat 8 l.val
        | none => 0xFF)) ∧
    (1 < selector.toNat → exec (.mapRead tag selector) s = .next (replied tag .badValue [] s))

/-- MAP_COMMIT makes the shadow map live and lists the links whose slot sets differ. Their receivers
return to HUNT and their transmitters become IDLE, a frame in transmission counted abandoned; every other
link keeps its receiver, transmitter and context. -/
def Obligations.MapCommitAffectsChangedLinks : Prop :=
  ∀ (s : State) (tag : Byte), takesAtOnce s = true →
    ∃ (ls : List LinkId) (t : State),
      exec (.mapCommit tag) s = .next (replied tag .ok
        (beBytes 1 ls.length ++ ls.flatMap fun l => beBytes 1 l.val) t) ∧
      ls.Pairwise (· < ·) ∧
      (∀ l, l ∈ ls ↔ slotSet s.trunk.live l ≠ slotSet s.trunk.shadow l) ∧
      t.trunk.live = s.trunk.shadow ∧ t.trunk.shadow = s.trunk.shadow ∧
      (∀ l ∈ ls, t.receiver l = .hunt ∧ t.transmitter l = .idle ∧
        tget (t.link l).stats Counter.abandoned.index =
          if s.transmitter l = .idle then tget (s.link l).stats Counter.abandoned.index
          else satInc (tget (s.link l).stats Counter.abandoned.index)) ∧
      (∀ l, l ∉ ls → t.receiver l = s.receiver l ∧ t.transmitter l = s.transmitter l ∧
        t.link l = s.link l) ∧
      (∀ l, (t.link l).renewal.offer =
        if circuitUp s l = true ∧ circuitUp t l = false then (s.link l).renewal.offer.pause
        else if circuitUp s l = false ∧ circuitUp t l = true then (s.link l).renewal.offer.resume
        else (s.link l).renewal.offer) ∧
      t.keys = s.keys ∧ t.host = s.host ∧ t.faults = s.faults ∧ t.store.mem = s.store.mem ∧
      t.store.queues = s.store.queues

/-! ### Fault and port commands (chapters 8 and 9) -/

/-- FAULT_POLICY sets the policy of a kind, or with a declare count of 0 reads it; FAULT_PURGE removes the
CLEAR entries that are not on the notice list and keeps the order of the others; SET_CLOCK sets the
clock. Nothing else changes. -/
def Obligations.FaultAndClockCommands : Prop :=
  ∀ (s : State) (tag declare clear : Byte) (kind : FaultKind) (report : Bool) (value : W32),
    takesAtOnce s = true →
    (declare ≠ 0 → declare.toNat ≤ 15 → 1 ≤ clear.toNat → clear.toNat ≤ 15 →
      exec (.faultPolicy tag kind.code declare clear (flagByte report)) s =
        .next (replied tag .ok [kind.code, declare, clear, flagByte report]
          { s with faults := { s.faults with
              policies := tput s.faults.policies kind.index
                ⟨declare.toNat, clear.toNat, report⟩ } })) ∧
    ((15 < declare.toNat ∨ (declare ≠ 0 ∧ (clear = 0 ∨ 15 < clear.toNat))) →
      exec (.faultPolicy tag kind.code declare clear (flagByte report)) s =
        .next (replied tag .badValue [] s)) ∧
    (∀ anything : Byte, exec (.faultPolicy tag kind.code 0 clear anything) s =
      .next (replied tag .ok (policyBytes kind (policyOf s kind)) s)) ∧
    (let kept := s.faults.entries.filter fun e => decide (e.state ≠ .clear) || e.reportPending
     exec (.faultPurge tag) s = .next (replied tag .ok
        (beBytes 1 (s.faults.entries.length - kept.length) ++ beBytes 1 kept.length)
        { s with faults := { s.faults with entries := kept } })) ∧
    exec (.setClock tag value) s = .next (replied tag .ok (beBytes 4 value.toNat)
      { s with host := { s.host with clock := value } })

/-- RESET is answered OK and is pending, and while it is pending no record is taken; when the last byte
of its reply has gone, the part is reset with cause COMMAND, the clock kept and the count raised. (That unit
contents, the queue of waiting events and the model's draws stay, and the level of the reset input with them,
is the model's choice: log entries 6, 7 and 23.) -/
def Obligations.ResetCommandResetsAfterItsReply : Prop :=
  (∀ (s : State) (tag : Byte), takesAtOnce s = true →
    ∃ t : State, t = { s with host := { s.host with
        resetPending := true, replies := s.host.replies ++ [⟨tag, .ok, [], true⟩] } } ∧
      exec (.reset tag) s = .next (finish t) ∧ canTake t = false) ∧
  (∀ (s : State) (bytes : List Byte) (frame : Option DescNo),
    s.host.line = some ⟨bytes, frame, true⟩ →
    exec .sendEnd s = .next (.afterReset s.pending s.store.mem
      (.reset .command s.host.clock (satInc s.host.resets) s.host.resetInput) s.draws))

/-! ### The host line (chapter 9) -/

/-- A whole record, and a record that fails its length or kind test, arriving with the receiver in HUNT
and nothing waiting for the line: taken at once where it can be, else put at the end of the buffer, or
lost with the overrun counted where the buffer holds 4. A byte that completes no record goes to the record
receiver alone. What waits beside a free line, as READY does after a reset, has its send start before the
byte's own effect, whether or not the byte completes a record (that the reset's own event leaves it waiting is log
entry 12). While the reset input is asserted bytes are ignored. -/
def Obligations.RecordsArrive : Prop :=
  (∀ (s : State) (bytes : List Byte), s.host.resetInput = true →
    exec (.recordArrival bytes) s = .next s ∧ exec (.malformedRecord bytes) s = .next s) ∧
  (∀ (s : State) (i : Instr) (x : InRecord), s.host.resetInput = false → s.host.receiver = .hunt →
    canSend s = false →
    ((∃ (kind : RecordKind) (tag : Byte) (body : List Byte), body.length ≤ 1038 ∧
        i = .recordArrival (recordBytes kind.code tag body) ∧ x = .record kind tag body) ∨
      (∃ bytes, isMalformedHead bytes = true ∧ i = .malformedRecord bytes ∧ x = .malformed)) →
    (s.host.buffer = [] → canTake s = true → exec i s = .next (finish (answerRecord x s))) ∧
    ((s.host.buffer ≠ [] ∨ canTake s = false) →
      (s.host.buffer.length < 4 →
        exec i s = .next (finish { s with host := { s.host with buffer := s.host.buffer ++ [x] } })) ∧
      (4 ≤ s.host.buffer.length →
        exec i s = .next (finish { s with
          host := { s.host with recordsLost := true }
          faults := { s.faults with hostOverruns := satInc s.faults.hostOverruns } })))) ∧
  (∀ (s : State) (b : Byte) (r : RecordReceiver), s.host.resetInput = false →
    receiveByte s.host.receiver b = (r, none) →
    (canSend s = false →
      exec (.recordArrival [b]) s = .next { s with host := { s.host with receiver := r } }) ∧
    (canSend s = true → s.host.buffer = [] → blocksAtRest s = true →
      let t := startSending s
      exec (.recordArrival [b]) s =
        .next { t with host := { t.host with receiver := r, attention := attentionOutput t } })) ∧
  (∀ (s : State) (bytes : List Byte), s.host.resetInput = false → bytes ≠ [] → canSend s = true →
    canSend (finish s) = false ∧
    exec (.recordArrival bytes) s = exec (.recordArrival bytes) (finish s) ∧
    exec (.malformedRecord bytes) s = exec (.malformedRecord bytes) (finish s))

/-- TAKE_RECORD takes the head of the inbound buffer where the reply queue has room and no RESET is
pending; a malformed entry is answered MALFORMED with tag 0, an unassigned code or empty body
UNKNOWN_COMMAND, and a body too short or too long for its command BAD_VALUE, changing nothing but the reply
queue. (That TAKE_RECORD with nothing to take changes nothing is the model's choice, log entry 9.) -/
def Obligations.RecordsAreTakenInOrder : Prop :=
  ∀ (s : State) (x : InRecord) (rest : List InRecord), s.host.buffer = x :: rest →
    let t : State := { s with host := { s.host with buffer := rest } }
    (canTake s = true → exec .takeRecord s = .next (finish (answerRecord x t))) ∧
    (canTake s = false → exec .takeRecord s = .next s) ∧
    answerRecord .malformed t = answer 0 (t, ⟨.malformed, [], false⟩) ∧
    (∀ (tag : Byte), answerRecord (.record .command tag []) t =
      answer tag (t, ⟨.unknownCommand, [], false⟩)) ∧
    (∀ (tag code : Byte) (fields : List Byte), code.toNat ∉ assignedCodes →
      answerRecord (.record .command tag (code :: fields)) t =
        answer tag (t, ⟨.unknownCommand, [], false⟩)) ∧
    (∀ (tag code : Byte) (fields : List Byte), code.toNat ∈ assignedCodes →
      (fields.length < fieldWidth code.toNat ∨
        (code ≠ 0x20 ∧ fieldWidth code.toNat < fields.length)) →
      answerRecord (.record .command tag (code :: fields)) t =
        answer tag (t, ⟨.badValue, [], false⟩)) ∧
    (∀ tag : Byte, answerRecord (.record .trafficOut tag []) t =
      answer tag (t, ⟨.badValue, [0, 0], false⟩))

/-- A send start: replies go first, each with the summary byte of the moment and the records-lost flag
cleared; else a notice or a frame of the delivery queue, the one not served last where both wait. -/
def Obligations.SendStartChooses : Prop :=
  ∀ s : State, s.host.line = none → s.host.resetInput = false →
    (∀ r rest, s.host.replies = r :: rest →
      exec .sendStart s = .next (finish { s with host := { s.host with
        replies := rest, recordsLost := false
        line := some ⟨recordBytes 0x81 r.tag (r.code.code :: summaryByte s :: r.fields), none,
          r.forReset⟩ } })) ∧
    (∀ n rest, s.host.replies = [] → s.host.notices = n :: rest →
      (s.store.delivery = [] ∨ s.host.servedLast = .delivery) →
      ∃ t : State, t = clearPending n s ∧
        exec .sendStart s = .next (finish { t with host := { t.host with
          notices := rest, servedLast := .notices
          line := some ⟨recordBytes 0x82 0 (noticeBody s n), none, false⟩ } })) ∧
    (∀ d rest x, s.host.replies = [] → s.store.delivery = d :: rest → s.desc d = some x →
      (s.host.notices = [] ∨ s.host.servedLast = .notices) →
      exec .sendStart s = .next (finish { s with
        store := { s.store with delivery := rest }
        host := { s.host with
          servedLast := .delivery
          line := some ⟨recordBytes 0x83 0 (beBytes 1 x.link.val ++ beBytes 2 (x.epoch.getD 0) ++
            beBytes 4 (x.seq.getD 0) ++ chainBytes s.store.mem x.chain 0 x.length), some d, false⟩ } }))

/-- The last byte of a record goes: the line is free, and the frame of a TRAFFIC_IN is freed. -/
def Obligations.SendEndFreesTheLine : Prop :=
  ∀ (s : State) (bytes : List Byte),
    (s.host.line = some ⟨bytes, none, false⟩ →
      exec .sendEnd s = .next (finish { s with host := { s.host with line := none } })) ∧
    (∀ d : DescNo, s.host.line = some ⟨bytes, some d, false⟩ →
      exec .sendEnd s = .next (finish { s with
        host := { s.host with line := none }
        store := { s.store with descs := tput s.store.descs d none } }))

/-- A power-on reset and the assertion of the reset input: every block as after a reset, whatever it held,
the clock and the count by their causes, no key of any kind left; the release goes on from the state that
the reset left. (That unit contents, the queue of waiting events and the model's draws stay, and that POWER_ON
keeps the level of the reset input, is the model's choice: log entries 6, 7 and 23.) -/
def Obligations.ResetsRestoreEveryBlock : Prop :=
  ∀ s : State,
    exec .powerOn s = .next (.afterReset s.pending s.store.mem
      (.reset .powerOn 0 0 s.host.resetInput) s.draws) ∧
    (s.host.resetInput = false →
      exec .resetLineAssert s = .next (.afterReset s.pending s.store.mem
        (.reset .resetLine s.host.clock (satInc s.host.resets) true) s.draws)) ∧
    (s.host.resetInput = true →
      exec .resetLineRelease s =
        .next (finish { s with host := { s.host with resetInput := false } })) ∧
    (∀ (cause : ResetCause) (input : Bool),
      let t := resetPart cause input s
      (∀ l, t.root l = ⟨.empty, 0⟩) ∧
      (∀ k, (t.slot k).cipherKey = 0 ∧ (t.slot k).integrityKey = 0) ∧
      t.keys.derivation = none ∧ (∀ b ∈ t.sealer.control, b = 0) ∧ (∀ l, t.transmitter l = .idle))

/-! ### The tick and the timers -/

/-- A tick: the clock rises by one, wrapping; while the reset input is asserted nothing else happens;
otherwise every running timer counts, and the tick takes the sampling and every expiry that has come due, one
after another, the part coming to rest after each. Each time the draw picks the next of those that are left
(log entry 4). The expiry of a timer that an earlier item has stopped or restarted does not come. A sampling takes
the conditions as they stand at its start, in their order, then TABLE_OVERFLOW, and sets every event count to
zero. -/
def Obligations.TickAdvancesClockAndSamples : Prop :=
  (∀ s : State, s.host.resetInput = true →
    exec .tick s = .next { s with host := { s.host with clock := s.host.clock + 1 } }) ∧
  (∀ s : State, s.host.resetInput = false →
    let t := countTimers { s with host := { s.host with clock := s.host.clock + 1 } }
    (∀ l, (t.link l).renewal = { (s.link l).renewal with
      interval := (s.link l).renewal.interval.advance, offer := (s.link l).renewal.offer.advance
      grace := (s.link l).renewal.grace.advance, backoff := (s.link l).renewal.backoff.advance }) ∧
    (dueExpiries t = [] → exec .tick s = .next (finish (sampling t))) ∧
    (dueExpiries t).Nodup ∧
    (∀ item, item ∈ dueExpiries t ↔ ∃ name l n limit, item = .expiry name l ∧
      (t.link l).renewal.timer name = .running n limit ∧ limit ≤ n) ∧
    ∃ (left : Nat → List TickItem) (f : Nat → State), left 0 = .sampling :: dueExpiries t ∧ f 0 = t ∧
      (∀ i, i ≤ (dueExpiries t).length →
        let several := decide (2 ≤ (left i).length)
        let pick := if several then Config.agendaPick (f i).draws.agenda % (left i).length else 0
        let drawn : State := { f i with draws := { (f i).draws with
          agenda := (f i).draws.agenda + (if several then 1 else 0) } }
        left (i + 1) = (left i).eraseIdx pick ∧
        (((left i)[pick]? = some .sampling ∧ f (i + 1) = settle (sampling drawn)) ∨
          ∃ name l, (left i)[pick]? = some (.expiry name l) ∧
            f (i + 1) = settle (if (((f i).link l).renewal.timer name).due then expire name l drawn
              else drawn))) ∧
      left ((dueExpiries t).length + 1) = [] ∧
      exec .tick s = .next (showAttention (f ((dueExpiries t).length + 1)))) ∧
  (∀ s : State, s.host.buffer = [] →
    ∃ t : State, exec .tick s = .next t ∧ t.host.clock = s.host.clock + 1) ∧
  (∀ s : State,
    let stepped := (conditions s).foldl (sampleCondition s.host.clock) s
    let overflow : Condition := ⟨.device, .tableOverflow,
      decide (1 ≤ stepped.faults.tableOverflows.toNat), stepped.faults.tableOverflows.toNat⟩
    let last := sampleCondition s.host.clock stepped overflow
    sampling s = { last with faults := { last.faults with
      protectionSwitches := 0, hostOverruns := 0, tableOverflows := 0
      linkEvents := Vector.replicate 64 ⟨0, 0, 0, 0⟩ } }) ∧
  (∀ s : State, (sampling s).faults.protectionSwitches = 0 ∧ (sampling s).faults.hostOverruns = 0 ∧
    (sampling s).faults.tableOverflows = 0 ∧ ∀ l, (sampling s).events l = ⟨0, 0, 0, 0⟩)

/-- The four timer expiries, each at its timer's last tick, and no effect of an expiry that is not due (the
model's choice, log entries 9 and 13). An OFFER is repeated in place of whatever the lane holds (log entry 26).
After the last attempt the renewal fails: its next slot is released and handed over, the lane is emptied (log
entry 31), and the link goes to BACKOFF or, with action ISOLATE, is isolated with a link event. A grace expiry
releases the previous slot, hands it over and re-evaluates the standing conditions. -/
def Obligations.TimersExpire : Prop :=
  ∀ (s : State) (l : LinkId) (n limit : Nat), limit ≤ n + 1 →
    ((s.link l).renewal.interval = .running n limit →
      exec (.intervalTimerExpiry l) s = .next (finish (trigger l
        { s with
          links := tput s.links l
            ({ s.link l with renewal := { (s.link l).renewal with interval := .expired } }) }))) ∧
    ((s.link l).renewal.offer = .running n limit → (s.link l).renewal.state = .offering →
      ∀ p, (s.link l).profile = some p →
        ((s.link l).renewal.attempts < p.attempts →
          exec (.offerTimerExpiry l) s = .next (finish
            { s with
              links := tput s.links l
                ({ s.link l with
                  lane := some (.offer (s.link l).renewal.offeredEpoch (s.link l).renewal.headNonce
                    ((s.link l).renewal.attempts + 1))
                  renewal := { (s.link l).renewal with
                    offer := .stopped, attempts := (s.link l).renewal.attempts + 1 } }) })) ∧
        (p.attempts ≤ (s.link l).renewal.attempts → p.isolateOnFailure = false →
          l ∉ s.keys.waitList →
          ∃ t : State, exec (.offerTimerExpiry l) s = .next (finish t) ∧
            t = failedToBackoff l s ∧
            t.link l = { s.link l with
              next := none, lane := none
              renewal := { (s.link l).renewal with
                state := .backoff, offer := .stopped, failureMark := true
                backoff := .running 0 60 } } ∧
            (∀ k, (s.link l).next = some k → (s.slot k).inFlight = 0 → s.keys.waitList = [] →
              t.slot k = {})) ∧
        (p.attempts ≤ (s.link l).renewal.attempts → p.isolateOnFailure = true →
          l ∉ s.keys.waitList → (s.link l).state = .active →
          ∃ t : State, exec (.offerTimerExpiry l) s = .next (finish t) ∧
            t = failedToIsolation l s ∧
            t.link l = { s.link l with
              state := .isolated, previous := none, next := none, lane := none, eventPending := true
              renewal := { (s.link l).renewal with
                state := .quiet, offer := .stopped, grace := .stopped, backoff := .stopped,
                pendingTrigger := false, failureMark := true } } ∧
            t.host.notices = s.host.notices ++
              (if (s.link l).eventPending then [] else [.link l]) ∧
            (∀ k, (s.link l).next = some k → (s.slot k).inFlight = 0 → s.keys.waitList = [] →
              t.slot k = {}))) ∧
    ((s.link l).renewal.grace = .running n limit → (s.link l).renewal.state = .cutting →
      ∃ t : State, exec (.graceTimerExpiry l) s = .next (finish t) ∧ t = retired l s ∧
        (∀ k, (s.link l).previous = some k →
          ((s.slot k).inFlight ≠ 0 → t.slot k = { s.slot k with state := .draining }) ∧
          ((s.slot k).inFlight = 0 → s.keys.waitList = [] → standing s l = false → t.slot k = {})) ∧
        (t.link l).previous = none ∧ (t.link l).current = (s.link l).current ∧
        (t.link l).renewal.grace = .stopped ∧
        ((t.link l).renewal.state = .quiet ∨ (t.link l).renewal.state = .offering)) ∧
    ((s.link l).renewal.backoff = .running n limit → (s.link l).renewal.state = .backoff →
      exec (.backoffTimerExpiry l) s = .next (finish (reevaluate l
        { s with
          links := tput s.links l
            ({ s.link l with renewal := { (s.link l).renewal with
                backoff := .stopped, state := .quiet } }) }))) ∧
    ((s.link l).renewal.interval.atLastTick = false → exec (.intervalTimerExpiry l) s = .next s) ∧
    ((s.link l).renewal.offer.atLastTick = false → exec (.offerTimerExpiry l) s = .next s) ∧
    ((s.link l).renewal.grace.atLastTick = false → exec (.graceTimerExpiry l) s = .next s) ∧
    ((s.link l).renewal.backoff.atLastTick = false → exec (.backoffTimerExpiry l) s = .next s)

/-! ### Sealing (chapter 3) -/

/-- A sealing start takes the head of the request list, its lane message before its head frame, and
admits it within its limits; a traffic frame beyond them is held, with a trigger. An OFFER beyond the control
reserve is refused, with nothing reserved or charged, and fails the renewal by its profile's action. A CUTOVER
shifts the key roles first and is sealed under the new current slot, whether or not links wait for a key slot.
The request list follows the conditions of R42 before every start and at the end of an event: links that fail them
leave, those that stay keep their order, and those that join go to the end in ascending order. -/
def Obligations.SealingStartAdmits : Prop :=
  (∀ s : State, ∃ list, ListFollows s list ∧
    refreshRequests s = { s with sealer := { s.sealer with requests := list } }) ∧
  (∀ s : State, ∃ (n : Nat) (f : Nat → State), n ≤ 1024 ∧ f 0 = s ∧
    (∀ i, i < n → ∃ start, nextStart (refreshRequests (f i)) = some start ∧
      f (i + 1) = takeStart start (drawStart (refreshRequests (f i)))) ∧
    settleBlocks s = refreshRequests (f n) ∧
    (n < 1024 → nextStart (refreshRequests (f n)) = none)) ∧
  (∀ s : State, s.host.buffer = [] → (s.sealer.current ≠ none ∨ ∀ l, ¬MaySeal s l) →
    (s.opener.current ≠ none ∨ s.opener.waiting = []) → (s.keys.derivation ≠ none ∨ s.keys.requests = []) →
    ListFollows s (finish s).sealer.requests) ∧
  ∀ (s : State) (l : LinkId) (rest : List LinkId), s.sealer.current = none →
    (refreshRequests s).sealer.requests = l :: rest →
    let taken : State := { s with sealer := { s.sealer with requests := rest } }
    (∀ k d ds x n, (s.link l).lane = none → (s.link l).current = some k → s.queue l = d :: ds →
      s.desc d = some x → (s.slot k).next = .number n →
      ((s.slot k).used + cost x.length ≤ hardLimit s l → n ≤ 0xFFFFFF00 →
        exec .sealingStart s = .next (finish (admitSealing l .traffic k n x.length (some d) []
          { taken with
            store := { s.store with queues := tput s.store.queues l ds }
            links := tput s.links l
              ({ s.link l with
                allowance := if (s.link l).hold then (s.link l).allowance - 1
                  else (s.link l).allowance }) }))) ∧
      ((hardLimit s l < (s.slot k).used + cost x.length ∨ 0xFFFFFF00 < n) →
        exec .sealingStart s = .next (finish (trigger l
          { taken with links := tput s.links l { s.link l with budgetHeld := true } })))) ∧
    (∀ k d ds x, (s.link l).lane = none → (s.link l).current = some k → s.queue l = d :: ds →
      s.desc d = some x → (s.slot k).next = .exhausted →
      exec .sealingStart s = .next (finish (trigger l
        { taken with links := tput s.links l { s.link l with budgetHeld := true } }))) ∧
    (∀ k e nh attempt, (s.link l).lane = some (.offer e nh attempt) → (s.link l).current = some k →
      ((s.slot k).next = .exhausted ∨ hardLimit s l + 1024 < (s.slot k).used + 3) →
      ∀ p, (s.link l).profile = some p →
      let refused : State := { taken with links := tput s.links l { s.link l with lane := none } }
      (p.isolateOnFailure = false →
        exec .sealingStart s = .next (finish (failedToBackoff l refused))) ∧
      (p.isolateOnFailure = true → (s.link l).state = .active →
        exec .sealingStart s = .next (finish (failedToIsolation l refused))) ∧
      ((s.link l).next ≠ some k → (s.slot k).state ≠ .free →
        (failedToBackoff l refused).slot k = s.slot k)) ∧
    (∀ k e nh attempt n, (s.link l).lane = some (.offer e nh attempt) → (s.link l).current = some k →
      (s.slot k).next = .number n → (s.slot k).used + 3 ≤ hardLimit s l + 1024 → n ≤ 0xFFFFFFFF →
      exec .sealingStart s = .next (finish (admitSealing l .offer k n 9 none
        (beBytes 2 e ++ beBytes 6 nh.toNat ++ beBytes 1 attempt)
        { taken with links := tput s.links l { s.link l with lane := none } }))) ∧
    (∀ e nh ns old new n, (s.link l).lane = some (.cutover e nh ns) → (s.link l).previous = none →
      (s.link l).current = some old → (s.link l).next = some new →
      (s.keys.waitList = [] ∨ ∀ k, (s.slot k).state ≠ .free) →
      (s.slot new).next = .number n → n ≤ 0xFFFFFFFF →
      (s.slot new).used + 3 ≤ hardLimit s l + 1024 →
      ∃ t : State, exec .sealingStart s = .next (finish (admitSealing l .cutover new n 14 none
          (beBytes 2 e ++ beBytes 6 nh.toNat ++ beBytes 6 ns.toNat) t)) ∧
        t.link l = { s.link l with
          previous := some old, current := some new, next := none, lane := none, budgetHeld := false
          eventPending := true
          renewal := { (s.link l).renewal with
            state := .cutting, failureMark := false, interval := startedInterval (s.link l) } } ∧
        t.keys = s.keys ∧ t.store = s.store ∧ t.trunk = s.trunk ∧ t.faults = s.faults ∧
        (∀ j, j ≠ l → t.link j = s.link j))

/-- What an admission leaves: the sequence reserved, the cost charged, the soft threshold marked where the
charge first reaches it, with a renewal trigger for the link, the operation in flight, and the sealing record with
one block operation for each block of the cost. A TRAFFIC frame's descriptor takes the epoch, the sequence and the
header; a control frame's payload and header are in the control buffer. An idle unit is granted. (The record's tag
chain value of 0 before T(0) is formed is the model's choice, log entry 32.) -/
def Obligations.AdmissionChargesTheSlot : Prop :=
  ∀ (s : State) (l : LinkId) (kind : FrameKind) (k : SlotNo) (seq p : Nat) (desc : Option DescNo)
    (payload : List Byte), (s.slot k).state ≠ .free →
    let t := admitSealing l kind k seq p desc payload s
    let soft := hardLimit s l - hardLimit s l / 4
    let used := (s.slot k).used + (2 * ((p + 15) / 16) + 1)
    let reaches := decide ((s.slot k).used < soft) && decide (soft ≤ used)
    let charged : KeySlot := { s.slot k with
      used := used, softCrossed := (s.slot k).softCrossed || reaches
      next := if seq = 0xFFFFFFFF then .exhausted else .number (seq + 1) }
    t.slot k = { charged with inFlight := (s.slot k).inFlight + 1 } ∧
    ChargeActs l k (reaches = true ∧ (s.slot k).softCrossed = false)
      { s with keys := { s.keys with slots := tput s.keys.slots k charged } } t ∧
    t.sealer.current =
      some ⟨l, kind, k, (s.slot k).epoch, seq, p, desc, 2 * ((p + 15) / 16) + 1, 0, false⟩ ∧
    (∀ d x, desc = some d → s.desc d = some x → t.desc d = some { x with
      epoch := some (s.slot k).epoch, seq := some seq
      header := some (headerBytes kind (s.slot k).epoch seq p) }) ∧
    (∀ d, desc ≠ some d → t.desc d = s.desc d) ∧
    (desc = none → t.sealer.control = payload ++ s.sealer.control.drop payload.length ∧
      t.sealer.controlHeader = headerBytes kind (s.slot k).epoch seq p) ∧
    (desc ≠ none → t.sealer.control = s.sealer.control ∧
      t.sealer.controlHeader = s.sealer.controlHeader) ∧
    t.sealer.requests = s.sealer.requests ∧ t.sealer.controlTag = s.sealer.controlTag ∧
    (s.engine.unit = none → ∃ q, t.engine = ⟨some q, q⟩) ∧ (s.engine.unit ≠ none → t.engine = s.engine) ∧
    t.store.queues = s.store.queues ∧ t.store.delivery = s.store.delivery ∧ t.opener = s.opener ∧
    t.store.mem = s.store.mem ∧ t.trunk = s.trunk ∧ t.host = s.host ∧ t.faults = s.faults

/-- A sealing completion lowers its slot's in-flight count, and the last operation on a DRAINING slot erases it
and hands it over. It passes the frame with its header and tag to the link's transmitter and counts it; without
a live trunk slot the frame is freed and counted abandoned; with the discard mark it is freed, not counted, and
a control frame not reported. A control frame passes as the transmitter's own copy, its tag is written beside
the control buffer whatever becomes of it, and the renewal controller, told of it unless the mark is set, starts
the offer timer in OFFERING for an OFFER and the grace timer in CUTTING for a CUTOVER. (That the unit is granted
after the event's starts is the model's reading, log entry 15.) -/
def Obligations.SealingCompletionHandsOver : Prop :=
  (∀ (s : State) (r : Sealing) (low : State → State), s.engine.unit = some .sealer →
    s.sealer.current = some r → r.left = 1 → r.desc = none → Lowers s r.slot low →
    let op := sealingOperation r (cost r.length - 1) s
    let tag := (blockBytes op.2).take 8
    let closed : State := { op.1 with sealer := { op.1.sealer with current := none, controlTag := tag } }
    let counted := (low closed).count r.link .framesSealed
    let passed := counted.setTransmitter
      r.link (.copy (0xA3 :: (s.sealer.controlHeader ++ op.1.sealer.control.take r.length ++ tag)) 0)
    let lost := counted.count r.link .abandoned
    let ended : State → Result := fun t => .next (finish (freeUnit (settleBlocks t)))
    let k := counted.link r.link
    (r.discard = true → exec .sealingCompletion s = ended (low closed)) ∧
    (r.discard = false → ∀ fate : State,
      (hasSlot s r.link = true ∧ fate = passed ∨ hasSlot s r.link = false ∧ fate = lost) →
      (r.kind = .offer → k.renewal.state = .offering →
        exec .sealingCompletion s = ended (fate.modRenewal r.link fun y =>
          { y with offer := startedOffer s r.link k })) ∧
      (r.kind = .offer → k.renewal.state ≠ .offering → exec .sealingCompletion s = ended fate) ∧
      (r.kind = .cutover → k.renewal.state = .cutting →
        exec .sealingCompletion s = ended (fate.modRenewal r.link fun y =>
          { y with grace := startedGrace k })) ∧
      (r.kind = .cutover → k.renewal.state ≠ .cutting → exec .sealingCompletion s = ended fate)) ∧
    ((s.slot r.slot).state ≠ .draining → k.renewal = (s.link r.link).renewal)) ∧
  ∀ (s : State) (r : Sealing) (d : DescNo) (x : Descriptor) (low : State → State),
    s.engine.unit = some .sealer → s.sealer.current = some r → r.left = 1 → r.kind = .traffic →
    r.desc = some d → s.desc d = some x → Lowers s r.slot low →
    let op := sealingOperation r (cost r.length - 1) s
    let lowered : State := low (op.1.setSealing none)
    let counted := lowered.count r.link .framesSealed
    (r.discard = true →
      exec .sealingCompletion s =
        .next (finish (freeUnit (settleBlocks (lowered.setDesc d none))))) ∧
    (r.discard = false → hasSlot s r.link = true →
      exec .sealingCompletion s = .next (finish (freeUnit (settleBlocks
        ((counted.setDesc d (some { x with tag := some ((blockBytes op.2).take 8) })).setTransmitter
          r.link (.frame d 0)))))) ∧
    (r.discard = false → hasSlot s r.link = false →
      exec .sealingCompletion s = .next (finish (freeUnit (settleBlocks
        ((counted.count r.link .abandoned).setDesc d none)))))

/-! ### The cipher engine (chapter 2) -/

/-- The end of a block operation that is not its sequence's last: the requester's result is stored and its
count lowered, and the unit is granted afresh. (That the grant follows the event's starts is the model's
reading, log entry 15; that BLOCK_OPERATION_END with an idle unit changes nothing is its choice, log entry 9.) -/
def Obligations.BlockOperationEndLowersTheCount : Prop :=
  ∀ s : State,
    (s.engine.unit = none → exec .blockOperationEnd s = .next s) ∧
    (∀ r, s.engine.unit = some .sealer → s.sealer.current = some r → 2 ≤ r.left →
      let op := sealingOperation r (cost r.length - r.left) s
      exec .blockOperationEnd s = .next (finish (freeUnit (settleBlocks
        (op.1.setSealing (some { r with left := r.left - 1, tagChain := op.2 })))))) ∧
    (∀ r, s.engine.unit = some .opener → s.opener.current = some r → 2 ≤ r.left →
      let op := openingOperation r (cost r.length - r.left) s
      exec .blockOperationEnd s = .next (finish (freeUnit (settleBlocks
        (op.1.setOpening (some { r with left := r.left - 1, tagChain := op.2 })))))) ∧
    (∀ d, s.engine.unit = some .deriver → s.keys.derivation = some d → 2 ≤ d.left →
      exec .blockOperationEnd s = .next (finish (freeUnit (settleBlocks (s.setDerivation
        (some { d with
          left := d.left - 1
          results := d.results ++
            [Config.blockFunction d.rootCopy (derivationBlock d.request (5 - d.left))] }))))))

/-- The arbiter grants an idle unit to a waiting requester, never to one that does not wait and never to
none while one waits; and each grant to another brings a waiting requester nearer in the cyclic order, so
that it is granted within two grants of others. -/
def Obligations.ArbiterIsRoundRobin : Prop :=
  let after : Requester → Requester := fun r => (orderAfter r).headD r
  let distance : Requester → Requester → Nat := fun last r =>
    if after last = r then 1 else if after (after last) = r then 2 else 3
  ∀ s : State, s.engine.unit = none →
    (∀ r, waiting s r = true →
      ∃ q, (grant s).engine = ⟨some q, q⟩ ∧ waiting s q = true ∧
        distance s.engine.lastServed q ≤ distance s.engine.lastServed r ∧
        (q ≠ r → distance q r < distance s.engine.lastServed r)) ∧
    ((∀ r, waiting s r = false) → grant s = s) ∧
    (grant s).keys = s.keys ∧ (grant s).sealer = s.sealer ∧ (grant s).opener = s.opener

/-- A derivation begins with a copy of the link's root key and four block operations, and its completion
on a slot that still fills its role makes the slot READY with Kc from D1, D2 and Ki from D3, D4; a slot
that has drained is erased, its keys dropped, and handed over to the link that waits first, if any. (That the
unit is granted after the event's starts is the model's reading, log entry 15.) -/
def Obligations.DerivationGivesTheKeys : Prop :=
  (∀ (s : State) (r : DerivationRequest) (rest : List DerivationRequest),
    s.keys.derivation = none → s.keys.requests = r :: rest →
    exec .derivationBegin s = .next (finish (grant
      { s with keys := { s.keys with
          requests := rest
          slots := tput s.keys.slots r.slot
            ({ s.slot r.slot with inFlight := (s.slot r.slot).inFlight + 1 })
          derivation := some ⟨r, (s.root r.link).key, 4, []⟩ } }))) ∧
  (∀ (s : State) (d : Derivation) (d1 d2 d3 : Block), s.engine.unit = some .deriver →
    s.keys.derivation = some d → d.left = 1 → d.results = [d1, d2, d3] →
    let d4 := Config.blockFunction d.rootCopy (derivationBlock d.request 4)
    let k := d.request.slot
    ((s.slot k).state = .derivingKeys →
      let ready : State := { s with keys := { s.keys with
        derivation := none
        slots := tput s.keys.slots k { s.slot k with
          state := .ready, cipherKey := d1 ++ d2, integrityKey := d3 ++ d4
          inFlight := (s.slot k).inFlight - 1 } } }
      ((s.link d.request.link).next ≠ some k →
        exec .derivationCompletion s = .next (finish (freeUnit (settleBlocks ready)))) ∧
      ((s.link d.request.link).next = some k →
        exec .derivationCompletion s = .next (finish (freeUnit (settleBlocks
          { ready with
            links := tput s.links d.request.link
              ({ s.link d.request.link with lane := some (.cutover
                  (s.link d.request.link).renewal.offeredEpoch
                  (s.link d.request.link).renewal.headNonce
                  (s.link d.request.link).renewal.shopNonce) }) }))))) ∧
    ((s.slot k).state = .draining → (s.slot k).inFlight = 1 →
      let erased : State := { s with keys := { s.keys with
        derivation := none, slots := tput s.keys.slots k {} } }
      exec .derivationCompletion s = .next (finish (freeUnit (settleBlocks (handOver erased)))) ∧
      (s.keys.waitList = [] →
        exec .derivationCompletion s = .next (finish (freeUnit (settleBlocks erased)))) ∧
      (∀ j rest, s.keys.waitList = j :: rest → (∀ i, i ≠ k → (s.slot i).state ≠ .free) →
        (s.link j).current.isSome = true →
        handOver erased =
          startRenewal j k { erased with keys := { erased.keys with waitList := rest } })))

/-! ### Opening (chapter 4) -/

/-- An opening start takes the head of the open list. A frame that passes the pre-checks becomes the frame
in opening, its slot charged, and the charge that first reaches the soft threshold marks it and raises a renewal
trigger; a rejected one is freed and counted for its reason, without a charge. (The record's
tag chain value of 0 before T(0) is formed is the model's choice, log entry 32.) -/
def Obligations.OpeningStartChecksAndCharges : Prop :=
  ∀ (s : State) (d : DescNo) (rest : List DescNo) (x : Descriptor) (epoch seq : Nat),
    s.opener.current = none → s.opener.waiting = d :: rest → s.desc d = some x →
    x.epoch = some epoch → x.seq = some seq →
    let taken : State := { s with opener := { s.opener with waiting := rest } }
    let reject : Counter → State := fun c => (taken.setDesc d none).count x.link c
    (∀ k : SlotNo,
      ((s.link x.link).current = some k ∧ (s.slot k).epoch = epoch ∧ (s.slot k).state = .ready) ∨
      ((s.link x.link).previous = some k ∧ (s.slot k).epoch = epoch ∧
        ∀ c, (s.link x.link).current = some c → (s.slot c).epoch ≠ epoch) →
      (seq = 0 → exec .openingStart s = .next (finish (reject .badSeq))) ∧
      (1 ≤ seq → seq + 64 ≤ (s.slot k).highest →
        exec .openingStart s = .next (finish (reject .stale))) ∧
      (1 ≤ seq → seq ≤ (s.slot k).highest → (s.slot k).highest < seq + 64 →
        seq ∈ (s.slot k).accepted → exec .openingStart s = .next (finish (reject .repeated))) ∧
      (1 ≤ seq → ((s.slot k).highest < seq ∨
          ((s.slot k).highest < seq + 64 ∧ seq ∉ (s.slot k).accepted)) →
        let limit := if x.kind = .traffic then hardLimit s x.link else hardLimit s x.link + 1024
        (limit < (s.slot k).used + (2 * ((x.length + 15) / 16) + 1) →
          exec .openingStart s = .next (finish (reject .budget))) ∧
        ((s.slot k).used + (2 * ((x.length + 15) / 16) + 1) ≤ limit → (s.slot k).state ≠ .free →
          ∃ t : State, exec .openingStart s = .next (finish (grant t)) ∧
            t.opener = ⟨rest, some ⟨x.link, x.kind, k, epoch, seq, x.length, d,
              2 * ((x.length + 15) / 16) + 1, 0, false⟩⟩ ∧
            (let soft := hardLimit s x.link - hardLimit s x.link / 4
             let used := (s.slot k).used + (2 * ((x.length + 15) / 16) + 1)
             let reaches := decide ((s.slot k).used < soft) && decide (soft ≤ used)
             let charged : KeySlot := { s.slot k with
               used := used, softCrossed := (s.slot k).softCrossed || reaches }
             t.slot k = { charged with inFlight := (s.slot k).inFlight + 1 } ∧
             ChargeActs x.link k (reaches = true ∧ (s.slot k).softCrossed = false)
               { s with keys := { s.keys with slots := tput s.keys.slots k charged } } t) ∧
            t.engine = s.engine ∧ t.sealer = s.sealer ∧ t.faults = s.faults ∧
            t.store = s.store ∧ t.trunk = s.trunk ∧ t.host = s.host))) ∧
    ((∀ k, (s.link x.link).current = some k ∨ (s.link x.link).previous = some k →
        (s.slot k).epoch ≠ epoch) →
      exec .openingStart s = .next (finish ((reject .unknownEpoch).modEvents x.link fun e =>
        { e with unknownEpoch := satInc e.unknownEpoch }))) ∧
    (∀ k, (s.link x.link).current = some k → (s.slot k).epoch = epoch → (s.slot k).state ≠ .ready →
      exec .openingStart s = .next (finish ((reject .noKey).modEvents x.link fun e =>
        { e with unknownEpoch := satInc e.unknownEpoch })))

/-- An opening completion. The in-flight count of its slot is lowered, and the last operation on a DRAINING slot
erases it and hands it over. With the discard mark nothing is counted; a frame whose tag does not match is freed
and counted and leaves the window alone; one whose tag matches enters the window, is reported, and is then dealt
with by its kind and its link's state. In CUTTING a good frame of any kind under the current epoch retires the
previous slot first, and one under the old epoch ends nothing. (The order within the event is log entry 18, and
the grant after its starts log entry 15: the model's readings.) -/
def Obligations.OpeningCompletionJudges : Prop :=
  ∀ (s : State) (r : Opening) (x : Descriptor) (low : State → State), s.engine.unit = some .opener →
    s.opener.current = some r → r.left = 1 → s.desc r.desc = some x → Lowers s r.slot low →
    let op := openingOperation r (cost r.length - 1) s
    let closed := op.1.setOpening none
    let ended : State → Result := fun t => .next (finish (freeUnit (settleBlocks t)))
    let entered := low (closed.modSlot r.slot (enterWindow r.seq))
    let good : Prop := (blockBytes op.2).take 8 = chainBytes op.1.store.mem x.chain r.length 8
    (r.discard = true → exec .openingCompletion s = ended (low (closed.setDesc r.desc none))) ∧
    (r.discard = false → ¬good →
      exec .openingCompletion s = ended (low
        (((closed.setDesc r.desc none).count r.link .badTag).modEvents r.link fun e =>
          { e with tagFailures := satInc e.tagFailures }))) ∧
    (r.discard = false → good → ∀ told : State,
      ((((entered.link r.link).renewal.state ≠ .cutting ∨
          ∀ c, (entered.link r.link).current = some c → (entered.slot c).epoch ≠ r.epoch) ∧
          told = entered) ∨
        ((entered.link r.link).renewal.state = .cutting ∧
          (∃ c, (entered.link r.link).current = some c ∧ (entered.slot c).epoch = r.epoch) ∧
          told = retired r.link entered)) →
      let k := told.link r.link
      (r.kind = .traffic → k.state = .active →
        exec .openingCompletion s =
          ended ((told.setDelivery (s.store.delivery ++ [r.desc])).count r.link .delivered)) ∧
      (r.kind = .traffic → k.state ≠ .active →
        exec .openingCompletion s =
          ended ((told.setDesc r.desc none).count r.link .isolatedDiscard)) ∧
      ((r.kind = .offer ∨ r.kind = .cutover) →
        exec .openingCompletion s = ended ((told.setDesc r.desc none).count r.link .protocol)) ∧
      (r.kind = .ask →
        exec .openingCompletion s = ended ((trigger r.link told).setDesc r.desc none)) ∧
      (r.kind = .accept →
        let bytes := chainBytes op.1.store.mem x.chain 0 r.length
        let epoch := beNat (bytes.take 2)
        let echo := nonceOf ((bytes.drop 2).take 6)
        let ns := nonceOf ((bytes.drop 8).take 6)
        (∀ n, k.next = some n → k.state = .active → k.renewal.state = .offering →
          k.renewal.offeredEpoch = epoch → k.renewal.headNonce = echo →
          exec .openingCompletion s = ended
            (((told.modLink r.link fun y => { y with
                lane := withoutOffer y.lane
                renewal := { y.renewal with
                  state := .derivingNext, shopNonce := ns, offer := .stopped } }).setRequests
              (told.keys.requests ++ [⟨n, r.link, epoch, echo, ns⟩])).setDesc r.desc none)) ∧
        ((k.state ≠ .active ∨ k.renewal.state ≠ .offering ∨ k.renewal.offeredEpoch ≠ epoch ∨
            k.renewal.headNonce ≠ echo) →
          exec .openingCompletion s =
            ended ((told.count r.link .protocol).setDesc r.desc none)))) ∧
    ((s.slot r.slot).state ≠ .draining → entered.links = s.links ∧
      (entered.slot r.slot).epoch = (s.slot r.slot).epoch) ∧
    ((entered.link r.link).renewal.state = .cutting →
      ((retired r.link entered).link r.link).previous = none)

/-- A sequence entered into a window is never acceptable again, and neither is any that was not acceptable
before; the highest accepted never falls. -/
def Obligations.WindowNeverReopens : Prop :=
  ∀ (x : KeySlot) (m n : Nat), WindowOk x → windowVerdict x m = none →
    windowVerdict (enterWindow m x) m = some .repeated ∧
    (windowVerdict x n ≠ none → windowVerdict (enterWindow m x) n ≠ none) ∧
    x.highest ≤ (enterWindow m x).highest

/-! ### The trunk interface (chapter 7) -/

/-- The alignment monitors: what each marker verdict and each signal absence does to the monitor of its
port, whether the port is selected or not, and to no other; each count stays 0 in the states that do not
use it; both are LOST with both counts 0 after every kind of reset, and a port that is not ALIGNED has the
PORT_LOSS condition, each port its own. -/
def Obligations.MonitorsFollowTheirPorts : Prop :=
  (∀ (s : State) (port : Port) (good : Bool) (bytes : Vector Byte 96), s.host.resetInput = false →
    ∃ t : State, exec (.receiveCycle port good bytes) s = .next t ∧
      t.monitor (otherPort port) = s.monitor (otherPort port) ∧
      t.monitor port =
        (match (s.monitor port).state, good with
          | .lost, true => ⟨.seeking, 1, 0⟩
          | .lost, false => s.monitor port
          | .seeking, true =>
            if 3 ≤ (s.monitor port).good + 1 then ⟨.aligned, 0, 0⟩
            else { s.monitor port with good := (s.monitor port).good + 1 }
          | .seeking, false => ⟨.lost, 0, 0⟩
          | .aligned, true => { s.monitor port with bad := 0 }
          | .aligned, false =>
            if 4 ≤ (s.monitor port).bad + 1 then ⟨.lost, 0, 0⟩
            else { s.monitor port with bad := (s.monitor port).bad + 1 })) ∧
  (∀ (s : State) (port : Port),
    ∃ t : State, exec (.signalAbsence port) s = .next t ∧
      t.monitor (otherPort port) = s.monitor (otherPort port) ∧ t.monitor port = ⟨.lost, 0, 0⟩) ∧
  (∀ (s : State) (port : Port) (cause : ResetCause) (input : Bool),
    (resetPart cause input s).monitor port = ⟨.lost, 0, 0⟩) ∧
  (∀ (s t : State) (port : Port) (good : Bool) (bytes : Vector Byte 96), MonitorOk (s.monitor port) →
    (exec (.receiveCycle port good bytes) s = .next t ∨ exec (.signalAbsence port) s = .next t) →
    MonitorOk (t.monitor port)) ∧
  (∀ (s : State) (present : Bool),
    (level .portA .portLoss present ∈ conditions s ↔
      present = decide ((s.monitor .a).state ≠ .aligned)) ∧
    (level .portB .portLoss present ∈ conditions s ↔
      present = decide ((s.monitor .b).state ≠ .aligned)))

/-- In AUTO the selection leaves a port that enters LOST, by a signal absence or a fourth bad marker, for one that
is ALIGNED, and takes a port that becomes ALIGNED while the selected one is not; it moves at no other event of a
port, so that a switch is not undone when the port that was left aligns again, and no other command or event but
PORT_MODE and the resets moves it. In a fixed mode it does not move. A switch returns every receiver to HUNT and
is counted twice over. A link whose circuit the event takes down has its receiver in HUNT and its offer timer
paused, one whose circuit comes up has its offer timer resumed, and no link changes otherwise before the cycle's
bytes are fed. While the reset input is asserted no receive cycle is taken. -/
def Obligations.ProtectionSwitches : Prop :=
  (∀ (s : State) (port : Port) (good : Bool) (bytes : Vector Byte 96), s.host.resetInput = true →
    exec (.receiveCycle port good bytes) s = .next s) ∧
  (∀ s : State, s.trunk.mode = .auto → (s.monitor s.trunk.selected).state ≠ .lost →
    (s.monitor (otherPort s.trunk.selected)).state = .aligned →
    ∃ t : State, exec (.signalAbsence s.trunk.selected) s = .next (finish t) ∧
      t.trunk.selected = otherPort s.trunk.selected ∧ trunkUp t = true ∧
      t.trunk.switchCount = satInc s.trunk.switchCount ∧
      t.faults.protectionSwitches = satInc s.faults.protectionSwitches ∧
      (∀ l, t.receiver l = .hunt) ∧ t.trunk.transmitters = s.trunk.transmitters ∧ t.keys = s.keys) ∧
  (∀ (s : State) (bytes : Vector Byte 96), s.host.resetInput = false → s.trunk.mode = .auto →
    (s.monitor s.trunk.selected).state ≠ .aligned →
    (s.monitor (otherPort s.trunk.selected)).state = .seeking →
    (s.monitor (otherPort s.trunk.selected)).good = 2 →
    ∃ t : State,
      exec (.receiveCycle (otherPort s.trunk.selected) true bytes) s = .next (finish (feedCycle bytes t)) ∧
      t.trunk.selected = otherPort s.trunk.selected ∧ trunkUp t = true ∧
      t.trunk.switchCount = satInc s.trunk.switchCount ∧ (∀ l, t.receiver l = .hunt)) ∧
  (∀ (s : State) (bytes : Vector Byte 96), s.host.resetInput = false → s.trunk.mode = .auto →
    (s.monitor s.trunk.selected).state = .aligned → (s.monitor s.trunk.selected).bad = 3 →
    ∃ t : State, exec (.receiveCycle s.trunk.selected false bytes) s = .next (finish t) ∧
      ((s.monitor (otherPort s.trunk.selected)).state = .aligned →
        t.trunk.selected = otherPort s.trunk.selected ∧ trunkUp t = true ∧
        t.trunk.switchCount = satInc s.trunk.switchCount ∧
        t.faults.protectionSwitches = satInc s.faults.protectionSwitches ∧
        (∀ l, t.receiver l = .hunt)) ∧
      ((s.monitor (otherPort s.trunk.selected)).state ≠ .aligned →
        t.trunk.selected = s.trunk.selected ∧ trunkUp t = false ∧
        t.trunk.switchCount = s.trunk.switchCount)) ∧
  (∀ (s : State) (port : Port) (good : Bool) (bytes : Vector Byte 96) (i : Instr),
    s.host.resetInput = false → (i = .receiveCycle port good bytes ∨ i = .signalAbsence port) →
    ∃ t : State, exec i s = .next (finish t) ∧
      (t.trunk.selected ≠ s.trunk.selected →
        s.trunk.mode = .auto ∧ t.trunk.selected = otherPort s.trunk.selected ∧
        ((port = s.trunk.selected ∧ (s.monitor port).state ≠ .lost ∧ (t.monitor port).state = .lost ∧
            (s.monitor (otherPort port)).state = .aligned) ∨
          (port = otherPort s.trunk.selected ∧ (s.monitor port).state ≠ .aligned ∧
            (t.monitor port).state = .aligned ∧
            (s.monitor s.trunk.selected).state ≠ .aligned))) ∧
      (t.trunk.selected = s.trunk.selected → t.trunk.switchCount = s.trunk.switchCount)) ∧
  (∀ (s : State) (port : Port) (good : Bool) (bytes : Vector Byte 96) (i : Instr) (f : Monitor → Monitor),
    s.host.resetInput = false →
    ((i = .receiveCycle port good bytes ∧ f = fun m => m.mark good) ∨
      (i = .signalAbsence port ∧ f = fun _ => ⟨.lost, 0, 0⟩)) →
    let u := monitorEvent port f s
    (exec i s = .next (finish u) ∨
      (i = .receiveCycle port good bytes ∧ exec i s = .next (finish (feedCycle bytes u)))) ∧
    u.monitor port = f (s.monitor port) ∧ u.monitor (otherPort port) = s.monitor (otherPort port) ∧
    u.trunk.selected = selectionAfter s port (f (s.monitor port)) ∧
    (∀ l, u.link l = { s.link l with
      renewal := { (s.link l).renewal with offer := offerFollowing s u l } }) ∧
    (∀ l, u.receiver l =
      if u.trunk.selected ≠ s.trunk.selected ∨ (circuitUp s l = true ∧ circuitUp u l = false) then .hunt
      else s.receiver l) ∧
    u.trunk.live = s.trunk.live ∧ u.trunk.shadow = s.trunk.shadow ∧ u.trunk.mode = s.trunk.mode ∧
    u.trunk.transmitters = s.trunk.transmitters ∧ u.keys = s.keys ∧ u.sealer = s.sealer ∧
    u.opener = s.opener ∧ u.engine = s.engine ∧ u.host = s.host ∧ u.store.mem = s.store.mem ∧
    u.store.queues = s.store.queues ∧ u.store.delivery = s.store.delivery) ∧
  (∀ (s t : State) (i : Instr), WellFormed i = true → mayMoveSelection i = false →
    s.host.buffer = [] → s.host.receiver = .hunt →
    (i = .sendEnd → ∀ r, s.host.line = some r → r.forReset = false) → exec i s = .next t →
    t.trunk.selected = s.trunk.selected) ∧
  (∀ (s : State) (port : Port), s.trunk.mode ≠ .auto →
    ∃ t : State, exec (.signalAbsence port) s = .next (finish t) ∧
      t.trunk.selected = s.trunk.selected ∧ t.trunk.switchCount = s.trunk.switchCount ∧
      (∀ l, circuitUp s l = circuitUp t l → t.link l = s.link l ∧ t.receiver l = s.receiver l))

/-- A transmit cycle request sends 96 bytes on both ports: FFh in a slot that carries no link's stream,
55h for an idle transmitter, and the next bytes of a control frame's copy in the link's slots in
ascending order, fill after its last. A TRAFFIC frame goes out as its start byte, the header of its descriptor,
the ciphertext of its units and the tag of its descriptor; in the event that sends its last byte its descriptor
and units are freed and the transmitter becomes IDLE. -/
def Obligations.TransmitCycleCarriesTheStreams : Prop :=
  ∀ s : State, ∃ t : State, exec .transmitCycleRequest s = .next (finish t) ∧
    t.trunk.lastCycle.length = 96 ∧
    (∀ i : TrunkSlot, tget s.trunk.live i = none → t.trunk.lastCycle[i.val]? = some 0xFF) ∧
    (∀ (i : TrunkSlot) (l : LinkId), tget s.trunk.live i = some l → (s.link l).live = false →
      t.trunk.lastCycle[i.val]? = some 0xFF) ∧
    (∀ (i : TrunkSlot) (l : LinkId), tget s.trunk.live i = some l → (s.link l).live = true →
      s.transmitter l = .idle → t.trunk.lastCycle[i.val]? = some 0x55) ∧
    (∀ (l : LinkId) (bytes : List Byte) (n : Nat), (s.link l).live = true →
      s.transmitter l = .copy bytes n → n < bytes.length →
      (∀ (j : Nat) (i : TrunkSlot), (slotSet s.trunk.live l)[j]? = some i →
        t.trunk.lastCycle[i.val]? = some (bytes.getD (n + j) 0x55)) ∧
      t.transmitter l =
        (if bytes.length ≤ n + (slotSet s.trunk.live l).length then .idle
          else .copy bytes (n + (slotSet s.trunk.live l).length))) ∧
    (∀ (l : LinkId) (d : DescNo) (n : Nat) (x : Descriptor) (header tag : List Byte),
      (s.link l).live = true → s.transmitter l = .frame d n → s.desc d = some x →
      x.header = some header → header.length = 10 → x.tag = some tag → tag.length = 8 →
      (∀ j m, j ≠ l → s.transmitter j ≠ .frame d m) →
      let bytes := 0xA3 :: (header ++ chainBytes s.store.mem x.chain 0 x.length ++ tag)
      let sent := n + (slotSet s.trunk.live l).length
      bytes.length = x.length + 19 ∧
      (n < bytes.length →
        (∀ (j : Nat) (i : TrunkSlot), (slotSet s.trunk.live l)[j]? = some i →
          t.trunk.lastCycle[i.val]? = some (bytes.getD (n + j) 0x55)) ∧
        (bytes.length ≤ sent → t.transmitter l = .idle ∧ t.desc d = none) ∧
        (sent < bytes.length → t.transmitter l = .frame d sent ∧ t.desc d = some x))) ∧
    (∀ d, (∀ l n, s.transmitter l ≠ .frame d n) → t.desc d = s.desc d) ∧
    t.links = s.links ∧ t.keys = s.keys ∧ t.faults = s.faults ∧ t.host = s.host ∧
    t.store.mem = s.store.mem ∧ t.store.queues = s.store.queues

/-! ### Formats (chapter 10) -/

/-- A link frame header is read as it was written: the ten bytes sum to FFh, they pass the header check
of a receiver with the fields they were written from, and a receiver in HUNT that is fed the start byte
and the header comes to the acceptance of exactly those fields. An accepted frame takes its room and is in BODY,
or is skipped and counted where the inbound share cannot supply it. A header with a wrong sum, kind or length
fails and is counted, and its ten bytes are taken again from HUNT. In BODY the bytes are written into the
frame's units, and the last brings the frame to the end of the open list, where the starts that this makes
possible are taken at once (log entry 8); in SKIP they are counted off. A byte of one link's circuit touches no
other receiver. A receive cycle of the port that is selected and ALIGNED once its monitor, the selection and the
circuits have followed its marker feeds its bytes slot by slot in ascending order, each to the receiver of the link
that the live map names where that receiver runs, and to no other; a cycle of the other port, or with the port not
ALIGNED, feeds none. -/
def Obligations.HeaderIsReadAsWritten : Prop :=
  (∀ (kind : FrameKind) (epoch seq p maxPayload : Nat), epoch < 65536 → seq < 2 ^ 32 → p + 8 < 65536 →
    bodyLengthOk kind maxPayload (p + 8) = true →
    byteSum (headerBytes kind epoch seq p) = 0xFF ∧
    checkHeader maxPayload (headerBytes kind epoch seq p) = some ⟨kind, epoch, seq, p + 8⟩ ∧
    ∀ (s : State) (l : LinkId), s.receiver l = .hunt → maxPayloadOf (s.link l) = maxPayload →
      let fed := (frameStart :: headerBytes kind epoch seq p).foldl (fun t b => receiverByte l b t) s
      fed = acceptHeader l ⟨kind, epoch, seq, p + 8⟩ s ∧
      (∀ d us, findRoom s true ((p + 8 + 63) / 64) = some (d, us) →
        fed = { s with
          store := { s.store with
            descs := tput s.store.descs d
              (some ⟨l, true, kind, some epoch, some seq, p, us, none, none, none⟩) }
          trunk := { s.trunk with receivers := tput s.trunk.receivers l (.body d 0) } }) ∧
      (findRoom s true ((p + 8 + 63) / 64) = none →
        fed = (((s.count l .noBuffer).modEvents l fun e =>
          { e with inboundOverrun := satInc e.inboundOverrun }).setReceiver l (.skip (p + 8))))) ∧
  (∀ (maxPayload : Nat) (bs : List Byte), bs.length = 10 →
    (byteSum bs ≠ 0xFF ∨ bs.headD 0 ∉ ([0x01, 0x11, 0x12, 0x13, 0x14] : List Byte) ∨
      (∃ kind : FrameKind, bs.headD 0 = kind.code ∧
        bodyLengthOk kind maxPayload (beNat ((bs.drop 7).take 2)) = false) ↔
      checkHeader maxPayload bs = none)) ∧
  (∀ (s : State) (l : LinkId) (bs : List Byte) (b : Byte), s.receiver l = .header bs → bs.length = 9 →
    checkHeader (maxPayloadOf (s.link l)) (bs ++ [b]) = none →
    receiverByte l b s = (((s.count l .badHeader).modEvents l fun e =>
      { e with headerErrors := satInc e.headerErrors }).setReceiver l
        (match (bs ++ [b]).dropWhile fun c => c ≠ 0xA3 with
          | [] => .hunt
          | _ :: rest => .header rest))) ∧
  (∀ (s : State) (l : LinkId) (d : DescNo) (n : Nat) (x : Descriptor) (bs : List Byte),
    s.receiver l = .body d n → s.desc d = some x → bs ≠ [] →
    let fed := bs.foldl (fun t b => receiverByte l b t) s
    let mem := writeChain x.chain n bs s.store.mem
    (n + bs.length < x.length + 8 →
      fed = { s with
        store := { s.store with mem := mem }
        trunk := { s.trunk with receivers := tput s.trunk.receivers l (.body d (n + bs.length)) } }) ∧
    (n + bs.length = x.length + 8 →
      fed = settleBlocks { s with
        store := { s.store with mem := mem }
        trunk := { s.trunk with receivers := tput s.trunk.receivers l .hunt }
        opener := { s.opener with waiting := s.opener.waiting ++ [d] } })) ∧
  (∀ (s : State) (l : LinkId) (n : Nat) (bs : List Byte), s.receiver l = .skip n → bs.length ≤ n →
    bs ≠ [] →
    bs.foldl (fun t b => receiverByte l b t) s =
      s.setReceiver l (if bs.length = n then .hunt else .skip (n - bs.length))) ∧
  (∀ (s : State) (l j : LinkId) (b : Byte), j ≠ l → (receiverByte l b s).receiver j = s.receiver j) ∧
  (∀ (s : State) (port : Port) (good : Bool) (bytes : Vector Byte 96), s.host.resetInput = false →
    let u := monitorEvent port (fun m => m.mark good) s
    u.monitor port = (s.monitor port).mark good ∧
    u.trunk.selected = selectionAfter s port ((s.monitor port).mark good) ∧ u.trunk.live = s.trunk.live ∧
    (u.trunk.selected = port → (u.monitor port).state = .aligned →
      ∃ f : Nat → State, f 0 = u ∧
        (∀ i : TrunkSlot,
          (∀ l, tget s.trunk.live i = some l → ((f i.val).link l).live = true → circuitUp (f i.val) l = true →
            f (i.val + 1) = receiverByte l (tget bytes i) (f i.val)) ∧
          ((∀ l, tget s.trunk.live i = some l →
              ((f i.val).link l).live = false ∨ circuitUp (f i.val) l = false) →
            f (i.val + 1) = f i.val)) ∧
        exec (.receiveCycle port good bytes) s = .next (finish (f 96))) ∧
    ((u.trunk.selected ≠ port ∨ (u.monitor port).state ≠ .aligned) →
      exec (.receiveCycle port good bytes) s = .next (finish u)))

/-- No two counter blocks, tag start blocks or derivation blocks are alike: fields within their widths are
recovered from the block. -/
def Obligations.CipherInputsAreDistinct : Prop :=
  (∀ (l l' : LinkId) (dir dir' : Bool) (e e' q q' i i' : Nat) (kind kind' : FrameKind),
    e < 65536 → e' < 65536 → q < 2 ^ 32 → q' < 2 ^ 32 → i < 2 ^ 32 → i' < 2 ^ 32 →
    counterBlock l dir e q kind i = counterBlock l' dir' e' q' kind' i' →
    l = l' ∧ dir = dir' ∧ e = e' ∧ q = q' ∧ kind = kind' ∧ i = i') ∧
  (∀ (l l' : LinkId) (dir dir' : Bool) (e e' q q' p p' : Nat) (kind kind' : FrameKind),
    e < 65536 → e' < 65536 → q < 2 ^ 32 → q' < 2 ^ 32 → p + 8 < 65536 → p' + 8 < 65536 →
    tagStartBlock l dir e q kind p = tagStartBlock l' dir' e' q' kind' p' →
    l = l' ∧ dir = dir' ∧ e = e' ∧ q = q' ∧ kind = kind' ∧ p = p') ∧
  (∀ (r r' : DerivationRequest) (k k' : Nat), r.epoch < 65536 → r'.epoch < 65536 → k < 256 → k' < 256 →
    derivationBlock r k = derivationBlock r' k' →
    k = k' ∧ r.link = r'.link ∧ r.epoch = r'.epoch ∧ r.headNonce = r'.headNonce ∧
      r.shopNonce = r'.shopNonce)

/-! ### Fault entries (chapter 8) -/

/-- An entry's sample: the rows of its state table, what the sample adds to its record and to the notice list, and,
where it declares the entry, its act. A condition that is absent and has no entry creates none; one that is
present is given an entry at the end of the creation order, in a place that is left or in that of the oldest
CLEAR ordinary entry which is not on the notice list (log entry 19), or raises the TABLE_OVERFLOW count where
there is neither; TABLE_OVERFLOW itself always finds its place. The new entry takes the sample that created it. A
TAG_FAILURES entry that is declared, by any row or at its creation, acts by its link's profile: nothing, an isolation
of an ACTIVE link with its link event, or a renewal trigger. No other kind acts. -/
def Obligations.EntryTakesItsSample : Prop :=
  (∀ (now : W32) (c : Condition) (e : FaultEntry) (s : State), e ∈ s.faults.entries →
    e.source = c.source → e.kind = c.kind →
    (∀ e' ∈ s.faults.entries, e'.source = e.source → e'.kind = e.kind → e' = e) →
    let p := policyOf s c.kind
    let n := e.persistence
    let new : EntryState × Nat :=
      match e.state, c.present with
      | .clear, true => if p.declare ≤ 1 then (.declared, 0) else (.rising, 1)
      | .clear, false => (.clear, n)
      | .rising, true => if p.declare ≤ n + 1 then (.declared, 0) else (.rising, n + 1)
      | .rising, false => (.clear, 0)
      | .declared, true => (.declared, n)
      | .declared, false => if p.clear ≤ 1 then (.clear, 0) else (.falling, 1)
      | .falling, false => if p.clear ≤ n + 1 then (.clear, 0) else (.falling, n + 1)
      | .falling, true => (.declared, 0)
    let declared := decide (new.1 = .declared) && decide (e.state ≠ .declared)
    let cleared := decide (new.1 = .clear) &&
      (decide (e.state = .falling) || decide (e.state = .declared))
    let joins := p.report && (declared || cleared) && !e.reportPending
    let sampled : State := { s with
      faults := { s.faults with
        entries := s.faults.entries.map (fun x => if x = e then
          { e with
            state := new.1, persistence := new.2
            occurrences := if declared then satInc e.occurrences else e.occurrences
            eventsTotal := satAdd e.eventsTotal
              (if c.kind.counted then c.amount else if c.present then 1 else 0)
            firstDeclared := if declared then some (e.firstDeclared.getD now) else e.firstDeclared
            lastChange := if new.1 = e.state then e.lastChange else now
            reportPending := e.reportPending || joins } else x) }
      host := { s.host with
        notices := s.host.notices ++ (if joins then [.fault c.source c.kind] else []) } }
    sampleCondition now s c = (if declared then faultActed c sampled else sampled) ∧
    (c.kind ≠ .tagFailures → sampleCondition now s c = sampled)) ∧
  (∀ (now : W32) (c : Condition) (s : State), c.present = false →
    findEntry s c.source c.kind = none → sampleCondition now s c = s) ∧
  (∀ (now : W32) (c : Condition) (s : State), c.present = true → findEntry s c.source c.kind = none →
    let p := policyOf s c.kind
    let declared := decide (p.declare ≤ 1)
    let joins := p.report && declared
    let entry : FaultEntry :=
      ⟨c.source, c.kind, if declared then .declared else .rising, if declared then 0 else 1,
        if declared then 1 else 0, satAdd 0 (if c.kind.counted then c.amount else 1),
        if declared then some now else none, now, joins⟩
    let reclaims : FaultEntry → Prop := fun e =>
      e.kind ≠ .tableOverflow ∧ e.state = .clear ∧ e.reportPending = false
    let made : List FaultEntry → Prop := fun kept =>
      let created : State := { s with
        faults := { s.faults with entries := kept ++ [entry] }
        host := { s.host with
          notices := s.host.notices ++ (if joins then [.fault c.source c.kind] else []) } }
      sampleCondition now s c = (if declared then faultActed c created else created) ∧
      (c.kind ≠ .tagFailures → sampleCondition now s c = created)
    let ordinaries := (s.faults.entries.filter fun e => decide (e.kind ≠ .tableOverflow)).length
    ((c.kind = .tableOverflow ∨ ordinaries < 95) → made s.faults.entries) ∧
    (c.kind ≠ .tableOverflow → 95 ≤ ordinaries →
      (∀ pre e post, s.faults.entries = pre ++ e :: post → reclaims e → (∀ x ∈ pre, ¬reclaims x) →
        made (pre ++ post)) ∧
      ((∀ x ∈ s.faults.entries, ¬reclaims x) →
        sampleCondition now s c = { s with faults := { s.faults with
          tableOverflows := satInc s.faults.tableOverflows } }))) ∧
  (∀ (now : W32) (l : LinkId) (amount : Nat) (p : Profile) (s : State),
    let declare := (policyOf s .tagFailures).declare
    ((∃ e ∈ s.faults.entries, e.source = .link l ∧ e.kind = .tagFailures ∧
        (∀ e' ∈ s.faults.entries, e'.source = e.source → e'.kind = e.kind → e' = e) ∧
        ((e.state = .clear ∧ declare ≤ 1) ∨ (e.state = .rising ∧ declare ≤ e.persistence + 1) ∨
          e.state = .falling)) ∨
      (findEntry s (.link l) .tagFailures = none ∧ declare ≤ 1 ∧
        ((s.faults.entries.filter fun e => decide (e.kind ≠ .tableOverflow)).length < 95 ∨
          ∃ e ∈ s.faults.entries, e.kind ≠ .tableOverflow ∧ e.state = .clear ∧
            e.reportPending = false))) →
    (s.link l).profile = some p →
    let t := sampleCondition now s ⟨.link l, .tagFailures, true, amount⟩
    (∃ e ∈ t.faults.entries, e.source = .link l ∧ e.kind = .tagFailures ∧ e.state = .declared) ∧
    (p.tagAction = .noAction → t.links = s.links ∧ t.keys = s.keys) ∧
    (p.tagAction = .isolate → (s.link l).state = .active →
      (t.link l).state = .isolated ∧ (t.link l).renewal.state = .quiet ∧ (t.link l).next = none ∧
      (t.link l).previous = none ∧ (t.link l).current = (s.link l).current ∧
      (t.link l).eventPending = true ∧ ((s.link l).eventPending = false → .link l ∈ t.host.notices)) ∧
    (p.tagAction = .isolate → (s.link l).state ≠ .active → t.links = s.links ∧ t.keys = s.keys) ∧
    (p.tagAction = .renew → ((s.link l).state ≠ .active ∨ (s.link l).renewal.state ≠ .quiet ∨
        (s.link l).renewal.pendingTrigger = true) → t.links = s.links ∧ t.keys = s.keys) ∧
    (∀ c : SlotNo, p.tagAction = .renew → (s.link l).state = .active →
      (s.link l).renewal.state = .quiet → (s.link l).renewal.pendingTrigger = false →
      (s.link l).current = some c → (s.slot c).epoch ≠ 65535 →
      ((∃ k, (s.slot k).state = .free) → (t.link l).renewal.state = .offering) ∧
      ((∀ k, (s.slot k).state ≠ .free) →
        (t.link l).renewal.pendingTrigger = true ∧ t.keys.waitList = s.keys.waitList ++ [l])))
end

