-- ==== Sys2Proof/Laws/State.lean ====
section
/-! SUPPORT. Beside the state: for every named update, what it leaves as it was (one lemma for each part of
the state and each reader), and what a reader finds after the update of its own object. -/

namespace Sys2Proof.Machine

variable (s : State)

/-! ### What each update leaves as it was -/

@[simp] theorem State.modLink_pending (l : LinkId) (f : Link → Link) :
    (s.modLink l f).pending = s.pending := rfl
@[simp] theorem State.modLink_keys (l : LinkId) (f : Link → Link) :
    (s.modLink l f).keys = s.keys := rfl
@[simp] theorem State.modLink_engine (l : LinkId) (f : Link → Link) :
    (s.modLink l f).engine = s.engine := rfl
@[simp] theorem State.modLink_sealer (l : LinkId) (f : Link → Link) :
    (s.modLink l f).sealer = s.sealer := rfl
@[simp] theorem State.modLink_opener (l : LinkId) (f : Link → Link) :
    (s.modLink l f).opener = s.opener := rfl
@[simp] theorem State.modLink_store (l : LinkId) (f : Link → Link) :
    (s.modLink l f).store = s.store := rfl
@[simp] theorem State.modLink_trunk (l : LinkId) (f : Link → Link) :
    (s.modLink l f).trunk = s.trunk := rfl
@[simp] theorem State.modLink_faults (l : LinkId) (f : Link → Link) :
    (s.modLink l f).faults = s.faults := rfl
@[simp] theorem State.modLink_host (l : LinkId) (f : Link → Link) :
    (s.modLink l f).host = s.host := rfl
@[simp] theorem State.modLink_draws (l : LinkId) (f : Link → Link) :
    (s.modLink l f).draws = s.draws := rfl
@[simp] theorem State.root_modLink (l : LinkId) (f : Link → Link) (i : LinkId) :
    (s.modLink l f).root i = s.root i := rfl
@[simp] theorem State.slot_modLink (l : LinkId) (f : Link → Link) (i : SlotNo) :
    (s.modLink l f).slot i = s.slot i := rfl
@[simp] theorem State.desc_modLink (l : LinkId) (f : Link → Link) (i : DescNo) :
    (s.modLink l f).desc i = s.desc i := rfl
@[simp] theorem State.queue_modLink (l : LinkId) (f : Link → Link) (i : LinkId) :
    (s.modLink l f).queue i = s.queue i := rfl
@[simp] theorem State.receiver_modLink (l : LinkId) (f : Link → Link) (i : LinkId) :
    (s.modLink l f).receiver i = s.receiver i := rfl
@[simp] theorem State.transmitter_modLink (l : LinkId) (f : Link → Link) (i : LinkId) :
    (s.modLink l f).transmitter i = s.transmitter i := rfl
@[simp] theorem State.monitor_modLink (l : LinkId) (f : Link → Link) (i : Port) :
    (s.modLink l f).monitor i = s.monitor i := rfl
@[simp] theorem State.events_modLink (l : LinkId) (f : Link → Link) (i : LinkId) :
    (s.modLink l f).events i = s.events i := rfl
@[simp] theorem State.modRenewal_pending (l : LinkId) (f : Renewal → Renewal) :
    (s.modRenewal l f).pending = s.pending := rfl
@[simp] theorem State.modRenewal_keys (l : LinkId) (f : Renewal → Renewal) :
    (s.modRenewal l f).keys = s.keys := rfl
@[simp] theorem State.modRenewal_engine (l : LinkId) (f : Renewal → Renewal) :
    (s.modRenewal l f).engine = s.engine := rfl
@[simp] theorem State.modRenewal_sealer (l : LinkId) (f : Renewal → Renewal) :
    (s.modRenewal l f).sealer = s.sealer := rfl
@[simp] theorem State.modRenewal_opener (l : LinkId) (f : Renewal → Renewal) :
    (s.modRenewal l f).opener = s.opener := rfl
@[simp] theorem State.modRenewal_store (l : LinkId) (f : Renewal → Renewal) :
    (s.modRenewal l f).store = s.store := rfl
@[simp] theorem State.modRenewal_trunk (l : LinkId) (f : Renewal → Renewal) :
    (s.modRenewal l f).trunk = s.trunk := rfl
@[simp] theorem State.modRenewal_faults (l : LinkId) (f : Renewal → Renewal) :
    (s.modRenewal l f).faults = s.faults := rfl
@[simp] theorem State.modRenewal_host (l : LinkId) (f : Renewal → Renewal) :
    (s.modRenewal l f).host = s.host := rfl
@[simp] theorem State.modRenewal_draws (l : LinkId) (f : Renewal → Renewal) :
    (s.modRenewal l f).draws = s.draws := rfl
@[simp] theorem State.root_modRenewal (l : LinkId) (f : Renewal → Renewal) (i : LinkId) :
    (s.modRenewal l f).root i = s.root i := rfl
@[simp] theorem State.slot_modRenewal (l : LinkId) (f : Renewal → Renewal) (i : SlotNo) :
    (s.modRenewal l f).slot i = s.slot i := rfl
@[simp] theorem State.desc_modRenewal (l : LinkId) (f : Renewal → Renewal) (i : DescNo) :
    (s.modRenewal l f).desc i = s.desc i := rfl
@[simp] theorem State.queue_modRenewal (l : LinkId) (f : Renewal → Renewal) (i : LinkId) :
    (s.modRenewal l f).queue i = s.queue i := rfl
@[simp] theorem State.receiver_modRenewal (l : LinkId) (f : Renewal → Renewal) (i : LinkId) :
    (s.modRenewal l f).receiver i = s.receiver i := rfl
@[simp] theorem State.transmitter_modRenewal (l : LinkId) (f : Renewal → Renewal) (i : LinkId) :
    (s.modRenewal l f).transmitter i = s.transmitter i := rfl
@[simp] theorem State.monitor_modRenewal (l : LinkId) (f : Renewal → Renewal) (i : Port) :
    (s.modRenewal l f).monitor i = s.monitor i := rfl
@[simp] theorem State.events_modRenewal (l : LinkId) (f : Renewal → Renewal) (i : LinkId) :
    (s.modRenewal l f).events i = s.events i := rfl
@[simp] theorem State.setRoot_pending (l : LinkId) (r : RootRecord) :
    (s.setRoot l r).pending = s.pending := rfl
@[simp] theorem State.setRoot_links (l : LinkId) (r : RootRecord) :
    (s.setRoot l r).links = s.links := rfl
@[simp] theorem State.setRoot_keys_slots (l : LinkId) (r : RootRecord) :
    (s.setRoot l r).keys.slots = s.keys.slots := rfl
@[simp] theorem State.setRoot_keys_waitList (l : LinkId) (r : RootRecord) :
    (s.setRoot l r).keys.waitList = s.keys.waitList := rfl
@[simp] theorem State.setRoot_keys_requests (l : LinkId) (r : RootRecord) :
    (s.setRoot l r).keys.requests = s.keys.requests := rfl
@[simp] theorem State.setRoot_keys_derivation (l : LinkId) (r : RootRecord) :
    (s.setRoot l r).keys.derivation = s.keys.derivation := rfl
@[simp] theorem State.setRoot_engine (l : LinkId) (r : RootRecord) :
    (s.setRoot l r).engine = s.engine := rfl
@[simp] theorem State.setRoot_sealer (l : LinkId) (r : RootRecord) :
    (s.setRoot l r).sealer = s.sealer := rfl
@[simp] theorem State.setRoot_opener (l : LinkId) (r : RootRecord) :
    (s.setRoot l r).opener = s.opener := rfl
@[simp] theorem State.setRoot_store (l : LinkId) (r : RootRecord) :
    (s.setRoot l r).store = s.store := rfl
@[simp] theorem State.setRoot_trunk (l : LinkId) (r : RootRecord) :
    (s.setRoot l r).trunk = s.trunk := rfl
@[simp] theorem State.setRoot_faults (l : LinkId) (r : RootRecord) :
    (s.setRoot l r).faults = s.faults := rfl
@[simp] theorem State.setRoot_host (l : LinkId) (r : RootRecord) :
    (s.setRoot l r).host = s.host := rfl
@[simp] theorem State.setRoot_draws (l : LinkId) (r : RootRecord) :
    (s.setRoot l r).draws = s.draws := rfl
@[simp] theorem State.link_setRoot (l : LinkId) (r : RootRecord) (i : LinkId) :
    (s.setRoot l r).link i = s.link i := rfl
@[simp] theorem State.slot_setRoot (l : LinkId) (r : RootRecord) (i : SlotNo) :
    (s.setRoot l r).slot i = s.slot i := rfl
@[simp] theorem State.desc_setRoot (l : LinkId) (r : RootRecord) (i : DescNo) :
    (s.setRoot l r).desc i = s.desc i := rfl
@[simp] theorem State.queue_setRoot (l : LinkId) (r : RootRecord) (i : LinkId) :
    (s.setRoot l r).queue i = s.queue i := rfl
@[simp] theorem State.receiver_setRoot (l : LinkId) (r : RootRecord) (i : LinkId) :
    (s.setRoot l r).receiver i = s.receiver i := rfl
@[simp] theorem State.transmitter_setRoot (l : LinkId) (r : RootRecord) (i : LinkId) :
    (s.setRoot l r).transmitter i = s.transmitter i := rfl
@[simp] theorem State.monitor_setRoot (l : LinkId) (r : RootRecord) (i : Port) :
    (s.setRoot l r).monitor i = s.monitor i := rfl
@[simp] theorem State.events_setRoot (l : LinkId) (r : RootRecord) (i : LinkId) :
    (s.setRoot l r).events i = s.events i := rfl
@[simp] theorem State.modSlot_pending (k : SlotNo) (f : KeySlot → KeySlot) :
    (s.modSlot k f).pending = s.pending := rfl
@[simp] theorem State.modSlot_links (k : SlotNo) (f : KeySlot → KeySlot) :
    (s.modSlot k f).links = s.links := rfl
@[simp] theorem State.modSlot_keys_roots (k : SlotNo) (f : KeySlot → KeySlot) :
    (s.modSlot k f).keys.roots = s.keys.roots := rfl
@[simp] theorem State.modSlot_keys_waitList (k : SlotNo) (f : KeySlot → KeySlot) :
    (s.modSlot k f).keys.waitList = s.keys.waitList := rfl
@[simp] theorem State.modSlot_keys_requests (k : SlotNo) (f : KeySlot → KeySlot) :
    (s.modSlot k f).keys.requests = s.keys.requests := rfl
@[simp] theorem State.modSlot_keys_derivation (k : SlotNo) (f : KeySlot → KeySlot) :
    (s.modSlot k f).keys.derivation = s.keys.derivation := rfl
@[simp] theorem State.modSlot_engine (k : SlotNo) (f : KeySlot → KeySlot) :
    (s.modSlot k f).engine = s.engine := rfl
@[simp] theorem State.modSlot_sealer (k : SlotNo) (f : KeySlot → KeySlot) :
    (s.modSlot k f).sealer = s.sealer := rfl
@[simp] theorem State.modSlot_opener (k : SlotNo) (f : KeySlot → KeySlot) :
    (s.modSlot k f).opener = s.opener := rfl
@[simp] theorem State.modSlot_store (k : SlotNo) (f : KeySlot → KeySlot) :
    (s.modSlot k f).store = s.store := rfl
@[simp] theorem State.modSlot_trunk (k : SlotNo) (f : KeySlot → KeySlot) :
    (s.modSlot k f).trunk = s.trunk := rfl
@[simp] theorem State.modSlot_faults (k : SlotNo) (f : KeySlot → KeySlot) :
    (s.modSlot k f).faults = s.faults := rfl
@[simp] theorem State.modSlot_host (k : SlotNo) (f : KeySlot → KeySlot) :
    (s.modSlot k f).host = s.host := rfl
@[simp] theorem State.modSlot_draws (k : SlotNo) (f : KeySlot → KeySlot) :
    (s.modSlot k f).draws = s.draws := rfl
@[simp] theorem State.link_modSlot (k : SlotNo) (f : KeySlot → KeySlot) (i : LinkId) :
    (s.modSlot k f).link i = s.link i := rfl
@[simp] theorem State.root_modSlot (k : SlotNo) (f : KeySlot → KeySlot) (i : LinkId) :
    (s.modSlot k f).root i = s.root i := rfl
@[simp] theorem State.desc_modSlot (k : SlotNo) (f : KeySlot → KeySlot) (i : DescNo) :
    (s.modSlot k f).desc i = s.desc i := rfl
@[simp] theorem State.queue_modSlot (k : SlotNo) (f : KeySlot → KeySlot) (i : LinkId) :
    (s.modSlot k f).queue i = s.queue i := rfl
@[simp] theorem State.receiver_modSlot (k : SlotNo) (f : KeySlot → KeySlot) (i : LinkId) :
    (s.modSlot k f).receiver i = s.receiver i := rfl
@[simp] theorem State.transmitter_modSlot (k : SlotNo) (f : KeySlot → KeySlot) (i : LinkId) :
    (s.modSlot k f).transmitter i = s.transmitter i := rfl
@[simp] theorem State.monitor_modSlot (k : SlotNo) (f : KeySlot → KeySlot) (i : Port) :
    (s.modSlot k f).monitor i = s.monitor i := rfl
@[simp] theorem State.events_modSlot (k : SlotNo) (f : KeySlot → KeySlot) (i : LinkId) :
    (s.modSlot k f).events i = s.events i := rfl
@[simp] theorem State.setWaitList_pending (w : List LinkId) :
    (s.setWaitList w).pending = s.pending := rfl
@[simp] theorem State.setWaitList_links (w : List LinkId) :
    (s.setWaitList w).links = s.links := rfl
@[simp] theorem State.setWaitList_keys_roots (w : List LinkId) :
    (s.setWaitList w).keys.roots = s.keys.roots := rfl
@[simp] theorem State.setWaitList_keys_slots (w : List LinkId) :
    (s.setWaitList w).keys.slots = s.keys.slots := rfl
@[simp] theorem State.setWaitList_keys_requests (w : List LinkId) :
    (s.setWaitList w).keys.requests = s.keys.requests := rfl
@[simp] theorem State.setWaitList_keys_derivation (w : List LinkId) :
    (s.setWaitList w).keys.derivation = s.keys.derivation := rfl
@[simp] theorem State.setWaitList_engine (w : List LinkId) :
    (s.setWaitList w).engine = s.engine := rfl
@[simp] theorem State.setWaitList_sealer (w : List LinkId) :
    (s.setWaitList w).sealer = s.sealer := rfl
@[simp] theorem State.setWaitList_opener (w : List LinkId) :
    (s.setWaitList w).opener = s.opener := rfl
@[simp] theorem State.setWaitList_store (w : List LinkId) :
    (s.setWaitList w).store = s.store := rfl
@[simp] theorem State.setWaitList_trunk (w : List LinkId) :
    (s.setWaitList w).trunk = s.trunk := rfl
@[simp] theorem State.setWaitList_faults (w : List LinkId) :
    (s.setWaitList w).faults = s.faults := rfl
@[simp] theorem State.setWaitList_host (w : List LinkId) :
    (s.setWaitList w).host = s.host := rfl
@[simp] theorem State.setWaitList_draws (w : List LinkId) :
    (s.setWaitList w).draws = s.draws := rfl
@[simp] theorem State.link_setWaitList (w : List LinkId) (i : LinkId) :
    (s.setWaitList w).link i = s.link i := rfl
@[simp] theorem State.root_setWaitList (w : List LinkId) (i : LinkId) :
    (s.setWaitList w).root i = s.root i := rfl
@[simp] theorem State.slot_setWaitList (w : List LinkId) (i : SlotNo) :
    (s.setWaitList w).slot i = s.slot i := rfl
@[simp] theorem State.desc_setWaitList (w : List LinkId) (i : DescNo) :
    (s.setWaitList w).desc i = s.desc i := rfl
@[simp] theorem State.queue_setWaitList (w : List LinkId) (i : LinkId) :
    (s.setWaitList w).queue i = s.queue i := rfl
@[simp] theorem State.receiver_setWaitList (w : List LinkId) (i : LinkId) :
    (s.setWaitList w).receiver i = s.receiver i := rfl
@[simp] theorem State.transmitter_setWaitList (w : List LinkId) (i : LinkId) :
    (s.setWaitList w).transmitter i = s.transmitter i := rfl
@[simp] theorem State.monitor_setWaitList (w : List LinkId) (i : Port) :
    (s.setWaitList w).monitor i = s.monitor i := rfl
@[simp] theorem State.events_setWaitList (w : List LinkId) (i : LinkId) :
    (s.setWaitList w).events i = s.events i := rfl
@[simp] theorem State.setRequests_pending (r : List DerivationRequest) :
    (s.setRequests r).pending = s.pending := rfl
@[simp] theorem State.setRequests_links (r : List DerivationRequest) :
    (s.setRequests r).links = s.links := rfl
@[simp] theorem State.setRequests_keys_roots (r : List DerivationRequest) :
    (s.setRequests r).keys.roots = s.keys.roots := rfl
@[simp] theorem State.setRequests_keys_slots (r : List DerivationRequest) :
    (s.setRequests r).keys.slots = s.keys.slots := rfl
@[simp] theorem State.setRequests_keys_waitList (r : List DerivationRequest) :
    (s.setRequests r).keys.waitList = s.keys.waitList := rfl
@[simp] theorem State.setRequests_keys_derivation (r : List DerivationRequest) :
    (s.setRequests r).keys.derivation = s.keys.derivation := rfl
@[simp] theorem State.setRequests_engine (r : List DerivationRequest) :
    (s.setRequests r).engine = s.engine := rfl
@[simp] theorem State.setRequests_sealer (r : List DerivationRequest) :
    (s.setRequests r).sealer = s.sealer := rfl
@[simp] theorem State.setRequests_opener (r : List DerivationRequest) :
    (s.setRequests r).opener = s.opener := rfl
@[simp] theorem State.setRequests_store (r : List DerivationRequest) :
    (s.setRequests r).store = s.store := rfl
@[simp] theorem State.setRequests_trunk (r : List DerivationRequest) :
    (s.setRequests r).trunk = s.trunk := rfl
@[simp] theorem State.setRequests_faults (r : List DerivationRequest) :
    (s.setRequests r).faults = s.faults := rfl
@[simp] theorem State.setRequests_host (r : List DerivationRequest) :
    (s.setRequests r).host = s.host := rfl
@[simp] theorem State.setRequests_draws (r : List DerivationRequest) :
    (s.setRequests r).draws = s.draws := rfl
@[simp] theorem State.link_setRequests (r : List DerivationRequest) (i : LinkId) :
    (s.setRequests r).link i = s.link i := rfl
@[simp] theorem State.root_setRequests (r : List DerivationRequest) (i : LinkId) :
    (s.setRequests r).root i = s.root i := rfl
@[simp] theorem State.slot_setRequests (r : List DerivationRequest) (i : SlotNo) :
    (s.setRequests r).slot i = s.slot i := rfl
@[simp] theorem State.desc_setRequests (r : List DerivationRequest) (i : DescNo) :
    (s.setRequests r).desc i = s.desc i := rfl
@[simp] theorem State.queue_setRequests (r : List DerivationRequest) (i : LinkId) :
    (s.setRequests r).queue i = s.queue i := rfl
@[simp] theorem State.receiver_setRequests (r : List DerivationRequest) (i : LinkId) :
    (s.setRequests r).receiver i = s.receiver i := rfl
@[simp] theorem State.transmitter_setRequests (r : List DerivationRequest) (i : LinkId) :
    (s.setRequests r).transmitter i = s.transmitter i := rfl
@[simp] theorem State.monitor_setRequests (r : List DerivationRequest) (i : Port) :
    (s.setRequests r).monitor i = s.monitor i := rfl
@[simp] theorem State.events_setRequests (r : List DerivationRequest) (i : LinkId) :
    (s.setRequests r).events i = s.events i := rfl
@[simp] theorem State.setDerivation_pending (d : Option Derivation) :
    (s.setDerivation d).pending = s.pending := rfl
@[simp] theorem State.setDerivation_links (d : Option Derivation) :
    (s.setDerivation d).links = s.links := rfl
@[simp] theorem State.setDerivation_keys_roots (d : Option Derivation) :
    (s.setDerivation d).keys.roots = s.keys.roots := rfl
@[simp] theorem State.setDerivation_keys_slots (d : Option Derivation) :
    (s.setDerivation d).keys.slots = s.keys.slots := rfl
@[simp] theorem State.setDerivation_keys_waitList (d : Option Derivation) :
    (s.setDerivation d).keys.waitList = s.keys.waitList := rfl
@[simp] theorem State.setDerivation_keys_requests (d : Option Derivation) :
    (s.setDerivation d).keys.requests = s.keys.requests := rfl
@[simp] theorem State.setDerivation_engine (d : Option Derivation) :
    (s.setDerivation d).engine = s.engine := rfl
@[simp] theorem State.setDerivation_sealer (d : Option Derivation) :
    (s.setDerivation d).sealer = s.sealer := rfl
@[simp] theorem State.setDerivation_opener (d : Option Derivation) :
    (s.setDerivation d).opener = s.opener := rfl
@[simp] theorem State.setDerivation_store (d : Option Derivation) :
    (s.setDerivation d).store = s.store := rfl
@[simp] theorem State.setDerivation_trunk (d : Option Derivation) :
    (s.setDerivation d).trunk = s.trunk := rfl
@[simp] theorem State.setDerivation_faults (d : Option Derivation) :
    (s.setDerivation d).faults = s.faults := rfl
@[simp] theorem State.setDerivation_host (d : Option Derivation) :
    (s.setDerivation d).host = s.host := rfl
@[simp] theorem State.setDerivation_draws (d : Option Derivation) :
    (s.setDerivation d).draws = s.draws := rfl
@[simp] theorem State.link_setDerivation (d : Option Derivation) (i : LinkId) :
    (s.setDerivation d).link i = s.link i := rfl
@[simp] theorem State.root_setDerivation (d : Option Derivation) (i : LinkId) :
    (s.setDerivation d).root i = s.root i := rfl
@[simp] theorem State.slot_setDerivation (d : Option Derivation) (i : SlotNo) :
    (s.setDerivation d).slot i = s.slot i := rfl
@[simp] theorem State.desc_setDerivation (d : Option Derivation) (i : DescNo) :
    (s.setDerivation d).desc i = s.desc i := rfl
@[simp] theorem State.queue_setDerivation (d : Option Derivation) (i : LinkId) :
    (s.setDerivation d).queue i = s.queue i := rfl
@[simp] theorem State.receiver_setDerivation (d : Option Derivation) (i : LinkId) :
    (s.setDerivation d).receiver i = s.receiver i := rfl
@[simp] theorem State.transmitter_setDerivation (d : Option Derivation) (i : LinkId) :
    (s.setDerivation d).transmitter i = s.transmitter i := rfl
@[simp] theorem State.monitor_setDerivation (d : Option Derivation) (i : Port) :
    (s.setDerivation d).monitor i = s.monitor i := rfl
@[simp] theorem State.events_setDerivation (d : Option Derivation) (i : LinkId) :
    (s.setDerivation d).events i = s.events i := rfl
@[simp] theorem State.setDesc_pending (d : DescNo) (x : Option Descriptor) :
    (s.setDesc d x).pending = s.pending := rfl
@[simp] theorem State.setDesc_links (d : DescNo) (x : Option Descriptor) :
    (s.setDesc d x).links = s.links := rfl
@[simp] theorem State.setDesc_keys (d : DescNo) (x : Option Descriptor) :
    (s.setDesc d x).keys = s.keys := rfl
@[simp] theorem State.setDesc_engine (d : DescNo) (x : Option Descriptor) :
    (s.setDesc d x).engine = s.engine := rfl
@[simp] theorem State.setDesc_sealer (d : DescNo) (x : Option Descriptor) :
    (s.setDesc d x).sealer = s.sealer := rfl
@[simp] theorem State.setDesc_opener (d : DescNo) (x : Option Descriptor) :
    (s.setDesc d x).opener = s.opener := rfl
@[simp] theorem State.setDesc_store_mem (d : DescNo) (x : Option Descriptor) :
    (s.setDesc d x).store.mem = s.store.mem := rfl
@[simp] theorem State.setDesc_store_queues (d : DescNo) (x : Option Descriptor) :
    (s.setDesc d x).store.queues = s.store.queues := rfl
@[simp] theorem State.setDesc_store_delivery (d : DescNo) (x : Option Descriptor) :
    (s.setDesc d x).store.delivery = s.store.delivery := rfl
@[simp] theorem State.setDesc_trunk (d : DescNo) (x : Option Descriptor) :
    (s.setDesc d x).trunk = s.trunk := rfl
@[simp] theorem State.setDesc_faults (d : DescNo) (x : Option Descriptor) :
    (s.setDesc d x).faults = s.faults := rfl
@[simp] theorem State.setDesc_host (d : DescNo) (x : Option Descriptor) :
    (s.setDesc d x).host = s.host := rfl
@[simp] theorem State.setDesc_draws (d : DescNo) (x : Option Descriptor) :
    (s.setDesc d x).draws = s.draws := rfl
@[simp] theorem State.link_setDesc (d : DescNo) (x : Option Descriptor) (i : LinkId) :
    (s.setDesc d x).link i = s.link i := rfl
@[simp] theorem State.root_setDesc (d : DescNo) (x : Option Descriptor) (i : LinkId) :
    (s.setDesc d x).root i = s.root i := rfl
@[simp] theorem State.slot_setDesc (d : DescNo) (x : Option Descriptor) (i : SlotNo) :
    (s.setDesc d x).slot i = s.slot i := rfl
@[simp] theorem State.queue_setDesc (d : DescNo) (x : Option Descriptor) (i : LinkId) :
    (s.setDesc d x).queue i = s.queue i := rfl
@[simp] theorem State.receiver_setDesc (d : DescNo) (x : Option Descriptor) (i : LinkId) :
    (s.setDesc d x).receiver i = s.receiver i := rfl
@[simp] theorem State.transmitter_setDesc (d : DescNo) (x : Option Descriptor) (i : LinkId) :
    (s.setDesc d x).transmitter i = s.transmitter i := rfl
@[simp] theorem State.monitor_setDesc (d : DescNo) (x : Option Descriptor) (i : Port) :
    (s.setDesc d x).monitor i = s.monitor i := rfl
@[simp] theorem State.events_setDesc (d : DescNo) (x : Option Descriptor) (i : LinkId) :
    (s.setDesc d x).events i = s.events i := rfl
@[simp] theorem State.modDesc_pending (d : DescNo) (f : Descriptor → Descriptor) :
    (s.modDesc d f).pending = s.pending := rfl
@[simp] theorem State.modDesc_links (d : DescNo) (f : Descriptor → Descriptor) :
    (s.modDesc d f).links = s.links := rfl
@[simp] theorem State.modDesc_keys (d : DescNo) (f : Descriptor → Descriptor) :
    (s.modDesc d f).keys = s.keys := rfl
@[simp] theorem State.modDesc_engine (d : DescNo) (f : Descriptor → Descriptor) :
    (s.modDesc d f).engine = s.engine := rfl
@[simp] theorem State.modDesc_sealer (d : DescNo) (f : Descriptor → Descriptor) :
    (s.modDesc d f).sealer = s.sealer := rfl
@[simp] theorem State.modDesc_opener (d : DescNo) (f : Descriptor → Descriptor) :
    (s.modDesc d f).opener = s.opener := rfl
@[simp] theorem State.modDesc_store_mem (d : DescNo) (f : Descriptor → Descriptor) :
    (s.modDesc d f).store.mem = s.store.mem := rfl
@[simp] theorem State.modDesc_store_queues (d : DescNo) (f : Descriptor → Descriptor) :
    (s.modDesc d f).store.queues = s.store.queues := rfl
@[simp] theorem State.modDesc_store_delivery (d : DescNo) (f : Descriptor → Descriptor) :
    (s.modDesc d f).store.delivery = s.store.delivery := rfl
@[simp] theorem State.modDesc_trunk (d : DescNo) (f : Descriptor → Descriptor) :
    (s.modDesc d f).trunk = s.trunk := rfl
@[simp] theorem State.modDesc_faults (d : DescNo) (f : Descriptor → Descriptor) :
    (s.modDesc d f).faults = s.faults := rfl
@[simp] theorem State.modDesc_host (d : DescNo) (f : Descriptor → Descriptor) :
    (s.modDesc d f).host = s.host := rfl
@[simp] theorem State.modDesc_draws (d : DescNo) (f : Descriptor → Descriptor) :
    (s.modDesc d f).draws = s.draws := rfl
@[simp] theorem State.link_modDesc (d : DescNo) (f : Descriptor → Descriptor) (i : LinkId) :
    (s.modDesc d f).link i = s.link i := rfl
@[simp] theorem State.root_modDesc (d : DescNo) (f : Descriptor → Descriptor) (i : LinkId) :
    (s.modDesc d f).root i = s.root i := rfl
@[simp] theorem State.slot_modDesc (d : DescNo) (f : Descriptor → Descriptor) (i : SlotNo) :
    (s.modDesc d f).slot i = s.slot i := rfl
@[simp] theorem State.queue_modDesc (d : DescNo) (f : Descriptor → Descriptor) (i : LinkId) :
    (s.modDesc d f).queue i = s.queue i := rfl
@[simp] theorem State.receiver_modDesc (d : DescNo) (f : Descriptor → Descriptor) (i : LinkId) :
    (s.modDesc d f).receiver i = s.receiver i := rfl
@[simp] theorem State.transmitter_modDesc (d : DescNo) (f : Descriptor → Descriptor) (i : LinkId) :
    (s.modDesc d f).transmitter i = s.transmitter i := rfl
@[simp] theorem State.monitor_modDesc (d : DescNo) (f : Descriptor → Descriptor) (i : Port) :
    (s.modDesc d f).monitor i = s.monitor i := rfl
@[simp] theorem State.events_modDesc (d : DescNo) (f : Descriptor → Descriptor) (i : LinkId) :
    (s.modDesc d f).events i = s.events i := rfl
@[simp] theorem State.freeFrame_pending (d : DescNo) :
    (s.freeFrame d).pending = s.pending := rfl
@[simp] theorem State.freeFrame_links (d : DescNo) :
    (s.freeFrame d).links = s.links := rfl
@[simp] theorem State.freeFrame_keys (d : DescNo) :
    (s.freeFrame d).keys = s.keys := rfl
@[simp] theorem State.freeFrame_engine (d : DescNo) :
    (s.freeFrame d).engine = s.engine := rfl
@[simp] theorem State.freeFrame_sealer (d : DescNo) :
    (s.freeFrame d).sealer = s.sealer := rfl
@[simp] theorem State.freeFrame_opener (d : DescNo) :
    (s.freeFrame d).opener = s.opener := rfl
@[simp] theorem State.freeFrame_store_mem (d : DescNo) :
    (s.freeFrame d).store.mem = s.store.mem := rfl
@[simp] theorem State.freeFrame_store_queues (d : DescNo) :
    (s.freeFrame d).store.queues = s.store.queues := rfl
@[simp] theorem State.freeFrame_store_delivery (d : DescNo) :
    (s.freeFrame d).store.delivery = s.store.delivery := rfl
@[simp] theorem State.freeFrame_trunk (d : DescNo) :
    (s.freeFrame d).trunk = s.trunk := rfl
@[simp] theorem State.freeFrame_faults (d : DescNo) :
    (s.freeFrame d).faults = s.faults := rfl
@[simp] theorem State.freeFrame_host (d : DescNo) :
    (s.freeFrame d).host = s.host := rfl
@[simp] theorem State.freeFrame_draws (d : DescNo) :
    (s.freeFrame d).draws = s.draws := rfl
@[simp] theorem State.link_freeFrame (d : DescNo) (i : LinkId) :
    (s.freeFrame d).link i = s.link i := rfl
@[simp] theorem State.root_freeFrame (d : DescNo) (i : LinkId) :
    (s.freeFrame d).root i = s.root i := rfl
@[simp] theorem State.slot_freeFrame (d : DescNo) (i : SlotNo) :
    (s.freeFrame d).slot i = s.slot i := rfl
@[simp] theorem State.queue_freeFrame (d : DescNo) (i : LinkId) :
    (s.freeFrame d).queue i = s.queue i := rfl
@[simp] theorem State.receiver_freeFrame (d : DescNo) (i : LinkId) :
    (s.freeFrame d).receiver i = s.receiver i := rfl
@[simp] theorem State.transmitter_freeFrame (d : DescNo) (i : LinkId) :
    (s.freeFrame d).transmitter i = s.transmitter i := rfl
@[simp] theorem State.monitor_freeFrame (d : DescNo) (i : Port) :
    (s.freeFrame d).monitor i = s.monitor i := rfl
@[simp] theorem State.events_freeFrame (d : DescNo) (i : LinkId) :
    (s.freeFrame d).events i = s.events i := rfl
@[simp] theorem State.setQueue_pending (l : LinkId) (q : List DescNo) :
    (s.setQueue l q).pending = s.pending := rfl
@[simp] theorem State.setQueue_links (l : LinkId) (q : List DescNo) :
    (s.setQueue l q).links = s.links := rfl
@[simp] theorem State.setQueue_keys (l : LinkId) (q : List DescNo) :
    (s.setQueue l q).keys = s.keys := rfl
@[simp] theorem State.setQueue_engine (l : LinkId) (q : List DescNo) :
    (s.setQueue l q).engine = s.engine := rfl
@[simp] theorem State.setQueue_sealer (l : LinkId) (q : List DescNo) :
    (s.setQueue l q).sealer = s.sealer := rfl
@[simp] theorem State.setQueue_opener (l : LinkId) (q : List DescNo) :
    (s.setQueue l q).opener = s.opener := rfl
@[simp] theorem State.setQueue_store_descs (l : LinkId) (q : List DescNo) :
    (s.setQueue l q).store.descs = s.store.descs := rfl
@[simp] theorem State.setQueue_store_mem (l : LinkId) (q : List DescNo) :
    (s.setQueue l q).store.mem = s.store.mem := rfl
@[simp] theorem State.setQueue_store_delivery (l : LinkId) (q : List DescNo) :
    (s.setQueue l q).store.delivery = s.store.delivery := rfl
@[simp] theorem State.setQueue_trunk (l : LinkId) (q : List DescNo) :
    (s.setQueue l q).trunk = s.trunk := rfl
@[simp] theorem State.setQueue_faults (l : LinkId) (q : List DescNo) :
    (s.setQueue l q).faults = s.faults := rfl
@[simp] theorem State.setQueue_host (l : LinkId) (q : List DescNo) :
    (s.setQueue l q).host = s.host := rfl
@[simp] theorem State.setQueue_draws (l : LinkId) (q : List DescNo) :
    (s.setQueue l q).draws = s.draws := rfl
@[simp] theorem State.link_setQueue (l : LinkId) (q : List DescNo) (i : LinkId) :
    (s.setQueue l q).link i = s.link i := rfl
@[simp] theorem State.root_setQueue (l : LinkId) (q : List DescNo) (i : LinkId) :
    (s.setQueue l q).root i = s.root i := rfl
@[simp] theorem State.slot_setQueue (l : LinkId) (q : List DescNo) (i : SlotNo) :
    (s.setQueue l q).slot i = s.slot i := rfl
@[simp] theorem State.desc_setQueue (l : LinkId) (q : List DescNo) (i : DescNo) :
    (s.setQueue l q).desc i = s.desc i := rfl
@[simp] theorem State.receiver_setQueue (l : LinkId) (q : List DescNo) (i : LinkId) :
    (s.setQueue l q).receiver i = s.receiver i := rfl
@[simp] theorem State.transmitter_setQueue (l : LinkId) (q : List DescNo) (i : LinkId) :
    (s.setQueue l q).transmitter i = s.transmitter i := rfl
@[simp] theorem State.monitor_setQueue (l : LinkId) (q : List DescNo) (i : Port) :
    (s.setQueue l q).monitor i = s.monitor i := rfl
@[simp] theorem State.events_setQueue (l : LinkId) (q : List DescNo) (i : LinkId) :
    (s.setQueue l q).events i = s.events i := rfl
@[simp] theorem State.setDelivery_pending (q : List DescNo) :
    (s.setDelivery q).pending = s.pending := rfl
@[simp] theorem State.setDelivery_links (q : List DescNo) :
    (s.setDelivery q).links = s.links := rfl
@[simp] theorem State.setDelivery_keys (q : List DescNo) :
    (s.setDelivery q).keys = s.keys := rfl
@[simp] theorem State.setDelivery_engine (q : List DescNo) :
    (s.setDelivery q).engine = s.engine := rfl
@[simp] theorem State.setDelivery_sealer (q : List DescNo) :
    (s.setDelivery q).sealer = s.sealer := rfl
@[simp] theorem State.setDelivery_opener (q : List DescNo) :
    (s.setDelivery q).opener = s.opener := rfl
@[simp] theorem State.setDelivery_store_descs (q : List DescNo) :
    (s.setDelivery q).store.descs = s.store.descs := rfl
@[simp] theorem State.setDelivery_store_mem (q : List DescNo) :
    (s.setDelivery q).store.mem = s.store.mem := rfl
@[simp] theorem State.setDelivery_store_queues (q : List DescNo) :
    (s.setDelivery q).store.queues = s.store.queues := rfl
@[simp] theorem State.setDelivery_trunk (q : List DescNo) :
    (s.setDelivery q).trunk = s.trunk := rfl
@[simp] theorem State.setDelivery_faults (q : List DescNo) :
    (s.setDelivery q).faults = s.faults := rfl
@[simp] theorem State.setDelivery_host (q : List DescNo) :
    (s.setDelivery q).host = s.host := rfl
@[simp] theorem State.setDelivery_draws (q : List DescNo) :
    (s.setDelivery q).draws = s.draws := rfl
@[simp] theorem State.link_setDelivery (q : List DescNo) (i : LinkId) :
    (s.setDelivery q).link i = s.link i := rfl
@[simp] theorem State.root_setDelivery (q : List DescNo) (i : LinkId) :
    (s.setDelivery q).root i = s.root i := rfl
@[simp] theorem State.slot_setDelivery (q : List DescNo) (i : SlotNo) :
    (s.setDelivery q).slot i = s.slot i := rfl
@[simp] theorem State.desc_setDelivery (q : List DescNo) (i : DescNo) :
    (s.setDelivery q).desc i = s.desc i := rfl
@[simp] theorem State.queue_setDelivery (q : List DescNo) (i : LinkId) :
    (s.setDelivery q).queue i = s.queue i := rfl
@[simp] theorem State.receiver_setDelivery (q : List DescNo) (i : LinkId) :
    (s.setDelivery q).receiver i = s.receiver i := rfl
@[simp] theorem State.transmitter_setDelivery (q : List DescNo) (i : LinkId) :
    (s.setDelivery q).transmitter i = s.transmitter i := rfl
@[simp] theorem State.monitor_setDelivery (q : List DescNo) (i : Port) :
    (s.setDelivery q).monitor i = s.monitor i := rfl
@[simp] theorem State.events_setDelivery (q : List DescNo) (i : LinkId) :
    (s.setDelivery q).events i = s.events i := rfl
@[simp] theorem State.writeUnits_pending (chain : List UnitNo) (j : Nat) (bs : List Byte) :
    (s.writeUnits chain j bs).pending = s.pending := rfl
@[simp] theorem State.writeUnits_links (chain : List UnitNo) (j : Nat) (bs : List Byte) :
    (s.writeUnits chain j bs).links = s.links := rfl
@[simp] theorem State.writeUnits_keys (chain : List UnitNo) (j : Nat) (bs : List Byte) :
    (s.writeUnits chain j bs).keys = s.keys := rfl
@[simp] theorem State.writeUnits_engine (chain : List UnitNo) (j : Nat) (bs : List Byte) :
    (s.writeUnits chain j bs).engine = s.engine := rfl
@[simp] theorem State.writeUnits_sealer (chain : List UnitNo) (j : Nat) (bs : List Byte) :
    (s.writeUnits chain j bs).sealer = s.sealer := rfl
@[simp] theorem State.writeUnits_opener (chain : List UnitNo) (j : Nat) (bs : List Byte) :
    (s.writeUnits chain j bs).opener = s.opener := rfl
@[simp] theorem State.writeUnits_store_descs (chain : List UnitNo) (j : Nat) (bs : List Byte) :
    (s.writeUnits chain j bs).store.descs = s.store.descs := rfl
@[simp] theorem State.writeUnits_store_queues (chain : List UnitNo) (j : Nat) (bs : List Byte) :
    (s.writeUnits chain j bs).store.queues = s.store.queues := rfl
@[simp] theorem State.writeUnits_store_delivery (chain : List UnitNo) (j : Nat) (bs : List Byte) :
    (s.writeUnits chain j bs).store.delivery = s.store.delivery := rfl
@[simp] theorem State.writeUnits_trunk (chain : List UnitNo) (j : Nat) (bs : List Byte) :
    (s.writeUnits chain j bs).trunk = s.trunk := rfl
@[simp] theorem State.writeUnits_faults (chain : List UnitNo) (j : Nat) (bs : List Byte) :
    (s.writeUnits chain j bs).faults = s.faults := rfl
@[simp] theorem State.writeUnits_host (chain : List UnitNo) (j : Nat) (bs : List Byte) :
    (s.writeUnits chain j bs).host = s.host := rfl
@[simp] theorem State.writeUnits_draws (chain : List UnitNo) (j : Nat) (bs : List Byte) :
    (s.writeUnits chain j bs).draws = s.draws := rfl
@[simp] theorem State.link_writeUnits (chain : List UnitNo) (j : Nat) (bs : List Byte) (i : LinkId) :
    (s.writeUnits chain j bs).link i = s.link i := rfl
@[simp] theorem State.root_writeUnits (chain : List UnitNo) (j : Nat) (bs : List Byte) (i : LinkId) :
    (s.writeUnits chain j bs).root i = s.root i := rfl
@[simp] theorem State.slot_writeUnits (chain : List UnitNo) (j : Nat) (bs : List Byte) (i : SlotNo) :
    (s.writeUnits chain j bs).slot i = s.slot i := rfl
@[simp] theorem State.desc_writeUnits (chain : List UnitNo) (j : Nat) (bs : List Byte) (i : DescNo) :
    (s.writeUnits chain j bs).desc i = s.desc i := rfl
@[simp] theorem State.queue_writeUnits (chain : List UnitNo) (j : Nat) (bs : List Byte) (i : LinkId) :
    (s.writeUnits chain j bs).queue i = s.queue i := rfl
@[simp] theorem State.receiver_writeUnits (chain : List UnitNo) (j : Nat) (bs : List Byte) (i : LinkId) :
    (s.writeUnits chain j bs).receiver i = s.receiver i := rfl
@[simp] theorem State.transmitter_writeUnits (chain : List UnitNo) (j : Nat) (bs : List Byte) (i : LinkId) :
    (s.writeUnits chain j bs).transmitter i = s.transmitter i := rfl
@[simp] theorem State.monitor_writeUnits (chain : List UnitNo) (j : Nat) (bs : List Byte) (i : Port) :
    (s.writeUnits chain j bs).monitor i = s.monitor i := rfl
@[simp] theorem State.events_writeUnits (chain : List UnitNo) (j : Nat) (bs : List Byte) (i : LinkId) :
    (s.writeUnits chain j bs).events i = s.events i := rfl
@[simp] theorem State.setReceiver_pending (l : LinkId) (r : Receiver) :
    (s.setReceiver l r).pending = s.pending := rfl
@[simp] theorem State.setReceiver_links (l : LinkId) (r : Receiver) :
    (s.setReceiver l r).links = s.links := rfl
@[simp] theorem State.setReceiver_keys (l : LinkId) (r : Receiver) :
    (s.setReceiver l r).keys = s.keys := rfl
@[simp] theorem State.setReceiver_engine (l : LinkId) (r : Receiver) :
    (s.setReceiver l r).engine = s.engine := rfl
@[simp] theorem State.setReceiver_sealer (l : LinkId) (r : Receiver) :
    (s.setReceiver l r).sealer = s.sealer := rfl
@[simp] theorem State.setReceiver_opener (l : LinkId) (r : Receiver) :
    (s.setReceiver l r).opener = s.opener := rfl
@[simp] theorem State.setReceiver_store (l : LinkId) (r : Receiver) :
    (s.setReceiver l r).store = s.store := rfl
@[simp] theorem State.setReceiver_trunk_monitorA (l : LinkId) (r : Receiver) :
    (s.setReceiver l r).trunk.monitorA = s.trunk.monitorA := rfl
@[simp] theorem State.setReceiver_trunk_monitorB (l : LinkId) (r : Receiver) :
    (s.setReceiver l r).trunk.monitorB = s.trunk.monitorB := rfl
@[simp] theorem State.setReceiver_trunk_mode (l : LinkId) (r : Receiver) :
    (s.setReceiver l r).trunk.mode = s.trunk.mode := rfl
@[simp] theorem State.setReceiver_trunk_selected (l : LinkId) (r : Receiver) :
    (s.setReceiver l r).trunk.selected = s.trunk.selected := rfl
@[simp] theorem State.setReceiver_trunk_switchCount (l : LinkId) (r : Receiver) :
    (s.setReceiver l r).trunk.switchCount = s.trunk.switchCount := rfl
@[simp] theorem State.setReceiver_trunk_live (l : LinkId) (r : Receiver) :
    (s.setReceiver l r).trunk.live = s.trunk.live := rfl
@[simp] theorem State.setReceiver_trunk_shadow (l : LinkId) (r : Receiver) :
    (s.setReceiver l r).trunk.shadow = s.trunk.shadow := rfl
@[simp] theorem State.setReceiver_trunk_transmitters (l : LinkId) (r : Receiver) :
    (s.setReceiver l r).trunk.transmitters = s.trunk.transmitters := rfl
@[simp] theorem State.setReceiver_trunk_lastCycle (l : LinkId) (r : Receiver) :
    (s.setReceiver l r).trunk.lastCycle = s.trunk.lastCycle := rfl
@[simp] theorem State.setReceiver_faults (l : LinkId) (r : Receiver) :
    (s.setReceiver l r).faults = s.faults := rfl
@[simp] theorem State.setReceiver_host (l : LinkId) (r : Receiver) :
    (s.setReceiver l r).host = s.host := rfl
@[simp] theorem State.setReceiver_draws (l : LinkId) (r : Receiver) :
    (s.setReceiver l r).draws = s.draws := rfl
@[simp] theorem State.link_setReceiver (l : LinkId) (r : Receiver) (i : LinkId) :
    (s.setReceiver l r).link i = s.link i := rfl
@[simp] theorem State.root_setReceiver (l : LinkId) (r : Receiver) (i : LinkId) :
    (s.setReceiver l r).root i = s.root i := rfl
@[simp] theorem State.slot_setReceiver (l : LinkId) (r : Receiver) (i : SlotNo) :
    (s.setReceiver l r).slot i = s.slot i := rfl
@[simp] theorem State.desc_setReceiver (l : LinkId) (r : Receiver) (i : DescNo) :
    (s.setReceiver l r).desc i = s.desc i := rfl
@[simp] theorem State.queue_setReceiver (l : LinkId) (r : Receiver) (i : LinkId) :
    (s.setReceiver l r).queue i = s.queue i := rfl
@[simp] theorem State.transmitter_setReceiver (l : LinkId) (r : Receiver) (i : LinkId) :
    (s.setReceiver l r).transmitter i = s.transmitter i := rfl
@[simp] theorem State.monitor_setReceiver (l : LinkId) (r : Receiver) (i : Port) :
    (s.setReceiver l r).monitor i = s.monitor i := rfl
@[simp] theorem State.events_setReceiver (l : LinkId) (r : Receiver) (i : LinkId) :
    (s.setReceiver l r).events i = s.events i := rfl
@[simp] theorem State.setTransmitter_pending (l : LinkId) (t : Transmitter) :
    (s.setTransmitter l t).pending = s.pending := rfl
@[simp] theorem State.setTransmitter_links (l : LinkId) (t : Transmitter) :
    (s.setTransmitter l t).links = s.links := rfl
@[simp] theorem State.setTransmitter_keys (l : LinkId) (t : Transmitter) :
    (s.setTransmitter l t).keys = s.keys := rfl
@[simp] theorem State.setTransmitter_engine (l : LinkId) (t : Transmitter) :
    (s.setTransmitter l t).engine = s.engine := rfl
@[simp] theorem State.setTransmitter_sealer (l : LinkId) (t : Transmitter) :
    (s.setTransmitter l t).sealer = s.sealer := rfl
@[simp] theorem State.setTransmitter_opener (l : LinkId) (t : Transmitter) :
    (s.setTransmitter l t).opener = s.opener := rfl
@[simp] theorem State.setTransmitter_store (l : LinkId) (t : Transmitter) :
    (s.setTransmitter l t).store = s.store := rfl
@[simp] theorem State.setTransmitter_trunk_monitorA (l : LinkId) (t : Transmitter) :
    (s.setTransmitter l t).trunk.monitorA = s.trunk.monitorA := rfl
@[simp] theorem State.setTransmitter_trunk_monitorB (l : LinkId) (t : Transmitter) :
    (s.setTransmitter l t).trunk.monitorB = s.trunk.monitorB := rfl
@[simp] theorem State.setTransmitter_trunk_mode (l : LinkId) (t : Transmitter) :
    (s.setTransmitter l t).trunk.mode = s.trunk.mode := rfl
@[simp] theorem State.setTransmitter_trunk_selected (l : LinkId) (t : Transmitter) :
    (s.setTransmitter l t).trunk.selected = s.trunk.selected := rfl
@[simp] theorem State.setTransmitter_trunk_switchCount (l : LinkId) (t : Transmitter) :
    (s.setTransmitter l t).trunk.switchCount = s.trunk.switchCount := rfl
@[simp] theorem State.setTransmitter_trunk_live (l : LinkId) (t : Transmitter) :
    (s.setTransmitter l t).trunk.live = s.trunk.live := rfl
@[simp] theorem State.setTransmitter_trunk_shadow (l : LinkId) (t : Transmitter) :
    (s.setTransmitter l t).trunk.shadow = s.trunk.shadow := rfl
@[simp] theorem State.setTransmitter_trunk_receivers (l : LinkId) (t : Transmitter) :
    (s.setTransmitter l t).trunk.receivers = s.trunk.receivers := rfl
@[simp] theorem State.setTransmitter_trunk_lastCycle (l : LinkId) (t : Transmitter) :
    (s.setTransmitter l t).trunk.lastCycle = s.trunk.lastCycle := rfl
@[simp] theorem State.setTransmitter_faults (l : LinkId) (t : Transmitter) :
    (s.setTransmitter l t).faults = s.faults := rfl
@[simp] theorem State.setTransmitter_host (l : LinkId) (t : Transmitter) :
    (s.setTransmitter l t).host = s.host := rfl
@[simp] theorem State.setTransmitter_draws (l : LinkId) (t : Transmitter) :
    (s.setTransmitter l t).draws = s.draws := rfl
@[simp] theorem State.link_setTransmitter (l : LinkId) (t : Transmitter) (i : LinkId) :
    (s.setTransmitter l t).link i = s.link i := rfl
@[simp] theorem State.root_setTransmitter (l : LinkId) (t : Transmitter) (i : LinkId) :
    (s.setTransmitter l t).root i = s.root i := rfl
@[simp] theorem State.slot_setTransmitter (l : LinkId) (t : Transmitter) (i : SlotNo) :
    (s.setTransmitter l t).slot i = s.slot i := rfl
@[simp] theorem State.desc_setTransmitter (l : LinkId) (t : Transmitter) (i : DescNo) :
    (s.setTransmitter l t).desc i = s.desc i := rfl
@[simp] theorem State.queue_setTransmitter (l : LinkId) (t : Transmitter) (i : LinkId) :
    (s.setTransmitter l t).queue i = s.queue i := rfl
@[simp] theorem State.receiver_setTransmitter (l : LinkId) (t : Transmitter) (i : LinkId) :
    (s.setTransmitter l t).receiver i = s.receiver i := rfl
@[simp] theorem State.monitor_setTransmitter (l : LinkId) (t : Transmitter) (i : Port) :
    (s.setTransmitter l t).monitor i = s.monitor i := rfl
@[simp] theorem State.events_setTransmitter (l : LinkId) (t : Transmitter) (i : LinkId) :
    (s.setTransmitter l t).events i = s.events i := rfl
@[simp] theorem State.setMonitor_pending (p : Port) (m : Monitor) :
    (s.setMonitor p m).pending = s.pending := by cases p <;> rfl
@[simp] theorem State.setMonitor_links (p : Port) (m : Monitor) :
    (s.setMonitor p m).links = s.links := by cases p <;> rfl
@[simp] theorem State.setMonitor_keys (p : Port) (m : Monitor) :
    (s.setMonitor p m).keys = s.keys := by cases p <;> rfl
@[simp] theorem State.setMonitor_engine (p : Port) (m : Monitor) :
    (s.setMonitor p m).engine = s.engine := by cases p <;> rfl
@[simp] theorem State.setMonitor_sealer (p : Port) (m : Monitor) :
    (s.setMonitor p m).sealer = s.sealer := by cases p <;> rfl
@[simp] theorem State.setMonitor_opener (p : Port) (m : Monitor) :
    (s.setMonitor p m).opener = s.opener := by cases p <;> rfl
@[simp] theorem State.setMonitor_store (p : Port) (m : Monitor) :
    (s.setMonitor p m).store = s.store := by cases p <;> rfl
@[simp] theorem State.setMonitor_trunk_mode (p : Port) (m : Monitor) :
    (s.setMonitor p m).trunk.mode = s.trunk.mode := by cases p <;> rfl
@[simp] theorem State.setMonitor_trunk_selected (p : Port) (m : Monitor) :
    (s.setMonitor p m).trunk.selected = s.trunk.selected := by cases p <;> rfl
@[simp] theorem State.setMonitor_trunk_switchCount (p : Port) (m : Monitor) :
    (s.setMonitor p m).trunk.switchCount = s.trunk.switchCount := by cases p <;> rfl
@[simp] theorem State.setMonitor_trunk_live (p : Port) (m : Monitor) :
    (s.setMonitor p m).trunk.live = s.trunk.live := by cases p <;> rfl
@[simp] theorem State.setMonitor_trunk_shadow (p : Port) (m : Monitor) :
    (s.setMonitor p m).trunk.shadow = s.trunk.shadow := by cases p <;> rfl
@[simp] theorem State.setMonitor_trunk_receivers (p : Port) (m : Monitor) :
    (s.setMonitor p m).trunk.receivers = s.trunk.receivers := by cases p <;> rfl
@[simp] theorem State.setMonitor_trunk_transmitters (p : Port) (m : Monitor) :
    (s.setMonitor p m).trunk.transmitters = s.trunk.transmitters := by cases p <;> rfl
@[simp] theorem State.setMonitor_trunk_lastCycle (p : Port) (m : Monitor) :
    (s.setMonitor p m).trunk.lastCycle = s.trunk.lastCycle := by cases p <;> rfl
@[simp] theorem State.setMonitor_faults (p : Port) (m : Monitor) :
    (s.setMonitor p m).faults = s.faults := by cases p <;> rfl
@[simp] theorem State.setMonitor_host (p : Port) (m : Monitor) :
    (s.setMonitor p m).host = s.host := by cases p <;> rfl
@[simp] theorem State.setMonitor_draws (p : Port) (m : Monitor) :
    (s.setMonitor p m).draws = s.draws := by cases p <;> rfl
@[simp] theorem State.link_setMonitor (p : Port) (m : Monitor) (i : LinkId) :
    (s.setMonitor p m).link i = s.link i := by cases p <;> rfl
@[simp] theorem State.root_setMonitor (p : Port) (m : Monitor) (i : LinkId) :
    (s.setMonitor p m).root i = s.root i := by cases p <;> rfl
@[simp] theorem State.slot_setMonitor (p : Port) (m : Monitor) (i : SlotNo) :
    (s.setMonitor p m).slot i = s.slot i := by cases p <;> rfl
@[simp] theorem State.desc_setMonitor (p : Port) (m : Monitor) (i : DescNo) :
    (s.setMonitor p m).desc i = s.desc i := by cases p <;> rfl
@[simp] theorem State.queue_setMonitor (p : Port) (m : Monitor) (i : LinkId) :
    (s.setMonitor p m).queue i = s.queue i := by cases p <;> rfl
@[simp] theorem State.receiver_setMonitor (p : Port) (m : Monitor) (i : LinkId) :
    (s.setMonitor p m).receiver i = s.receiver i := by cases p <;> rfl
@[simp] theorem State.transmitter_setMonitor (p : Port) (m : Monitor) (i : LinkId) :
    (s.setMonitor p m).transmitter i = s.transmitter i := by cases p <;> rfl
@[simp] theorem State.events_setMonitor (p : Port) (m : Monitor) (i : LinkId) :
    (s.setMonitor p m).events i = s.events i := by cases p <;> rfl
@[simp] theorem State.setSealing_pending (r : Option Sealing) :
    (s.setSealing r).pending = s.pending := rfl
@[simp] theorem State.setSealing_links (r : Option Sealing) :
    (s.setSealing r).links = s.links := rfl
@[simp] theorem State.setSealing_keys (r : Option Sealing) :
    (s.setSealing r).keys = s.keys := rfl
@[simp] theorem State.setSealing_engine (r : Option Sealing) :
    (s.setSealing r).engine = s.engine := rfl
@[simp] theorem State.setSealing_sealer_requests (r : Option Sealing) :
    (s.setSealing r).sealer.requests = s.sealer.requests := rfl
@[simp] theorem State.setSealing_sealer_control (r : Option Sealing) :
    (s.setSealing r).sealer.control = s.sealer.control := rfl
@[simp] theorem State.setSealing_sealer_controlHeader (r : Option Sealing) :
    (s.setSealing r).sealer.controlHeader = s.sealer.controlHeader := rfl
@[simp] theorem State.setSealing_sealer_controlTag (r : Option Sealing) :
    (s.setSealing r).sealer.controlTag = s.sealer.controlTag := rfl
@[simp] theorem State.setSealing_opener (r : Option Sealing) :
    (s.setSealing r).opener = s.opener := rfl
@[simp] theorem State.setSealing_store (r : Option Sealing) :
    (s.setSealing r).store = s.store := rfl
@[simp] theorem State.setSealing_trunk (r : Option Sealing) :
    (s.setSealing r).trunk = s.trunk := rfl
@[simp] theorem State.setSealing_faults (r : Option Sealing) :
    (s.setSealing r).faults = s.faults := rfl
@[simp] theorem State.setSealing_host (r : Option Sealing) :
    (s.setSealing r).host = s.host := rfl
@[simp] theorem State.setSealing_draws (r : Option Sealing) :
    (s.setSealing r).draws = s.draws := rfl
@[simp] theorem State.link_setSealing (r : Option Sealing) (i : LinkId) :
    (s.setSealing r).link i = s.link i := rfl
@[simp] theorem State.root_setSealing (r : Option Sealing) (i : LinkId) :
    (s.setSealing r).root i = s.root i := rfl
@[simp] theorem State.slot_setSealing (r : Option Sealing) (i : SlotNo) :
    (s.setSealing r).slot i = s.slot i := rfl
@[simp] theorem State.desc_setSealing (r : Option Sealing) (i : DescNo) :
    (s.setSealing r).desc i = s.desc i := rfl
@[simp] theorem State.queue_setSealing (r : Option Sealing) (i : LinkId) :
    (s.setSealing r).queue i = s.queue i := rfl
@[simp] theorem State.receiver_setSealing (r : Option Sealing) (i : LinkId) :
    (s.setSealing r).receiver i = s.receiver i := rfl
@[simp] theorem State.transmitter_setSealing (r : Option Sealing) (i : LinkId) :
    (s.setSealing r).transmitter i = s.transmitter i := rfl
@[simp] theorem State.monitor_setSealing (r : Option Sealing) (i : Port) :
    (s.setSealing r).monitor i = s.monitor i := rfl
@[simp] theorem State.events_setSealing (r : Option Sealing) (i : LinkId) :
    (s.setSealing r).events i = s.events i := rfl
@[simp] theorem State.setSealRequests_pending (r : List LinkId) :
    (s.setSealRequests r).pending = s.pending := rfl
@[simp] theorem State.setSealRequests_links (r : List LinkId) :
    (s.setSealRequests r).links = s.links := rfl
@[simp] theorem State.setSealRequests_keys (r : List LinkId) :
    (s.setSealRequests r).keys = s.keys := rfl
@[simp] theorem State.setSealRequests_engine (r : List LinkId) :
    (s.setSealRequests r).engine = s.engine := rfl
@[simp] theorem State.setSealRequests_sealer_current (r : List LinkId) :
    (s.setSealRequests r).sealer.current = s.sealer.current := rfl
@[simp] theorem State.setSealRequests_sealer_control (r : List LinkId) :
    (s.setSealRequests r).sealer.control = s.sealer.control := rfl
@[simp] theorem State.setSealRequests_sealer_controlHeader (r : List LinkId) :
    (s.setSealRequests r).sealer.controlHeader = s.sealer.controlHeader := rfl
@[simp] theorem State.setSealRequests_sealer_controlTag (r : List LinkId) :
    (s.setSealRequests r).sealer.controlTag = s.sealer.controlTag := rfl
@[simp] theorem State.setSealRequests_opener (r : List LinkId) :
    (s.setSealRequests r).opener = s.opener := rfl
@[simp] theorem State.setSealRequests_store (r : List LinkId) :
    (s.setSealRequests r).store = s.store := rfl
@[simp] theorem State.setSealRequests_trunk (r : List LinkId) :
    (s.setSealRequests r).trunk = s.trunk := rfl
@[simp] theorem State.setSealRequests_faults (r : List LinkId) :
    (s.setSealRequests r).faults = s.faults := rfl
@[simp] theorem State.setSealRequests_host (r : List LinkId) :
    (s.setSealRequests r).host = s.host := rfl
@[simp] theorem State.setSealRequests_draws (r : List LinkId) :
    (s.setSealRequests r).draws = s.draws := rfl
@[simp] theorem State.link_setSealRequests (r : List LinkId) (i : LinkId) :
    (s.setSealRequests r).link i = s.link i := rfl
@[simp] theorem State.root_setSealRequests (r : List LinkId) (i : LinkId) :
    (s.setSealRequests r).root i = s.root i := rfl
@[simp] theorem State.slot_setSealRequests (r : List LinkId) (i : SlotNo) :
    (s.setSealRequests r).slot i = s.slot i := rfl
@[simp] theorem State.desc_setSealRequests (r : List LinkId) (i : DescNo) :
    (s.setSealRequests r).desc i = s.desc i := rfl
@[simp] theorem State.queue_setSealRequests (r : List LinkId) (i : LinkId) :
    (s.setSealRequests r).queue i = s.queue i := rfl
@[simp] theorem State.receiver_setSealRequests (r : List LinkId) (i : LinkId) :
    (s.setSealRequests r).receiver i = s.receiver i := rfl
@[simp] theorem State.transmitter_setSealRequests (r : List LinkId) (i : LinkId) :
    (s.setSealRequests r).transmitter i = s.transmitter i := rfl
@[simp] theorem State.monitor_setSealRequests (r : List LinkId) (i : Port) :
    (s.setSealRequests r).monitor i = s.monitor i := rfl
@[simp] theorem State.events_setSealRequests (r : List LinkId) (i : LinkId) :
    (s.setSealRequests r).events i = s.events i := rfl
@[simp] theorem State.setOpening_pending (r : Option Opening) :
    (s.setOpening r).pending = s.pending := rfl
@[simp] theorem State.setOpening_links (r : Option Opening) :
    (s.setOpening r).links = s.links := rfl
@[simp] theorem State.setOpening_keys (r : Option Opening) :
    (s.setOpening r).keys = s.keys := rfl
@[simp] theorem State.setOpening_engine (r : Option Opening) :
    (s.setOpening r).engine = s.engine := rfl
@[simp] theorem State.setOpening_sealer (r : Option Opening) :
    (s.setOpening r).sealer = s.sealer := rfl
@[simp] theorem State.setOpening_opener_waiting (r : Option Opening) :
    (s.setOpening r).opener.waiting = s.opener.waiting := rfl
@[simp] theorem State.setOpening_store (r : Option Opening) :
    (s.setOpening r).store = s.store := rfl
@[simp] theorem State.setOpening_trunk (r : Option Opening) :
    (s.setOpening r).trunk = s.trunk := rfl
@[simp] theorem State.setOpening_faults (r : Option Opening) :
    (s.setOpening r).faults = s.faults := rfl
@[simp] theorem State.setOpening_host (r : Option Opening) :
    (s.setOpening r).host = s.host := rfl
@[simp] theorem State.setOpening_draws (r : Option Opening) :
    (s.setOpening r).draws = s.draws := rfl
@[simp] theorem State.link_setOpening (r : Option Opening) (i : LinkId) :
    (s.setOpening r).link i = s.link i := rfl
@[simp] theorem State.root_setOpening (r : Option Opening) (i : LinkId) :
    (s.setOpening r).root i = s.root i := rfl
@[simp] theorem State.slot_setOpening (r : Option Opening) (i : SlotNo) :
    (s.setOpening r).slot i = s.slot i := rfl
@[simp] theorem State.desc_setOpening (r : Option Opening) (i : DescNo) :
    (s.setOpening r).desc i = s.desc i := rfl
@[simp] theorem State.queue_setOpening (r : Option Opening) (i : LinkId) :
    (s.setOpening r).queue i = s.queue i := rfl
@[simp] theorem State.receiver_setOpening (r : Option Opening) (i : LinkId) :
    (s.setOpening r).receiver i = s.receiver i := rfl
@[simp] theorem State.transmitter_setOpening (r : Option Opening) (i : LinkId) :
    (s.setOpening r).transmitter i = s.transmitter i := rfl
@[simp] theorem State.monitor_setOpening (r : Option Opening) (i : Port) :
    (s.setOpening r).monitor i = s.monitor i := rfl
@[simp] theorem State.events_setOpening (r : Option Opening) (i : LinkId) :
    (s.setOpening r).events i = s.events i := rfl
@[simp] theorem State.setOpenList_pending (w : List DescNo) :
    (s.setOpenList w).pending = s.pending := rfl
@[simp] theorem State.setOpenList_links (w : List DescNo) :
    (s.setOpenList w).links = s.links := rfl
@[simp] theorem State.setOpenList_keys (w : List DescNo) :
    (s.setOpenList w).keys = s.keys := rfl
@[simp] theorem State.setOpenList_engine (w : List DescNo) :
    (s.setOpenList w).engine = s.engine := rfl
@[simp] theorem State.setOpenList_sealer (w : List DescNo) :
    (s.setOpenList w).sealer = s.sealer := rfl
@[simp] theorem State.setOpenList_opener_current (w : List DescNo) :
    (s.setOpenList w).opener.current = s.opener.current := rfl
@[simp] theorem State.setOpenList_store (w : List DescNo) :
    (s.setOpenList w).store = s.store := rfl
@[simp] theorem State.setOpenList_trunk (w : List DescNo) :
    (s.setOpenList w).trunk = s.trunk := rfl
@[simp] theorem State.setOpenList_faults (w : List DescNo) :
    (s.setOpenList w).faults = s.faults := rfl
@[simp] theorem State.setOpenList_host (w : List DescNo) :
    (s.setOpenList w).host = s.host := rfl
@[simp] theorem State.setOpenList_draws (w : List DescNo) :
    (s.setOpenList w).draws = s.draws := rfl
@[simp] theorem State.link_setOpenList (w : List DescNo) (i : LinkId) :
    (s.setOpenList w).link i = s.link i := rfl
@[simp] theorem State.root_setOpenList (w : List DescNo) (i : LinkId) :
    (s.setOpenList w).root i = s.root i := rfl
@[simp] theorem State.slot_setOpenList (w : List DescNo) (i : SlotNo) :
    (s.setOpenList w).slot i = s.slot i := rfl
@[simp] theorem State.desc_setOpenList (w : List DescNo) (i : DescNo) :
    (s.setOpenList w).desc i = s.desc i := rfl
@[simp] theorem State.queue_setOpenList (w : List DescNo) (i : LinkId) :
    (s.setOpenList w).queue i = s.queue i := rfl
@[simp] theorem State.receiver_setOpenList (w : List DescNo) (i : LinkId) :
    (s.setOpenList w).receiver i = s.receiver i := rfl
@[simp] theorem State.transmitter_setOpenList (w : List DescNo) (i : LinkId) :
    (s.setOpenList w).transmitter i = s.transmitter i := rfl
@[simp] theorem State.monitor_setOpenList (w : List DescNo) (i : Port) :
    (s.setOpenList w).monitor i = s.monitor i := rfl
@[simp] theorem State.events_setOpenList (w : List DescNo) (i : LinkId) :
    (s.setOpenList w).events i = s.events i := rfl
@[simp] theorem State.modHost_pending (f : HostPort → HostPort) :
    (s.modHost f).pending = s.pending := rfl
@[simp] theorem State.modHost_links (f : HostPort → HostPort) :
    (s.modHost f).links = s.links := rfl
@[simp] theorem State.modHost_keys (f : HostPort → HostPort) :
    (s.modHost f).keys = s.keys := rfl
@[simp] theorem State.modHost_engine (f : HostPort → HostPort) :
    (s.modHost f).engine = s.engine := rfl
@[simp] theorem State.modHost_sealer (f : HostPort → HostPort) :
    (s.modHost f).sealer = s.sealer := rfl
@[simp] theorem State.modHost_opener (f : HostPort → HostPort) :
    (s.modHost f).opener = s.opener := rfl
@[simp] theorem State.modHost_store (f : HostPort → HostPort) :
    (s.modHost f).store = s.store := rfl
@[simp] theorem State.modHost_trunk (f : HostPort → HostPort) :
    (s.modHost f).trunk = s.trunk := rfl
@[simp] theorem State.modHost_faults (f : HostPort → HostPort) :
    (s.modHost f).faults = s.faults := rfl
@[simp] theorem State.modHost_draws (f : HostPort → HostPort) :
    (s.modHost f).draws = s.draws := rfl
@[simp] theorem State.link_modHost (f : HostPort → HostPort) (i : LinkId) :
    (s.modHost f).link i = s.link i := rfl
@[simp] theorem State.root_modHost (f : HostPort → HostPort) (i : LinkId) :
    (s.modHost f).root i = s.root i := rfl
@[simp] theorem State.slot_modHost (f : HostPort → HostPort) (i : SlotNo) :
    (s.modHost f).slot i = s.slot i := rfl
@[simp] theorem State.desc_modHost (f : HostPort → HostPort) (i : DescNo) :
    (s.modHost f).desc i = s.desc i := rfl
@[simp] theorem State.queue_modHost (f : HostPort → HostPort) (i : LinkId) :
    (s.modHost f).queue i = s.queue i := rfl
@[simp] theorem State.receiver_modHost (f : HostPort → HostPort) (i : LinkId) :
    (s.modHost f).receiver i = s.receiver i := rfl
@[simp] theorem State.transmitter_modHost (f : HostPort → HostPort) (i : LinkId) :
    (s.modHost f).transmitter i = s.transmitter i := rfl
@[simp] theorem State.monitor_modHost (f : HostPort → HostPort) (i : Port) :
    (s.modHost f).monitor i = s.monitor i := rfl
@[simp] theorem State.events_modHost (f : HostPort → HostPort) (i : LinkId) :
    (s.modHost f).events i = s.events i := rfl
@[simp] theorem State.modFaults_pending (f : Supervisor → Supervisor) :
    (s.modFaults f).pending = s.pending := rfl
@[simp] theorem State.modFaults_links (f : Supervisor → Supervisor) :
    (s.modFaults f).links = s.links := rfl
@[simp] theorem State.modFaults_keys (f : Supervisor → Supervisor) :
    (s.modFaults f).keys = s.keys := rfl
@[simp] theorem State.modFaults_engine (f : Supervisor → Supervisor) :
    (s.modFaults f).engine = s.engine := rfl
@[simp] theorem State.modFaults_sealer (f : Supervisor → Supervisor) :
    (s.modFaults f).sealer = s.sealer := rfl
@[simp] theorem State.modFaults_opener (f : Supervisor → Supervisor) :
    (s.modFaults f).opener = s.opener := rfl
@[simp] theorem State.modFaults_store (f : Supervisor → Supervisor) :
    (s.modFaults f).store = s.store := rfl
@[simp] theorem State.modFaults_trunk (f : Supervisor → Supervisor) :
    (s.modFaults f).trunk = s.trunk := rfl
@[simp] theorem State.modFaults_host (f : Supervisor → Supervisor) :
    (s.modFaults f).host = s.host := rfl
@[simp] theorem State.modFaults_draws (f : Supervisor → Supervisor) :
    (s.modFaults f).draws = s.draws := rfl
@[simp] theorem State.link_modFaults (f : Supervisor → Supervisor) (i : LinkId) :
    (s.modFaults f).link i = s.link i := rfl
@[simp] theorem State.root_modFaults (f : Supervisor → Supervisor) (i : LinkId) :
    (s.modFaults f).root i = s.root i := rfl
@[simp] theorem State.slot_modFaults (f : Supervisor → Supervisor) (i : SlotNo) :
    (s.modFaults f).slot i = s.slot i := rfl
@[simp] theorem State.desc_modFaults (f : Supervisor → Supervisor) (i : DescNo) :
    (s.modFaults f).desc i = s.desc i := rfl
@[simp] theorem State.queue_modFaults (f : Supervisor → Supervisor) (i : LinkId) :
    (s.modFaults f).queue i = s.queue i := rfl
@[simp] theorem State.receiver_modFaults (f : Supervisor → Supervisor) (i : LinkId) :
    (s.modFaults f).receiver i = s.receiver i := rfl
@[simp] theorem State.transmitter_modFaults (f : Supervisor → Supervisor) (i : LinkId) :
    (s.modFaults f).transmitter i = s.transmitter i := rfl
@[simp] theorem State.monitor_modFaults (f : Supervisor → Supervisor) (i : Port) :
    (s.modFaults f).monitor i = s.monitor i := rfl
@[simp] theorem State.count_pending (l : LinkId) (c : Counter) :
    (s.count l c).pending = s.pending := rfl
@[simp] theorem State.count_keys (l : LinkId) (c : Counter) :
    (s.count l c).keys = s.keys := rfl
@[simp] theorem State.count_engine (l : LinkId) (c : Counter) :
    (s.count l c).engine = s.engine := rfl
@[simp] theorem State.count_sealer (l : LinkId) (c : Counter) :
    (s.count l c).sealer = s.sealer := rfl
@[simp] theorem State.count_opener (l : LinkId) (c : Counter) :
    (s.count l c).opener = s.opener := rfl
@[simp] theorem State.count_store (l : LinkId) (c : Counter) :
    (s.count l c).store = s.store := rfl
@[simp] theorem State.count_trunk (l : LinkId) (c : Counter) :
    (s.count l c).trunk = s.trunk := rfl
@[simp] theorem State.count_faults (l : LinkId) (c : Counter) :
    (s.count l c).faults = s.faults := rfl
@[simp] theorem State.count_host (l : LinkId) (c : Counter) :
    (s.count l c).host = s.host := rfl
@[simp] theorem State.count_draws (l : LinkId) (c : Counter) :
    (s.count l c).draws = s.draws := rfl
@[simp] theorem State.root_count (l : LinkId) (c : Counter) (i : LinkId) :
    (s.count l c).root i = s.root i := rfl
@[simp] theorem State.slot_count (l : LinkId) (c : Counter) (i : SlotNo) :
    (s.count l c).slot i = s.slot i := rfl
@[simp] theorem State.desc_count (l : LinkId) (c : Counter) (i : DescNo) :
    (s.count l c).desc i = s.desc i := rfl
@[simp] theorem State.queue_count (l : LinkId) (c : Counter) (i : LinkId) :
    (s.count l c).queue i = s.queue i := rfl
@[simp] theorem State.receiver_count (l : LinkId) (c : Counter) (i : LinkId) :
    (s.count l c).receiver i = s.receiver i := rfl
@[simp] theorem State.transmitter_count (l : LinkId) (c : Counter) (i : LinkId) :
    (s.count l c).transmitter i = s.transmitter i := rfl
@[simp] theorem State.monitor_count (l : LinkId) (c : Counter) (i : Port) :
    (s.count l c).monitor i = s.monitor i := rfl
@[simp] theorem State.events_count (l : LinkId) (c : Counter) (i : LinkId) :
    (s.count l c).events i = s.events i := rfl
@[simp] theorem State.modEvents_pending (l : LinkId) (f : LinkEvents → LinkEvents) :
    (s.modEvents l f).pending = s.pending := rfl
@[simp] theorem State.modEvents_links (l : LinkId) (f : LinkEvents → LinkEvents) :
    (s.modEvents l f).links = s.links := rfl
@[simp] theorem State.modEvents_keys (l : LinkId) (f : LinkEvents → LinkEvents) :
    (s.modEvents l f).keys = s.keys := rfl
@[simp] theorem State.modEvents_engine (l : LinkId) (f : LinkEvents → LinkEvents) :
    (s.modEvents l f).engine = s.engine := rfl
@[simp] theorem State.modEvents_sealer (l : LinkId) (f : LinkEvents → LinkEvents) :
    (s.modEvents l f).sealer = s.sealer := rfl
@[simp] theorem State.modEvents_opener (l : LinkId) (f : LinkEvents → LinkEvents) :
    (s.modEvents l f).opener = s.opener := rfl
@[simp] theorem State.modEvents_store (l : LinkId) (f : LinkEvents → LinkEvents) :
    (s.modEvents l f).store = s.store := rfl
@[simp] theorem State.modEvents_trunk (l : LinkId) (f : LinkEvents → LinkEvents) :
    (s.modEvents l f).trunk = s.trunk := rfl
@[simp] theorem State.modEvents_host (l : LinkId) (f : LinkEvents → LinkEvents) :
    (s.modEvents l f).host = s.host := rfl
@[simp] theorem State.modEvents_draws (l : LinkId) (f : LinkEvents → LinkEvents) :
    (s.modEvents l f).draws = s.draws := rfl
@[simp] theorem State.link_modEvents (l : LinkId) (f : LinkEvents → LinkEvents) (i : LinkId) :
    (s.modEvents l f).link i = s.link i := rfl
@[simp] theorem State.root_modEvents (l : LinkId) (f : LinkEvents → LinkEvents) (i : LinkId) :
    (s.modEvents l f).root i = s.root i := rfl
@[simp] theorem State.slot_modEvents (l : LinkId) (f : LinkEvents → LinkEvents) (i : SlotNo) :
    (s.modEvents l f).slot i = s.slot i := rfl
@[simp] theorem State.desc_modEvents (l : LinkId) (f : LinkEvents → LinkEvents) (i : DescNo) :
    (s.modEvents l f).desc i = s.desc i := rfl
@[simp] theorem State.queue_modEvents (l : LinkId) (f : LinkEvents → LinkEvents) (i : LinkId) :
    (s.modEvents l f).queue i = s.queue i := rfl
@[simp] theorem State.receiver_modEvents (l : LinkId) (f : LinkEvents → LinkEvents) (i : LinkId) :
    (s.modEvents l f).receiver i = s.receiver i := rfl
@[simp] theorem State.transmitter_modEvents (l : LinkId) (f : LinkEvents → LinkEvents) (i : LinkId) :
    (s.modEvents l f).transmitter i = s.transmitter i := rfl
@[simp] theorem State.monitor_modEvents (l : LinkId) (f : LinkEvents → LinkEvents) (i : Port) :
    (s.modEvents l f).monitor i = s.monitor i := rfl
@[simp] theorem State.listNotice_pending (n : NoticeItem) :
    (s.listNotice n).pending = s.pending := rfl
@[simp] theorem State.listNotice_links (n : NoticeItem) :
    (s.listNotice n).links = s.links := rfl
@[simp] theorem State.listNotice_keys (n : NoticeItem) :
    (s.listNotice n).keys = s.keys := rfl
@[simp] theorem State.listNotice_engine (n : NoticeItem) :
    (s.listNotice n).engine = s.engine := rfl
@[simp] theorem State.listNotice_sealer (n : NoticeItem) :
    (s.listNotice n).sealer = s.sealer := rfl
@[simp] theorem State.listNotice_opener (n : NoticeItem) :
    (s.listNotice n).opener = s.opener := rfl
@[simp] theorem State.listNotice_store (n : NoticeItem) :
    (s.listNotice n).store = s.store := rfl
@[simp] theorem State.listNotice_trunk (n : NoticeItem) :
    (s.listNotice n).trunk = s.trunk := rfl
@[simp] theorem State.listNotice_faults (n : NoticeItem) :
    (s.listNotice n).faults = s.faults := rfl
@[simp] theorem State.listNotice_draws (n : NoticeItem) :
    (s.listNotice n).draws = s.draws := rfl
@[simp] theorem State.link_listNotice (n : NoticeItem) (i : LinkId) :
    (s.listNotice n).link i = s.link i := rfl
@[simp] theorem State.root_listNotice (n : NoticeItem) (i : LinkId) :
    (s.listNotice n).root i = s.root i := rfl
@[simp] theorem State.slot_listNotice (n : NoticeItem) (i : SlotNo) :
    (s.listNotice n).slot i = s.slot i := rfl
@[simp] theorem State.desc_listNotice (n : NoticeItem) (i : DescNo) :
    (s.listNotice n).desc i = s.desc i := rfl
@[simp] theorem State.queue_listNotice (n : NoticeItem) (i : LinkId) :
    (s.listNotice n).queue i = s.queue i := rfl
@[simp] theorem State.receiver_listNotice (n : NoticeItem) (i : LinkId) :
    (s.listNotice n).receiver i = s.receiver i := rfl
@[simp] theorem State.transmitter_listNotice (n : NoticeItem) (i : LinkId) :
    (s.listNotice n).transmitter i = s.transmitter i := rfl
@[simp] theorem State.monitor_listNotice (n : NoticeItem) (i : Port) :
    (s.listNotice n).monitor i = s.monitor i := rfl
@[simp] theorem State.events_listNotice (n : NoticeItem) (i : LinkId) :
    (s.listNotice n).events i = s.events i := rfl
@[simp] theorem State.setLine_pending (r : Option LineRecord) :
    (s.setLine r).pending = s.pending := rfl
@[simp] theorem State.setLine_links (r : Option LineRecord) :
    (s.setLine r).links = s.links := rfl
@[simp] theorem State.setLine_keys (r : Option LineRecord) :
    (s.setLine r).keys = s.keys := rfl
@[simp] theorem State.setLine_engine (r : Option LineRecord) :
    (s.setLine r).engine = s.engine := rfl
@[simp] theorem State.setLine_sealer (r : Option LineRecord) :
    (s.setLine r).sealer = s.sealer := rfl
@[simp] theorem State.setLine_opener (r : Option LineRecord) :
    (s.setLine r).opener = s.opener := rfl
@[simp] theorem State.setLine_store (r : Option LineRecord) :
    (s.setLine r).store = s.store := rfl
@[simp] theorem State.setLine_trunk (r : Option LineRecord) :
    (s.setLine r).trunk = s.trunk := rfl
@[simp] theorem State.setLine_faults (r : Option LineRecord) :
    (s.setLine r).faults = s.faults := rfl
@[simp] theorem State.setLine_draws (r : Option LineRecord) :
    (s.setLine r).draws = s.draws := rfl
@[simp] theorem State.link_setLine (r : Option LineRecord) (i : LinkId) :
    (s.setLine r).link i = s.link i := rfl
@[simp] theorem State.root_setLine (r : Option LineRecord) (i : LinkId) :
    (s.setLine r).root i = s.root i := rfl
@[simp] theorem State.slot_setLine (r : Option LineRecord) (i : SlotNo) :
    (s.setLine r).slot i = s.slot i := rfl
@[simp] theorem State.desc_setLine (r : Option LineRecord) (i : DescNo) :
    (s.setLine r).desc i = s.desc i := rfl
@[simp] theorem State.queue_setLine (r : Option LineRecord) (i : LinkId) :
    (s.setLine r).queue i = s.queue i := rfl
@[simp] theorem State.receiver_setLine (r : Option LineRecord) (i : LinkId) :
    (s.setLine r).receiver i = s.receiver i := rfl
@[simp] theorem State.transmitter_setLine (r : Option LineRecord) (i : LinkId) :
    (s.setLine r).transmitter i = s.transmitter i := rfl
@[simp] theorem State.monitor_setLine (r : Option LineRecord) (i : Port) :
    (s.setLine r).monitor i = s.monitor i := rfl
@[simp] theorem State.events_setLine (r : Option LineRecord) (i : LinkId) :
    (s.setLine r).events i = s.events i := rfl
@[simp] theorem State.setRecordReceiver_pending (r : RecordReceiver) :
    (s.setRecordReceiver r).pending = s.pending := rfl
@[simp] theorem State.setRecordReceiver_links (r : RecordReceiver) :
    (s.setRecordReceiver r).links = s.links := rfl
@[simp] theorem State.setRecordReceiver_keys (r : RecordReceiver) :
    (s.setRecordReceiver r).keys = s.keys := rfl
@[simp] theorem State.setRecordReceiver_engine (r : RecordReceiver) :
    (s.setRecordReceiver r).engine = s.engine := rfl
@[simp] theorem State.setRecordReceiver_sealer (r : RecordReceiver) :
    (s.setRecordReceiver r).sealer = s.sealer := rfl
@[simp] theorem State.setRecordReceiver_opener (r : RecordReceiver) :
    (s.setRecordReceiver r).opener = s.opener := rfl
@[simp] theorem State.setRecordReceiver_store (r : RecordReceiver) :
    (s.setRecordReceiver r).store = s.store := rfl
@[simp] theorem State.setRecordReceiver_trunk (r : RecordReceiver) :
    (s.setRecordReceiver r).trunk = s.trunk := rfl
@[simp] theorem State.setRecordReceiver_faults (r : RecordReceiver) :
    (s.setRecordReceiver r).faults = s.faults := rfl
@[simp] theorem State.setRecordReceiver_draws (r : RecordReceiver) :
    (s.setRecordReceiver r).draws = s.draws := rfl
@[simp] theorem State.link_setRecordReceiver (r : RecordReceiver) (i : LinkId) :
    (s.setRecordReceiver r).link i = s.link i := rfl
@[simp] theorem State.root_setRecordReceiver (r : RecordReceiver) (i : LinkId) :
    (s.setRecordReceiver r).root i = s.root i := rfl
@[simp] theorem State.slot_setRecordReceiver (r : RecordReceiver) (i : SlotNo) :
    (s.setRecordReceiver r).slot i = s.slot i := rfl
@[simp] theorem State.desc_setRecordReceiver (r : RecordReceiver) (i : DescNo) :
    (s.setRecordReceiver r).desc i = s.desc i := rfl
@[simp] theorem State.queue_setRecordReceiver (r : RecordReceiver) (i : LinkId) :
    (s.setRecordReceiver r).queue i = s.queue i := rfl
@[simp] theorem State.receiver_setRecordReceiver (r : RecordReceiver) (i : LinkId) :
    (s.setRecordReceiver r).receiver i = s.receiver i := rfl
@[simp] theorem State.transmitter_setRecordReceiver (r : RecordReceiver) (i : LinkId) :
    (s.setRecordReceiver r).transmitter i = s.transmitter i := rfl
@[simp] theorem State.monitor_setRecordReceiver (r : RecordReceiver) (i : Port) :
    (s.setRecordReceiver r).monitor i = s.monitor i := rfl
@[simp] theorem State.events_setRecordReceiver (r : RecordReceiver) (i : LinkId) :
    (s.setRecordReceiver r).events i = s.events i := rfl

/-! ### What a reader finds after the update of its own object -/

theorem State.link_modLink (l : LinkId) (f : Link → Link) (i : LinkId) :
    (s.modLink l f).link i = if l = i then f (s.link l) else s.link i := tget_tput _ _ _ _

@[simp] theorem State.link_modLink_self (l : LinkId) (f : Link → Link) :
    (s.modLink l f).link l = f (s.link l) := tget_tput_self _ _ _

theorem State.link_modLink_of_ne {l i : LinkId} (f : Link → Link) (h : l ≠ i) :
    (s.modLink l f).link i = s.link i := tget_tput_of_ne _ _ h

theorem State.link_modRenewal (l : LinkId) (f : Renewal → Renewal) (i : LinkId) :
    (s.modRenewal l f).link i =
      if l = i then { s.link l with renewal := f (s.link l).renewal } else s.link i :=
  tget_tput _ _ _ _

@[simp] theorem State.link_modRenewal_self (l : LinkId) (f : Renewal → Renewal) :
    (s.modRenewal l f).link l = { s.link l with renewal := f (s.link l).renewal } :=
  tget_tput_self _ _ _

theorem State.link_modRenewal_of_ne {l i : LinkId} (f : Renewal → Renewal) (h : l ≠ i) :
    (s.modRenewal l f).link i = s.link i := tget_tput_of_ne _ _ h

theorem State.root_setRoot (l : LinkId) (r : RootRecord) (i : LinkId) :
    (s.setRoot l r).root i = if l = i then r else s.root i := tget_tput _ _ _ _

theorem State.slot_modSlot (k : SlotNo) (f : KeySlot → KeySlot) (i : SlotNo) :
    (s.modSlot k f).slot i = if k = i then f (s.slot k) else s.slot i := tget_tput _ _ _ _

@[simp] theorem State.slot_modSlot_self (k : SlotNo) (f : KeySlot → KeySlot) :
    (s.modSlot k f).slot k = f (s.slot k) := tget_tput_self _ _ _

theorem State.slot_modSlot_of_ne {k i : SlotNo} (f : KeySlot → KeySlot) (h : k ≠ i) :
    (s.modSlot k f).slot i = s.slot i := tget_tput_of_ne _ _ h

@[simp] theorem State.setWaitList_keys_waitList (w : List LinkId) :
    (s.setWaitList w).keys.waitList = w := rfl

@[simp] theorem State.setRequests_keys_requests (r : List DerivationRequest) :
    (s.setRequests r).keys.requests = r := rfl

@[simp] theorem State.setDerivation_keys_derivation (d : Option Derivation) :
    (s.setDerivation d).keys.derivation = d := rfl

theorem State.desc_setDesc (d : DescNo) (x : Option Descriptor) (i : DescNo) :
    (s.setDesc d x).desc i = if d = i then x else s.desc i := tget_tput _ _ _ _

@[simp] theorem State.desc_setDesc_self (d : DescNo) (x : Option Descriptor) :
    (s.setDesc d x).desc d = x := tget_tput_self _ _ _

theorem State.desc_freeFrame (d i : DescNo) :
    (s.freeFrame d).desc i = if d = i then none else s.desc i := tget_tput _ _ _ _

theorem State.queue_setQueue (l : LinkId) (q : List DescNo) (i : LinkId) :
    (s.setQueue l q).queue i = if l = i then q else s.queue i := tget_tput _ _ _ _

@[simp] theorem State.setDelivery_store_delivery (q : List DescNo) :
    (s.setDelivery q).store.delivery = q := rfl

theorem State.receiver_setReceiver (l : LinkId) (r : Receiver) (i : LinkId) :
    (s.setReceiver l r).receiver i = if l = i then r else s.receiver i := tget_tput _ _ _ _

@[simp] theorem State.receiver_setReceiver_self (l : LinkId) (r : Receiver) :
    (s.setReceiver l r).receiver l = r := tget_tput_self _ _ _

theorem State.transmitter_setTransmitter (l : LinkId) (t : Transmitter) (i : LinkId) :
    (s.setTransmitter l t).transmitter i = if l = i then t else s.transmitter i := tget_tput _ _ _ _

@[simp] theorem State.monitor_setMonitor_self (p : Port) (m : Monitor) :
    (s.setMonitor p m).monitor p = m := by cases p <;> rfl

theorem State.monitor_setMonitor_other (p : Port) (m : Monitor) :
    (s.setMonitor p m).monitor (otherPort p) = s.monitor (otherPort p) := by cases p <;> rfl

@[simp] theorem State.setSealing_sealer_current (r : Option Sealing) :
    (s.setSealing r).sealer.current = r := rfl

@[simp] theorem State.setSealRequests_sealer_requests (r : List LinkId) :
    (s.setSealRequests r).sealer.requests = r := rfl

@[simp] theorem State.setOpening_opener_current (r : Option Opening) :
    (s.setOpening r).opener.current = r := rfl

@[simp] theorem State.setOpenList_opener_waiting (w : List DescNo) :
    (s.setOpenList w).opener.waiting = w := rfl

@[simp] theorem State.modHost_host (f : HostPort → HostPort) : (s.modHost f).host = f s.host := rfl

@[simp] theorem State.modFaults_faults (f : Supervisor → Supervisor) :
    (s.modFaults f).faults = f s.faults := rfl

@[simp] theorem State.setLine_host (r : Option LineRecord) :
    (s.setLine r).host = { s.host with line := r } := rfl

@[simp] theorem State.setRecordReceiver_host (r : RecordReceiver) :
    (s.setRecordReceiver r).host = { s.host with receiver := r } := rfl

theorem State.events_modEvents (l : LinkId) (f : LinkEvents → LinkEvents) (i : LinkId) :
    (s.modEvents l f).events i = if l = i then f (s.events l) else s.events i := tget_tput _ _ _ _

/-! ### Two updates of one object -/

theorem tput_tput {α : Type} {n : Nat} (v : Vector α n) (i : Fin n) (x y : α) :
    tput (tput v i x) i y = tput v i y := by
  simp [tput]

theorem tput_tget {α : Type} {n : Nat} (v : Vector α n) (i : Fin n) : tput v i (tget v i) = v := by
  simp [tput, tget]

theorem State.modLink_modLink (l : LinkId) (f g : Link → Link) :
    (s.modLink l f).modLink l g = s.modLink l fun k => g (f k) := by
  simp [State.modLink, State.link, tput_tput]

theorem State.modSlot_modSlot (k : SlotNo) (f g : KeySlot → KeySlot) :
    (s.modSlot k f).modSlot k g = s.modSlot k fun x => g (f x) := by
  simp [State.modSlot, State.slot, tput_tput]

theorem State.setReceiver_setReceiver (l : LinkId) (r r' : Receiver) :
    (s.setReceiver l r).setReceiver l r' = s.setReceiver l r' := by
  simp [State.setReceiver, tput_tput]

end Sys2Proof.Machine
end

