-- ==== Sys2Proof/Laws/Circuits.lean ====
section
/-! SUPPORT. What following the circuits can do: it moves receivers and offer timers, and nothing that decides
which circuits are up. -/

namespace Sys2Proof.Machine

/-- Abandoning a reception touches the receivers and the descriptors alone. -/
theorem abandonReception_eq (l : LinkId) (s : State) : ∃ receivers descs,
    abandonReception l s = { s with
      trunk := { s.trunk with receivers := receivers }, store := { s.store with descs := descs } } := by
  unfold abandonReception
  split
  · exact ⟨_, _, rfl⟩
  · exact ⟨_, _, rfl⟩
  · exact ⟨_, s.store.descs, rfl⟩
  · exact ⟨_, s.store.descs, rfl⟩

/-- Following one link's circuit touches the receivers, the descriptors and that link's offer timer alone. -/
theorem reconcileCircuit_eq (before s : State) (l : LinkId) : ∃ receivers descs offer,
    reconcileCircuit before s l = { s with
      trunk := { s.trunk with receivers := receivers }, store := { s.store with descs := descs }
      links := tput s.links l
        { s.link l with renewal := { (s.link l).renewal with offer := offer } } } := by
  have same : ∀ v : State, v = s → ∃ receivers descs offer, v = { s with
      trunk := { s.trunk with receivers := receivers }, store := { s.store with descs := descs }
      links := tput s.links l
        { s.link l with renewal := { (s.link l).renewal with offer := offer } } } := by
    rintro v rfl
    refine ⟨v.trunk.receivers, v.store.descs, (v.link l).renewal.offer, ?_⟩
    change v = { v with links := tput v.links l (tget v.links l) }
    rw [tput_tget]
  unfold reconcileCircuit
  split
  · obtain ⟨receivers, descs, h⟩ := abandonReception_eq l s
    refine ⟨receivers, descs, (s.link l).renewal.offer.pause, ?_⟩
    unfold circuitGoesDown
    rw [h]
    rfl
  · exact ⟨s.trunk.receivers, s.store.descs, _, rfl⟩
  · exact same _ rfl
  · exact same _ rfl

/-- Following the circuits leaves the trunk but for its receivers, and every link but for its offer timer. -/
theorem reconcileCircuits_keeps (before s : State) :
    (∃ receivers, (reconcileCircuits before s).trunk = { s.trunk with receivers := receivers }) ∧
    ∀ l, ((reconcileCircuits before s).link l).state = (s.link l).state := by
  unfold reconcileCircuits
  generalize allFin 64 = ls
  induction ls generalizing s with
  | nil => exact ⟨⟨_, rfl⟩, fun _ => rfl⟩
  | cons j ls ih =>
    rw [List.foldl_cons]
    obtain ⟨receivers, descs, offer, h⟩ := reconcileCircuit_eq before s j
    obtain ⟨⟨last, ht⟩, hl⟩ := ih (reconcileCircuit before s j)
    rw [h] at ht hl ⊢
    refine ⟨⟨last, ht⟩, fun l => (hl l).trans ?_⟩
    change (tget (tput s.links j _) l).state = _
    rw [tget_tput]
    split
    · next hj => subst hj; rfl
    · rfl

/-- Following the circuits leaves every circuit as it is. -/
theorem circuitUp_reconcileCircuits (before s : State) (l : LinkId) :
    circuitUp (reconcileCircuits before s) l = circuitUp s l := by
  obtain ⟨⟨receivers, h⟩, _⟩ := reconcileCircuits_keeps before s
  unfold circuitUp trunkUp hasSlot
  rw [show (reconcileCircuits before s).monitor = s.monitor from
    funext fun p => by cases p <;> unfold State.monitor <;> rw [h], h]

/-- What a change of a port's monitor leaves in the trunk is what the selection's following it leaves there. -/
theorem monitorEvent_circuits (p : Port) (f : Monitor → Monitor) (s : State) (l : LinkId) :
    let t := followMonitor p (s.monitor p) (s.setMonitor p (f (s.monitor p)))
    circuitUp (monitorEvent p f s) l = circuitUp t l ∧
    (monitorEvent p f s).trunk.selected = t.trunk.selected ∧
    (∀ q, (monitorEvent p f s).monitor q = t.monitor q) ∧
    ((monitorEvent p f s).link l).live = (t.link l).live := by
  intro t
  obtain ⟨⟨receivers, h⟩, hl⟩ := reconcileCircuits_keeps s t
  change (monitorEvent p f s).trunk = _ at h
  refine ⟨circuitUp_reconcileCircuits s t l, by rw [h], fun q => ?_, ?_⟩
  · cases q <;> unfold State.monitor <;> rw [h]
  · exact congrArg (fun x => decide (x = .active) || decide (x = .isolated)) (hl l)

end Sys2Proof.Machine
end

