-- ==== Sys2Proof/Laws/KeyStore.lean ====
section
/-! SUPPORT. What the shared operations of the key store and the renewal controller can do, said once: the
lowest FREE slot, the start of a renewal, the hand-over, release, triggers and re-evaluation. -/

namespace Sys2Proof.Machine

/-- The slot found is FREE and every lower-numbered one is not. -/
theorem lowestFreeSlot_eq_some {s : State} {k : SlotNo} (h : lowestFreeSlot s = some k) :
    (s.slot k).state = .free := by
  simpa using List.find?_some h

/-- No slot is found only where none is FREE. -/
theorem lowestFreeSlot_eq_none {s : State} :
    lowestFreeSlot s = none ↔ ∀ k, (s.slot k).state ≠ .free := by
  simp [lowestFreeSlot, List.find?_eq_none]

/-- The start of a renewal does nothing where the current role is absent; elsewhere it draws a nonce,
allocates the slot and changes the one link. -/
theorem startRenewal_cases (l : LinkId) (k : SlotNo) (s : State) :
    (startRenewal l k s = s) ∨
    ∃ (c : SlotNo) (f : Link → Link), (s.link l).current = some c ∧
      (∀ x, (f x).state = x.state ∧ (f x).current = x.current ∧ (f x).previous = x.previous ∧
        (f x).profile = x.profile ∧ (f x).hold = x.hold ∧ (f x).allowance = x.allowance ∧
        (f x).budgetHeld = x.budgetHeld ∧ (f x).eventPending = x.eventPending ∧
        (f x).stats = x.stats ∧ (f x).next = some k ∧ (f x).renewal.state = .offering ∧
        (f x).renewal.attempts = 1 ∧ (f x).renewal.pendingTrigger = false) ∧
      startRenewal l k s =
        ((allocateSlot k l ((s.slot c).epoch + 1)
          { s with draws := { s.draws with nonces := s.draws.nonces + 1 } }).modLink l f) := by
  unfold startRenewal
  cases h : (s.link l).current with
  | none => exact .inl rfl
  | some c =>
    refine .inr ⟨c, _, rfl, ?_, rfl⟩
    intro x
    simp

/-- What every start of a renewal keeps, a hand-over to any list of links keeps. -/
theorem handOverTo_keeps {P : State → Prop}
    (hw : ∀ (s : State) (l : LinkId) (rest : List LinkId), s.keys.waitList = l :: rest → P s →
      ∀ k, lowestFreeSlot s = some k → P (startRenewal l k (s.setWaitList rest))) :
    ∀ (w : List LinkId) (s : State), s.keys.waitList = w → P s → P (handOverTo w s) := by
  intro w
  induction w with
  | nil => intro s _ h; exact h
  | cons l rest ih =>
    intro s hs h
    simp only [handOverTo]
    split
    · rename_i k hk
      refine ih _ ?_ (hw s l rest hs h k hk)
      rcases startRenewal_cases l k (s.setWaitList rest) with e | ⟨c, f, _, _, e⟩ <;> rw [e] <;> rfl
    · exact h

/-- What every start of a renewal keeps, the hand-over of freed slots keeps. -/
theorem handOver_keeps {P : State → Prop}
    (hw : ∀ (s : State) (l : LinkId) (rest : List LinkId), s.keys.waitList = l :: rest → P s →
      ∀ k, lowestFreeSlot s = some k → P (startRenewal l k (s.setWaitList rest)))
    (s : State) (h : P s) : P (handOver s) :=
  handOverTo_keeps hw _ s rfl h

/-- After a hand-over the wait list is empty or no slot is FREE. -/
theorem handOver_serves (s : State) :
    (handOver s).keys.waitList = [] ∨ lowestFreeSlot (handOver s) = none := by
  have : ∀ (w : List LinkId) (s : State), s.keys.waitList = w →
      (handOverTo w s).keys.waitList = [] ∨ lowestFreeSlot (handOverTo w s) = none := by
    intro w
    induction w with
    | nil => intro s h; exact .inl h
    | cons l rest ih =>
      intro s _
      simp only [handOverTo]
      split
      · rename_i k _
        refine ih _ ?_
        rcases startRenewal_cases l k (s.setWaitList rest) with e | ⟨c, f, _, _, e⟩ <;> rw [e] <;> rfl
      · rename_i hk
        exact .inr hk
  exact this _ s rfl

/-- A release withdraws the slot's request and erases the slot, or lets it drain. -/
theorem releaseSlot_slot (k i : SlotNo) (s : State) :
    (releaseSlot k s).slot i =
      if k = i then (if (s.slot k).inFlight = 0 then {} else { s.slot k with state := .draining })
      else s.slot i := by
  simp only [releaseSlot, State.slot_modSlot]
  rfl

/-- A release, one slot after another, leaves what R29 lists for all of them. -/
theorem releaseSlots_eq_released (ks : List SlotNo) : ∀ s : State, releaseSlots ks s = released ks s := by
  induction ks with
  | nil =>
    intro s
    have h : (Vector.ofFn fun k => s.slot k) = s.keys.slots := by
      ext i hi
      simp [State.slot, tget]
    simp [releaseSlots, released, h]
  | cons k ks ih =>
    intro s
    have hr : releaseSlots (k :: ks) s = released ks (releaseSlot k s) := ih (releaseSlot k s)
    have hq : (releaseSlot k s).keys.requests = s.keys.requests.filter fun r => r.slot ≠ k := rfl
    have hs : releaseSlot k s =
        { s with keys := { s.keys with
          requests := (releaseSlot k s).keys.requests, slots := (releaseSlot k s).keys.slots } } := rfl
    have hv : (Vector.ofFn fun i => if ks.contains i then
          (if ((releaseSlot k s).slot i).inFlight = 0 then ({} : KeySlot)
            else { (releaseSlot k s).slot i with state := .draining })
        else (releaseSlot k s).slot i) =
        Vector.ofFn fun i => if (k :: ks).contains i then
          (if (s.slot i).inFlight = 0 then {} else { s.slot i with state := .draining })
        else s.slot i := by
      congr 1
      funext i
      rw [releaseSlot_slot]
      by_cases hk : k = i
      · subst hk
        by_cases h0 : (s.slot k).inFlight = 0 <;> simp [h0]
      · simp [hk, Ne.symm hk]
    have hf : (s.keys.requests.filter fun r => r.slot ≠ k).filter (fun r => !ks.contains r.slot) =
        s.keys.requests.filter fun r => !(k :: ks).contains r.slot := by
      rw [List.filter_filter]
      congr 1
      funext r
      by_cases hk : r.slot = k <;> simp [hk]
    rw [hr]
    unfold released
    rw [hq, hv, hf]
    rfl
/-- A trigger is absorbed, starts the renewal on the lowest FREE slot, or waits at the end of the key wait
list. -/
theorem trigger_cases (l : LinkId) (s : State) :
    trigger l s = s ∨
    (mayAct (s.link l) = true ∧ ∃ k, lowestFreeSlot s = some k ∧ trigger l s = startRenewal l k s) ∨
    (mayAct (s.link l) = true ∧ lowestFreeSlot s = none ∧
      trigger l s = (s.modRenewal l fun r => { r with pendingTrigger := true }).setWaitList
        (s.keys.waitList ++ [l])) := by
  unfold trigger
  split
  · rename_i hm
    unfold actOnTrigger
    split
    · exact .inl rfl
    · split
      · exact .inl rfl
      · split
        · rename_i k hk
          exact .inr (.inl ⟨hm, k, hk, rfl⟩)
        · rename_i hk
          exact .inr (.inr ⟨hm, hk, rfl⟩)
  · exact .inl rfl

/-- A re-evaluation is a trigger where a standing condition holds, and nothing elsewhere. -/
theorem reevaluate_cases (l : LinkId) (s : State) : reevaluate l s = s ∨ reevaluate l s = trigger l s := by
  unfold reevaluate
  split
  · exact .inr rfl
  · exact .inl rfl

/-- The link-event pending flag: nothing where it is set, and elsewhere the flag and the list together. -/
theorem setEventPending_cases (l : LinkId) (s : State) :
    ((s.link l).eventPending = true ∧ s.setEventPending l = s) ∨
    ((s.link l).eventPending = false ∧
      s.setEventPending l =
        (s.modLink l fun k => { k with eventPending := true }).listNotice (.link l)) := by
  unfold State.setEventPending
  cases h : (s.link l).eventPending
  · exact .inr ⟨rfl, by simp⟩
  · exact .inl ⟨rfl, by simp⟩

/-- The end of an operation on a slot: a DRAINING slot at its last is erased and handed over, any other
has its count lowered. -/
theorem lowerInFlight_cases (k : SlotNo) (s : State) :
    ((s.slot k).state = .draining ∧ (s.slot k).inFlight ≤ 1 ∧
      lowerInFlight k s = handOver (s.modSlot k fun _ => {})) ∨
    (¬((s.slot k).state = .draining ∧ (s.slot k).inFlight ≤ 1) ∧
      lowerInFlight k s = s.modSlot k fun x => { x with inFlight := x.inFlight - 1 }) := by
  unfold lowerInFlight
  split
  · rename_i h
    exact .inl ⟨h.1, h.2, rfl⟩
  · rename_i h
    exact .inr ⟨h, rfl⟩

/-- The tag goes to the descriptor of the frame in sealing, or beside the control buffer, and nowhere else. -/
theorem writeTag_cases (r : Sealing) (tag : List Byte) (s : State) :
    (r.desc = none ∧ writeTag r tag s = { s with sealer := { s.sealer with controlTag := tag } }) ∨
    ∃ d, r.desc = some d ∧ writeTag r tag s = s.modDesc d fun x => { x with tag := some tag } := by
  unfold writeTag
  cases r.desc with
  | none => exact .inl ⟨rfl, rfl⟩
  | some d => exact .inr ⟨d, rfl, rfl⟩

end Sys2Proof.Machine
end

