-- ==== Sys2Proof/Laws/Memory.lean ====
section
/-! SUPPORT. The bytes of the units: a read after a write, the canonical form kept, and what the bytes of a
unit chain are after a write into it. -/

namespace Sys2Proof.Machine

/-- A byte below the bound of a canonical list is unwritten. -/
theorem Memory.read_of_wfFrom_lt {m : List Host.Cell} {lo a : Nat} (h : Memory.wfFrom lo m = true)
    (ha : a < lo) : Memory.read m a = Memory.unwritten := by
  induction m generalizing lo with
  | nil => rfl
  | cons e m ih =>
    obtain ⟨x, c⟩ := e
    simp only [Memory.wfFrom, Bool.and_eq_true, decide_eq_true_eq] at h
    have hx : x ≠ a := by omega
    simp only [Memory.read, hx, if_false]
    exact ih h.2 (by omega)

theorem Memory.wfFrom_mono {m : List Host.Cell} {lo lo' : Nat} (h : Memory.wfFrom lo m = true)
    (hl : lo' ≤ lo) : Memory.wfFrom lo' m = true := by
  cases m with
  | nil => rfl
  | cons e m =>
    obtain ⟨x, c⟩ := e
    simp only [Memory.wfFrom, Bool.and_eq_true, decide_eq_true_eq] at h ⊢
    exact ⟨⟨by omega, h.1.2⟩, h.2⟩

/-- A write keeps the canonical form above a bound not above the address. -/
theorem Memory.wfFrom_write {m : List Host.Cell} {lo a : Nat} (b : Byte)
    (h : Memory.wfFrom lo m = true) (ha : lo ≤ a) : Memory.wfFrom lo (Memory.write m a b) = true := by
  induction m generalizing lo with
  | nil =>
    by_cases hb : b = Memory.unwritten
    · simp [Memory.write, hb, Memory.wfFrom]
    · simp [Memory.write, hb, Memory.wfFrom, ha]
  | cons e m ih =>
    obtain ⟨x, c⟩ := e
    have h0 := h
    simp only [Memory.wfFrom, Bool.and_eq_true, decide_eq_true_eq] at h
    by_cases h1 : a < x
    · by_cases hb : b = Memory.unwritten
      · simpa [Memory.write, h1, hb] using h0
      · simp only [Memory.write, h1, hb, if_true, if_false, Memory.wfFrom, Bool.and_eq_true,
          decide_eq_true_eq]
        exact ⟨⟨ha, hb⟩, ⟨by omega, h.1.2⟩, h.2⟩
    · by_cases h2 : a = x
      · by_cases hb : b = Memory.unwritten
        · subst h2
          simp only [Memory.write, hb, lt_irrefl, if_true, if_false]
          exact Memory.wfFrom_mono h.2 (by omega)
        · subst h2
          simp only [Memory.write, hb, lt_irrefl, if_true, if_false, Memory.wfFrom,
            Bool.and_eq_true, decide_eq_true_eq]
          exact ⟨⟨h.1.1, hb⟩, h.2⟩
      · simp only [Memory.write, h1, h2, if_false, Memory.wfFrom, Bool.and_eq_true,
          decide_eq_true_eq]
        exact ⟨h.1, ih h.2 (by omega)⟩

/-- Every write keeps the canonical form. -/
theorem Memory.wf_write {m : List Host.Cell} (a : Nat) (b : Byte) (h : Memory.wf m = true) :
    Memory.wf (Memory.write m a b) = true :=
  Memory.wfFrom_write b h (Nat.zero_le a)

theorem Memory.read_write_from {m : List Host.Cell} {lo a : Nat} (b : Byte) (i : Nat)
    (h : Memory.wfFrom lo m = true) :
    Memory.read (Memory.write m a b) i = if a = i then b else Memory.read m i := by
  induction m generalizing lo with
  | nil =>
    by_cases hb : b = Memory.unwritten <;> by_cases hi : a = i <;>
      simp [Memory.write, Memory.read, hb, hi]
  | cons e m ih =>
    obtain ⟨x, c⟩ := e
    simp only [Memory.wfFrom, Bool.and_eq_true, decide_eq_true_eq] at h
    by_cases h1 : a < x
    · by_cases hb : b = Memory.unwritten
      · by_cases hi : a = i
        · subst hi
          have : Memory.read ((x, c) :: m) a = Memory.unwritten :=
            Memory.read_of_wfFrom_lt (lo := x)
              (by simp [Memory.wfFrom, h.1.2, h.2]) h1
          simp [Memory.write, h1, hb, this]
        · simp [Memory.write, h1, hb, hi]
      · by_cases hi : a = i
        · subst hi
          simp [Memory.write, h1, hb, Memory.read]
        · simp [Memory.write, h1, hb, hi, Memory.read]
    · by_cases h2 : a = x
      · subst h2
        by_cases hb : b = Memory.unwritten
        · by_cases hi : a = i
          · subst hi
            simp [Memory.write, hb, Memory.read_of_wfFrom_lt h.2 (Nat.lt_succ_self a)]
          · simp [Memory.write, hb, hi, Memory.read]
        · by_cases hi : a = i <;> simp [Memory.write, hb, hi, Memory.read]
      · by_cases hx : x = i
        · subst hx
          simp [Memory.write, h1, h2, Memory.read]
        · simp only [Memory.write, h1, h2, if_false, Memory.read, hx]
          exact ih h.2

/-- A read after a write in a canonical memory: the value written at its address, every other byte as it
was. -/
theorem Memory.read_write {m : List Host.Cell} (a : Nat) (b : Byte) (i : Nat)
    (h : Memory.wf m = true) :
    Memory.read (Memory.write m a b) i = if a = i then b else Memory.read m i :=
  Memory.read_write_from b i h

/-- An entry of a written memory is the one written, or stood there before. -/
theorem Memory.mem_write {m : List Host.Cell} {a : Nat} {b : Byte} {e : Host.Cell}
    (h : e ∈ Memory.write m a b) : e = (a, b) ∨ e ∈ m := by
  induction m with
  | nil =>
    by_cases hb : b = Memory.unwritten <;> simp [Memory.write, hb] at h
    exact .inl h
  | cons f m ih =>
    obtain ⟨x, c⟩ := f
    simp only [Memory.write] at h
    split at h
    · split at h
      · exact .inr h
      · rcases List.mem_cons.1 h with h | h
        · exact .inl h
        · exact .inr h
    · split at h
      · split at h
        · exact .inr (List.mem_cons_of_mem _ h)
        · rcases List.mem_cons.1 h with h | h
          · exact .inl h
          · exact .inr (List.mem_cons_of_mem _ h)
      · rcases List.mem_cons.1 h with h | h
        · exact .inr (h ▸ List.mem_cons_self)
        · rcases ih h with h | h
          · exact .inl h
          · exact .inr (List.mem_cons_of_mem _ h)

/-- The address of a byte of a chain lies in one of the chain's units. -/
theorem chainAddress_mem {chain : List UnitNo} {j a : Nat} (h : chainAddress chain j = some a) :
    ∃ u ∈ chain, a / 64 = u.val ∧ a < 64 * 2048 := by
  simp only [chainAddress, Option.map_eq_some_iff] at h
  obtain ⟨u, hu, rfl⟩ := h
  have := u.isLt
  exact ⟨u, List.mem_of_getElem? hu, by omega, by omega⟩

/-- Bytes written into a chain keep the canonical form. -/
theorem wf_writeChain (chain : List UnitNo) (bs : List Byte) :
    ∀ (j : Nat) (m : List Host.Cell), Memory.wf m = true →
      Memory.wf (writeChain chain j bs m) = true := by
  induction bs with
  | nil => intro j m h; exact h
  | cons b bs ih =>
    intro j m h
    simp only [writeChain]
    apply ih
    split
    · exact Memory.wf_write _ _ h
    · exact h

/-- Bytes written into a chain leave every byte outside its units as it was. -/
theorem read_writeChain_of_notMem (chain : List UnitNo) (bs : List Byte) {a : Nat}
    (ha : ∀ u ∈ chain, a / 64 ≠ u.val) :
    ∀ (j : Nat) (m : List Host.Cell), Memory.wf m = true →
      Memory.read (writeChain chain j bs m) a = Memory.read m a := by
  induction bs with
  | nil => intro j m _; rfl
  | cons b bs ih =>
    intro j m h
    simp only [writeChain]
    split
    · rename_i x hx
      rw [ih _ _ (Memory.wf_write _ _ h), Memory.read_write _ _ _ h]
      obtain ⟨u, hu, hux, _⟩ := chainAddress_mem hx
      have : x ≠ a := fun e => ha u hu (e ▸ hux)
      simp [this]
    · exact ih _ _ h

/-- Every entry of a memory stays within the 2048 units when bytes are written into a chain. -/
theorem mem_writeChain_lt (chain : List UnitNo) (bs : List Byte) :
    ∀ (j : Nat) (m : List Host.Cell), (∀ e ∈ m, e.1 < 64 * 2048) →
      ∀ e ∈ writeChain chain j bs m, e.1 < 64 * 2048 := by
  induction bs with
  | nil => intro j m h; exact h
  | cons b bs ih =>
    intro j m h
    simp only [writeChain]
    apply ih
    split
    · rename_i x hx
      obtain ⟨u, _, _, hlt⟩ := chainAddress_mem hx
      intro e he
      rcases Memory.mem_write he with rfl | he
      · exact hlt
      · exact h e he
    · exact h

end Sys2Proof.Machine
end

