-- ==== Sys2Proof/Laws/PerInstr.lean ====
section
/-! SUPPORT. The record of every command fits the length field (R171: 2 to 1040 for kind, tag and body):
one lemma for each command and event. -/

namespace Sys2Proof.Laws.Record

open Sys2Proof.Machine

/-- A well-formed command's record body leaves the length field within 1040. -/
def Statement (i : Instr) : Prop :=
  WellFormed i = true → ∀ kind tag body, recordOf i = some (kind, tag, body) → body.length + 2 ≤ 1040

/-- A command with a body of fixed length. -/
theorem of_fixed {i : Instr} {kind : RecordKind} {tag : Byte} {body : List Byte}
    (h : recordOf i = some (kind, tag, body)) (hb : Nat.ble body.length 1038 = true) : Statement i := by
  intro _ k t b hr
  rw [h] at hr
  cases hr
  have := Nat.le_of_ble_eq_true hb
  omega

/-- An event is no command. -/
theorem of_none {i : Instr} (h : recordOf i = none) : Statement i := by
  intro _ k t b hr
  rw [h] at hr
  cases hr

theorem linkConfigure (tag link : Byte) (maxPayload : W16) (budgetClass intervalCode offerCode
    attempts graceCode : Byte) (quota : W16) (threshold tagAction renewalAction startHeld : Byte) :
    Statement (.linkConfigure tag link maxPayload budgetClass intervalCode offerCode attempts
      graceCode quota threshold tagAction renewalAction startHeld) :=
  of_fixed rfl rfl

theorem linkActivate (tag link : Byte) : Statement (.linkActivate tag link) :=
  of_fixed rfl rfl

theorem linkIsolate (tag link : Byte) : Statement (.linkIsolate tag link) :=
  of_fixed rfl rfl

theorem linkResume (tag link : Byte) : Statement (.linkResume tag link) :=
  of_fixed rfl rfl

theorem linkDeactivate (tag link : Byte) : Statement (.linkDeactivate tag link) :=
  of_fixed rfl rfl

theorem linkUnconfigure (tag link : Byte) : Statement (.linkUnconfigure tag link) :=
  of_fixed rfl rfl

theorem linkStatus (tag link clear : Byte) : Statement (.linkStatus tag link clear) :=
  of_fixed rfl rfl

theorem rootLoad (tag link : Byte) (key : List Byte) : Statement (.rootLoad tag link key) := by
  intro hw k t b hr
  cases hr
  have : key.length ≤ 1036 := of_decide_eq_true hw
  simp only [List.length_cons]
  omega

theorem rootErase (tag link : Byte) : Statement (.rootErase tag link) :=
  of_fixed rfl rfl

theorem storeStatus (tag : Byte) : Statement (.storeStatus tag) :=
  of_fixed rfl rfl

theorem renew (tag link : Byte) : Statement (.renew tag link) :=
  of_fixed rfl rfl

theorem trafficOut (tag link : Byte) (payload : List Byte) : Statement (.trafficOut tag link payload) := by
  intro hw k t b hr
  cases hr
  have : payload.length ≤ 1037 := of_decide_eq_true hw
  simp only [List.length_cons]
  omega

theorem queueHold (tag link : Byte) : Statement (.queueHold tag link) :=
  of_fixed rfl rfl

theorem queueRelease (tag link count : Byte) : Statement (.queueRelease tag link count) :=
  of_fixed rfl rfl

theorem queueUnhold (tag link : Byte) : Statement (.queueUnhold tag link) :=
  of_fixed rfl rfl

theorem queueDiscard (tag link : Byte) (count : W16) : Statement (.queueDiscard tag link count) :=
  of_fixed rfl rfl

theorem portMode (tag mode : Byte) : Statement (.portMode tag mode) :=
  of_fixed rfl rfl

theorem mapSet (tag first count entry : Byte) : Statement (.mapSet tag first count entry) :=
  of_fixed rfl rfl

theorem mapRead (tag selector : Byte) : Statement (.mapRead tag selector) :=
  of_fixed rfl rfl

theorem mapCommit (tag : Byte) : Statement (.mapCommit tag) :=
  of_fixed rfl rfl

theorem trunkStatus (tag clear : Byte) : Statement (.trunkStatus tag clear) :=
  of_fixed rfl rfl

theorem faultPolicy (tag kind declare clear report : Byte) :
    Statement (.faultPolicy tag kind declare clear report) :=
  of_fixed rfl rfl

theorem faultList (tag selector : Byte) : Statement (.faultList tag selector) :=
  of_fixed rfl rfl

theorem faultRead (tag source kind : Byte) : Statement (.faultRead tag source kind) :=
  of_fixed rfl rfl

theorem faultPurge (tag : Byte) : Statement (.faultPurge tag) :=
  of_fixed rfl rfl

theorem setClock (tag : Byte) (value : W32) : Statement (.setClock tag value) :=
  of_fixed rfl rfl

theorem identify (tag : Byte) : Statement (.identify tag) :=
  of_fixed rfl rfl

theorem reset (tag : Byte) : Statement (.reset tag) :=
  of_fixed rfl rfl

theorem recordArrival (bytes : List Byte) : Statement (.recordArrival bytes) :=
  of_none rfl

theorem malformedRecord (bytes : List Byte) : Statement (.malformedRecord bytes) :=
  of_none rfl

theorem takeRecord : Statement (.takeRecord) :=
  of_none rfl

theorem sendStart : Statement (.sendStart) :=
  of_none rfl

theorem sendEnd : Statement (.sendEnd) :=
  of_none rfl

theorem powerOn : Statement (.powerOn) :=
  of_none rfl

theorem resetLineAssert : Statement (.resetLineAssert) :=
  of_none rfl

theorem resetLineRelease : Statement (.resetLineRelease) :=
  of_none rfl

theorem tick : Statement (.tick) :=
  of_none rfl

theorem intervalTimerExpiry (link : LinkId) : Statement (.intervalTimerExpiry link) :=
  of_none rfl

theorem offerTimerExpiry (link : LinkId) : Statement (.offerTimerExpiry link) :=
  of_none rfl

theorem graceTimerExpiry (link : LinkId) : Statement (.graceTimerExpiry link) :=
  of_none rfl

theorem backoffTimerExpiry (link : LinkId) : Statement (.backoffTimerExpiry link) :=
  of_none rfl

theorem sealingStart : Statement (.sealingStart) :=
  of_none rfl

theorem blockOperationEnd : Statement (.blockOperationEnd) :=
  of_none rfl

theorem sealingCompletion : Statement (.sealingCompletion) :=
  of_none rfl

theorem openingStart : Statement (.openingStart) :=
  of_none rfl

theorem openingCompletion : Statement (.openingCompletion) :=
  of_none rfl

theorem derivationBegin : Statement (.derivationBegin) :=
  of_none rfl

theorem derivationCompletion : Statement (.derivationCompletion) :=
  of_none rfl

theorem receiveCycle (port : Port) (good : Bool) (bytes : Vector Byte 96) :
    Statement (.receiveCycle port good bytes) :=
  of_none rfl

theorem signalAbsence (port : Port) : Statement (.signalAbsence port) :=
  of_none rfl

theorem transmitCycleRequest : Statement (.transmitCycleRequest) :=
  of_none rfl

end Sys2Proof.Laws.Record
end

