-- ==== Sys2Proof/Laws/Requests.lean ====
section
/-! SUPPORT. The conditions of the sealer's request list, as the rule lists them and as the machine computes
them. -/

namespace Sys2Proof.Machine

/-- A role holds a READY slot just where it holds a slot that is READY. -/
theorem roleReady_iff (s : State) (role : Option SlotNo) :
    roleReady s role = true ↔ ∃ k, role = some k ∧ (s.slot k).state = .ready := by
  cases role <;> simp [roleReady]

/-- R42: the machine's test of a link is R42's. -/
theorem sealEligible_iff (s : State) (l : LinkId) : sealEligible s l = true ↔ MaySeal s l := by
  have slot : hasSlot s l = true ↔ ∃ i : TrunkSlot, tget s.trunk.live i = some l := by
    simp [hasSlot]
  have path : pathFree s l = true ↔
      s.transmitter l = .idle ∧ ∀ r, s.sealer.current = some r → r.link ≠ l := by
    unfold pathFree
    cases s.sealer.current <;> simp
  have lane : laneReady s (s.link l) = true ↔
      (∃ epoch nonce attempt c, (s.link l).lane = some (.offer epoch nonce attempt) ∧
        (s.link l).current = some c ∧ (s.slot c).state = .ready) ∨
      ∃ epoch head shop n, (s.link l).lane = some (.cutover epoch head shop) ∧
        (s.link l).next = some n ∧ (s.slot n).state = .ready := by
    unfold laneReady
    rcases (s.link l).lane with _ | m
    · simp
    · cases m <;> simp [roleReady_iff]
  have head : headSendable s l = true ↔ s.queue l ≠ [] ∧ (s.link l).state = .active ∧
      (∃ c, (s.link l).current = some c ∧ (s.slot c).state = .ready) ∧ (s.link l).budgetHeld = false ∧
      ((s.link l).hold = false ∨ 0 < (s.link l).allowance) := by
    simp [headSendable, roleReady_iff, and_assoc]
  unfold sealEligible MaySeal
  rw [Bool.and_eq_true, Bool.and_eq_true, Bool.or_eq_true, slot, path, lane, head]
  exact ⟨fun ⟨⟨h, p⟩, t⟩ => ⟨p, t, or_assoc.1 h⟩, fun ⟨p, t, h⟩ => ⟨⟨or_assoc.2 h, p⟩, t⟩⟩

/-- The law of the request list by the machine's test. -/
theorem requestLaw_iff (s : State) : RequestLaw s ↔
    s.sealer.requests.Nodup ∧ ∀ l, l ∈ s.sealer.requests ↔ sealEligible s l = true := by
  simp only [RequestLaw, sealEligible_iff]

end Sys2Proof.Machine
end

