-- ==== Sys2Proof/Laws/Steps.lean ====
section
/-! SUPPORT. The inductions of the model, packaged once: what the single starts keep, the end of an event
keeps; what every effect keeps, every command and event keeps. -/

namespace Sys2Proof.Machine

/-- The links of a refreshed request list may be on it. -/
theorem refreshRequests_eligible (s : State) :
    ∀ l ∈ (refreshRequests s).sealer.requests, sealEligible (refreshRequests s) l = true := by
  intro l hl
  have hl' : l ∈ s.sealer.requests.filter (sealEligible s) ++
      (allFin 64).filter fun l => !(s.sealer.requests.filter (sealEligible s)).contains l && sealEligible s l := hl
  show sealEligible s l = true
  rw [List.mem_append, List.mem_filter, List.mem_filter] at hl'
  obtain ⟨_, h⟩ | ⟨_, h⟩ := hl'
  · exact h
  · rw [Bool.and_eq_true] at h
    exact h.2

/-- A property kept by what the blocks take up by themselves: each start in a state where it can be taken, and
a sealing start with a request list that has been refreshed. -/
structure BlocksKeep (P : State → Prop) : Prop where
  requests : ∀ s r, P s → P (s.setSealRequests r)
  draw : ∀ s d, P s → P { s with draws := d }
  sealing : ∀ s, sealerReady s = true → (∀ l ∈ s.sealer.requests, sealEligible s l = true) → P s →
    P (startSealing s)
  opening : ∀ s, openerReady s = true → P s → P (startOpening s)
  derivation : ∀ s, deriverReady s = true → P s → P (beginDerivation s)

/-- The start that is taken next can be taken. -/
theorem nextStart_ready {s : State} {c : Start} (h : nextStart s = some c) :
    match c with
    | .sealing => sealerReady s = true
    | .opening => openerReady s = true
    | .derivation => deriverReady s = true := by
  unfold nextStart at h
  cases hs : sealerReady s <;> cases ho : openerReady s <;> rw [hs, ho] at h <;> dsimp only at h
  · split at h <;> cases h
    assumption
  · cases h
    rfl
  · cases h
    rfl
  · split at h <;> cases h <;> rfl

/-- Drawing the order of a double start changes the draws alone. -/
theorem drawStart_eq (s : State) : ∃ d, drawStart s = { s with draws := d } := by
  unfold drawStart
  split
  · exact ⟨_, rfl⟩
  · exact ⟨s.draws, rfl⟩

/-- A property kept by what the host port takes up by itself as well. -/
structure PortKeeps (P : State → Prop) : Prop extends BlocksKeep P where
  take : ∀ s, takeReady s = true → P s → P (takeRecord s)
  send : ∀ s, canSend s = true → P s → P (startSending s)

theorem settleBlocksFor_keeps {P : State → Prop} (h : BlocksKeep P) :
    ∀ (n : Nat) (s : State), P s → P (settleBlocksFor n s) := by
  intro n
  induction n with
  | zero => intro s hs; exact h.requests _ _ hs
  | succ n ih =>
    intro s hs
    simp only [settleBlocksFor]
    have h1 : P (refreshRequests s) := h.requests _ _ hs
    split
    · rename_i c hc
      refine ih _ ?_
      have he := refreshRequests_eligible s
      have hr := nextStart_ready hc
      obtain ⟨d, hd⟩ := drawStart_eq (refreshRequests s)
      rw [hd]
      have h2 := h.draw _ d h1
      cases c with
      | sealing => exact h.sealing _ hr he h2
      | opening => exact h.opening _ hr h2
      | derivation => exact h.derivation _ hr h2
    · exact h1

/-- What every start keeps, the blocks' coming to rest keeps. -/
theorem settleBlocks_keeps {P : State → Prop} (h : BlocksKeep P) (s : State) (hs : P s) :
    P (settleBlocks s) :=
  settleBlocksFor_keeps h _ s hs

theorem settleHostFor_keeps {P : State → Prop} (h : PortKeeps P) :
    ∀ (n : Nat) (s : State), P s → P (settleHostFor n s) := by
  intro n
  induction n with
  | zero => intro s hs; exact hs
  | succ n ih =>
    intro s hs
    simp only [settleHostFor]
    split
    · rename_i ht
      exact ih _ (settleBlocks_keeps h.toBlocksKeep _ (h.take _ ht hs))
    · split
      · rename_i hc
        exact ih _ (h.send _ hc hs)
      · exact hs

/-- What every start, take and send start keeps, the coming to rest keeps. -/
theorem settle_keeps {P : State → Prop} (h : PortKeeps P) (s : State) (hs : P s) : P (settle s) :=
  settleHostFor_keeps h _ _ (settleBlocks_keeps h.toBlocksKeep _ hs)

/-- A property kept by every effect of a command or an event. -/
structure StepKeeps (P : State → Prop) : Prop extends PortKeeps P where
  queue : ∀ s q, P s → P { s with pending := q }
  attention : ∀ s b, P s → P (s.modHost fun h => { h with attention := b })
  byte : ∀ s r, P s → P (s.setRecordReceiver r)
  arrival : ∀ s x, P s → P (receive x s)
  clock : ∀ s, P s → P (advanceClock s)
  timers : ∀ s, P s → P (countTimers s)
  sample : ∀ s, P s → P (sampling s)
  expiry : ∀ t l s, P s → P (expire t l s)
  operation : ∀ r s, P s → P (endOperation r s)
  unit : ∀ s, P s → P (freeUnit s)
  monitor : ∀ p f s, P s → P (monitorEvent p f s)
  cycle : ∀ bytes s, P s → P (feedCycle bytes s)
  transmit : ∀ s, P s → P (transmitCycle s)
  line : ∀ s, P s → P (s.setLine none)
  sent : ∀ s r d, s.host.line = some r → r.frame = some d → P s → P ((s.setLine none).freeFrame d)
  release : ∀ s, P s → P (s.modHost fun h => { h with resetInput := false })
  reset : ∀ cause input s, P s → P (resetPart cause input s)

theorem finish_keeps {P : State → Prop} (h : StepKeeps P) (s : State) (hs : P s) : P (finish s) :=
  h.attention _ _ (settle_keeps h.toPortKeeps _ hs)

theorem startWaiting_keeps {P : State → Prop} (h : StepKeeps P) (s : State) (hs : P s) :
    P (startWaiting s) := by
  unfold startWaiting
  split
  · exact finish_keeps h _ hs
  · exact hs

theorem takeByte_keeps {P : State → Prop} (h : StepKeeps P) (b : Byte) (s : State) (hs : P s) :
    P (takeByte b s) := by
  unfold takeByte
  split
  · exact h.byte _ _ hs
  · exact finish_keeps h _ (h.arrival _ _ (h.byte _ _ hs))

theorem byteArrives_keeps {P : State → Prop} (h : StepKeeps P) (s : State) (b : Byte) (hs : P s) :
    P (byteArrives s b) :=
  takeByte_keeps h b _ (startWaiting_keeps h s hs)

theorem bytesArrive_keeps {P : State → Prop} (h : StepKeeps P) (bs : List Byte) (s : State) (hs : P s) :
    P (bytesArrive bs s) := by
  have hfold : ∀ (bs : List Byte) (s : State), P s → P (bs.foldl byteArrives s) := by
    intro bs
    induction bs with
    | nil => intro s hs; exact hs
    | cons b bs ih => intro s hs; exact ih _ (byteArrives_keeps h s b hs)
  unfold bytesArrive
  split
  · exact hs
  · exact hfold bs s hs

/-! ### A command row and its record -/

/-- The number of bits with a byte put after them. -/
theorem toNat_append_byte {n : Nat} (x : BitVec n) (b : Byte) :
    (x ++ b).toNat = x.toNat * 256 + b.toNat := by
  rw [BitVec.toNat_append, ← Nat.shiftLeft_add_eq_or_of_lt (BitVec.isLt _), Nat.shiftLeft_eq]

/-- Two bytes of a number put together again. -/
theorem append_beBytes (x : W16) :
    BitVec.ofNat 8 (x.toNat / 256 ^ 1) ++ BitVec.ofNat 8 (x.toNat / 256 ^ 0) = x := by
  apply BitVec.eq_of_toNat_eq
  have hx := x.isLt
  simp only [toNat_append_byte, BitVec.toNat_ofNat]
  omega

/-- Four bytes of a number put together again. -/
theorem append_beBytes_four (x : W32) :
    BitVec.ofNat 8 (x.toNat / 256 ^ 3) ++ BitVec.ofNat 8 (x.toNat / 256 ^ 2) ++
      BitVec.ofNat 8 (x.toNat / 256 ^ 1) ++ BitVec.ofNat 8 (x.toNat / 256 ^ 0) = x := by
  apply BitVec.eq_of_toNat_eq
  have hx := x.isLt
  simp only [toNat_append_byte, BitVec.toNat_ofNat]
  omega

/-- The effect named in a command row is the effect of running its record's body. -/
theorem runCommand_linkConfigure (link : Byte) (mp q : W16) (bc ic oc att gc th ta ra sh : Byte)
    (s : State) :
    runCommand (0x10 :: link :: (beBytes 2 mp.toNat ++ [bc, ic, oc, att, gc] ++ beBytes 2 q.toNat ++
      [th, ta, ra, sh])) s = configure link (readProfile mp bc ic oc att gc q th ta ra sh) s := by
  have h : runCommand (0x10 :: link :: (beBytes 2 mp.toNat ++ [bc, ic, oc, att, gc] ++
      beBytes 2 q.toNat ++ [th, ta, ra, sh])) s =
      configure link (readProfile
        (BitVec.ofNat 8 (mp.toNat / 256 ^ 1) ++ BitVec.ofNat 8 (mp.toNat / 256 ^ 0)) bc ic oc att gc
        (BitVec.ofNat 8 (q.toNat / 256 ^ 1) ++ BitVec.ofNat 8 (q.toNat / 256 ^ 0)) th ta ra sh) s := rfl
  rw [h, append_beBytes, append_beBytes]

theorem runCommand_queueDiscard (link : Byte) (count : W16) (s : State) :
    runCommand (0x33 :: link :: beBytes 2 count.toNat) s = discard link count s := by
  have h : runCommand (0x33 :: link :: beBytes 2 count.toNat) s =
      discard link (BitVec.ofNat 8 (count.toNat / 256 ^ 1) ++
        BitVec.ofNat 8 (count.toNat / 256 ^ 0)) s := rfl
  rw [h, append_beBytes]

theorem runCommand_setClock (value : W32) (s : State) :
    runCommand (0x60 :: beBytes 4 value.toNat) s = setClock value s := by
  have h : runCommand (0x60 :: beBytes 4 value.toNat) s =
      setClock (BitVec.ofNat 8 (value.toNat / 256 ^ 3) ++ BitVec.ofNat 8 (value.toNat / 256 ^ 2) ++
        BitVec.ofNat 8 (value.toNat / 256 ^ 1) ++ BitVec.ofNat 8 (value.toNat / 256 ^ 0)) s := rfl
  rw [h, append_beBytes_four]

/-- The arrival of a command whose effect is that of its record: the receipt of that record. -/
theorem commandArrives_eq_receive {kind : RecordKind} {tag : Byte} {body : List Byte}
    {effect : State → State × Answer}
    (he : ∀ s, answer tag (effect s) = answerRecord (.record kind tag body) s) (s : State) :
    commandArrives kind tag body effect s =
      if s.host.resetInput then s
      else if s.host.receiver = .hunt ∧ body.length ≤ 1038 then
        finish (receive (.record kind tag body) (startWaiting s))
      else bytesArrive (recordBytes kind.code tag body) s := by
  unfold commandArrives receive
  rw [he]
  split
  · rfl
  · split
    · split <;> rfl
    · rfl

theorem commandArrives_keeps {P : State → Prop} (h : StepKeeps P) {kind : RecordKind} {tag : Byte}
    {body : List Byte} {effect : State → State × Answer}
    (he : ∀ s, answer tag (effect s) = answerRecord (.record kind tag body) s) (s : State) (hs : P s) :
    P (commandArrives kind tag body effect s) := by
  rw [commandArrives_eq_receive he]
  split
  · exact hs
  · split
    · exact finish_keeps h _ (h.arrival _ _ (startWaiting_keeps h _ hs))
    · exact bytesArrive_keeps h _ _ hs

/-! ### Every command and event -/

theorem runAgenda_keeps {P : State → Prop} (h : StepKeeps P) :
    ∀ (n : Nat) (items : List TickItem) (s : State), P s → P (runAgenda n items s) := by
  intro n
  induction n with
  | zero => intro items s hs; exact hs
  | succ n ih =>
    intro items s hs
    simp only [runAgenda]
    split
    · rename_i i _
      refine ih _ _ (settle_keeps h.toPortKeeps _ ?_)
      have h1 : P (spendDraw items s) := by
        unfold spendDraw
        split
        · exact hs
        · exact h.draw _ _ hs
      cases i with
      | sampling => exact h.sample _ h1
      | expiry t l =>
        simp only [takeItem]
        split
        · exact h.expiry _ _ _ h1
        · exact h1
    · exact hs

theorem tickPart_keeps {P : State → Prop} (h : StepKeeps P) (s : State) (hs : P s) : P (tickPart s) := by
  unfold tickPart
  split
  · exact h.clock _ hs
  · exact h.attention _ _ (runAgenda_keeps h _ _ _ (h.timers _ (h.clock _ hs)))

theorem expiryEvent_keeps {P : State → Prop} (h : StepKeeps P) (t : TimerName) (l : LinkId) (s : State)
    (hs : P s) : P (expiryEvent t l s) := by
  unfold expiryEvent
  split
  · exact finish_keeps h _ (h.expiry _ _ _ hs)
  · exact hs

theorem operationEnds_keeps {P : State → Prop} (h : StepKeeps P) (r : Requester) (s : State) (hs : P s) :
    P (operationEnds r s) :=
  finish_keeps h _ (h.unit _ (settleBlocks_keeps h.toBlocksKeep _ (h.operation _ _ hs)))

theorem endSending_keeps {P : State → Prop} (h : StepKeeps P) (s : State) (hs : P s) :
    P (endSending s) := by
  unfold endSending
  split
  · exact hs
  · rename_i r hr
    split
    · exact h.reset _ _ _ hs
    · split
      · rename_i d hd
        exact finish_keeps h _ (h.sent _ _ _ hr hd hs)
      · exact finish_keeps h _ (h.line _ hs)

theorem receiveCycle_keeps {P : State → Prop} (h : StepKeeps P) (port : Port) (good : Bool)
    (bytes : Vector Byte 96) (s : State) (hs : P s) : P (receiveCycle port good bytes s) := by
  unfold receiveCycle
  split
  · exact hs
  · refine finish_keeps h _ ?_
    have h1 := h.monitor port (fun m => m.mark good) s hs
    split
    · exact h.cycle _ _ h1
    · exact h1

/-- What every effect keeps, every command and event keeps; and every command and event answers a next
state. -/
theorem exec_keeps {P : State → Prop} (h : StepKeeps P) (c : Instr) (s : State) (hs : P s) :
    ∃ t, exec c s = .next t ∧ P t := by
  have hq : ∀ (b : Bool) (t : State), P t → P (if b then finish t else s) := by
    intro b t ht
    split
    · exact finish_keeps h _ ht
    · exact hs
  cases c with
  | linkConfigure =>
    exact ⟨_, rfl, commandArrives_keeps h (fun s => by
      simp only [answerRecord, runCommand_linkConfigure]) s hs⟩
  | linkActivate => exact ⟨_, rfl, commandArrives_keeps h (fun _ => rfl) s hs⟩
  | linkIsolate => exact ⟨_, rfl, commandArrives_keeps h (fun _ => rfl) s hs⟩
  | linkResume => exact ⟨_, rfl, commandArrives_keeps h (fun _ => rfl) s hs⟩
  | linkDeactivate => exact ⟨_, rfl, commandArrives_keeps h (fun _ => rfl) s hs⟩
  | linkUnconfigure => exact ⟨_, rfl, commandArrives_keeps h (fun _ => rfl) s hs⟩
  | linkStatus => exact ⟨_, rfl, commandArrives_keeps h (fun _ => rfl) s hs⟩
  | rootLoad => exact ⟨_, rfl, commandArrives_keeps h (fun _ => rfl) s hs⟩
  | rootErase => exact ⟨_, rfl, commandArrives_keeps h (fun _ => rfl) s hs⟩
  | storeStatus => exact ⟨_, rfl, commandArrives_keeps h (fun _ => rfl) s hs⟩
  | renew => exact ⟨_, rfl, commandArrives_keeps h (fun _ => rfl) s hs⟩
  | trafficOut => exact ⟨_, rfl, commandArrives_keeps h (fun _ => rfl) s hs⟩
  | queueHold => exact ⟨_, rfl, commandArrives_keeps h (fun _ => rfl) s hs⟩
  | queueRelease => exact ⟨_, rfl, commandArrives_keeps h (fun _ => rfl) s hs⟩
  | queueUnhold => exact ⟨_, rfl, commandArrives_keeps h (fun _ => rfl) s hs⟩
  | queueDiscard =>
    exact ⟨_, rfl, commandArrives_keeps h (fun s => by
      simp only [answerRecord, runCommand_queueDiscard]) s hs⟩
  | portMode => exact ⟨_, rfl, commandArrives_keeps h (fun _ => rfl) s hs⟩
  | mapSet => exact ⟨_, rfl, commandArrives_keeps h (fun _ => rfl) s hs⟩
  | mapRead => exact ⟨_, rfl, commandArrives_keeps h (fun _ => rfl) s hs⟩
  | mapCommit => exact ⟨_, rfl, commandArrives_keeps h (fun _ => rfl) s hs⟩
  | trunkStatus => exact ⟨_, rfl, commandArrives_keeps h (fun _ => rfl) s hs⟩
  | faultPolicy => exact ⟨_, rfl, commandArrives_keeps h (fun _ => rfl) s hs⟩
  | faultList => exact ⟨_, rfl, commandArrives_keeps h (fun _ => rfl) s hs⟩
  | faultRead => exact ⟨_, rfl, commandArrives_keeps h (fun _ => rfl) s hs⟩
  | faultPurge => exact ⟨_, rfl, commandArrives_keeps h (fun _ => rfl) s hs⟩
  | setClock =>
    exact ⟨_, rfl, commandArrives_keeps h (fun s => by
      simp only [answerRecord, runCommand_setClock]) s hs⟩
  | identify => exact ⟨_, rfl, commandArrives_keeps h (fun _ => rfl) s hs⟩
  | reset => exact ⟨_, rfl, commandArrives_keeps h (fun _ => rfl) s hs⟩
  | recordArrival => exact ⟨_, rfl, bytesArrive_keeps h _ s hs⟩
  | malformedRecord => exact ⟨_, rfl, bytesArrive_keeps h _ s hs⟩
  | takeRecord =>
    refine ⟨_, rfl, ?_⟩
    split
    · rename_i ht
      exact finish_keeps h _ (h.take _ ht hs)
    · exact hs
  | sendStart =>
    refine ⟨_, rfl, ?_⟩
    split
    · rename_i hc
      exact finish_keeps h _ (h.send _ hc hs)
    · exact hs
  | sendEnd => exact ⟨_, rfl, endSending_keeps h s hs⟩
  | powerOn => exact ⟨_, rfl, h.reset _ _ _ hs⟩
  | resetLineAssert =>
    refine ⟨_, rfl, ?_⟩
    split
    · exact hs
    · exact h.reset _ _ _ hs
  | resetLineRelease => exact ⟨_, rfl, hq _ _ (h.release _ hs)⟩
  | tick => exact ⟨_, rfl, tickPart_keeps h s hs⟩
  | intervalTimerExpiry l => exact ⟨_, rfl, expiryEvent_keeps h _ l s hs⟩
  | offerTimerExpiry l => exact ⟨_, rfl, expiryEvent_keeps h _ l s hs⟩
  | graceTimerExpiry l => exact ⟨_, rfl, expiryEvent_keeps h _ l s hs⟩
  | backoffTimerExpiry l => exact ⟨_, rfl, expiryEvent_keeps h _ l s hs⟩
  | sealingStart =>
    refine ⟨_, rfl, ?_⟩
    split
    · rename_i hr
      exact finish_keeps h _ (h.sealing _ hr (refreshRequests_eligible s) (h.requests _ _ hs))
    · exact hs
  | blockOperationEnd =>
    refine ⟨_, rfl, ?_⟩
    split
    · exact operationEnds_keeps h _ s hs
    · exact hs
  | sealingCompletion =>
    refine ⟨_, rfl, ?_⟩
    split
    · exact operationEnds_keeps h _ s hs
    · exact hs
  | openingStart =>
    refine ⟨_, rfl, ?_⟩
    split
    · rename_i hr
      exact finish_keeps h _ (h.opening _ hr hs)
    · exact hs
  | openingCompletion =>
    refine ⟨_, rfl, ?_⟩
    split
    · exact operationEnds_keeps h _ s hs
    · exact hs
  | derivationBegin =>
    refine ⟨_, rfl, ?_⟩
    split
    · rename_i hr
      exact finish_keeps h _ (h.derivation _ hr hs)
    · exact hs
  | derivationCompletion =>
    refine ⟨_, rfl, ?_⟩
    split
    · exact operationEnds_keeps h _ s hs
    · exact hs
  | receiveCycle port good bytes => exact ⟨_, rfl, receiveCycle_keeps h port good bytes s hs⟩
  | signalAbsence port => exact ⟨_, rfl, finish_keeps h _ (h.monitor _ _ _ hs)⟩
  | transmitCycleRequest => exact ⟨_, rfl, finish_keeps h _ (h.transmit _ hs)⟩

/-- What every effect keeps, every step keeps. -/
theorem step_keeps {P : State → Prop} (h : StepKeeps P) {s t : State} (hs : P s)
    (ht : step s = .next t) : P t := by
  unfold step at ht
  split at ht
  · cases ht
    exact hs
  · rename_i c rest _
    obtain ⟨t', he, hp⟩ := exec_keeps h c { s with pending := rest } (h.queue _ _ hs)
    rw [he] at ht
    cases ht
    exact hp

end Sys2Proof.Machine
end

