-- ==== Sys2Proof/Tests/Slice0.lean ====
section
/-! SUPPORT. Tests: the checks of WellFormed, worked examples of the manual, and for every statement with
hypotheses a concrete state and operands that meet them, clause by clause. -/

namespace Sys2Proof.Tests

open Sys2Proof Sys2Proof.Machine

set_option Elab.async false

/-! ### WellFormed: each check refuses an ill-formed term -/

theorem test_wf_refuses_long_key : WellFormed (.rootLoad 1 2 (List.replicate 1037 0)) = false := by
  decide +kernel
theorem test_wf_accepts_longest_key : WellFormed (.rootLoad 1 2 (List.replicate 1036 0)) = true := by
  decide +kernel
theorem test_wf_refuses_long_payload : WellFormed (.trafficOut 1 2 (List.replicate 1038 0)) = false := by
  decide +kernel
theorem test_wf_accepts_longest_payload : WellFormed (.trafficOut 1 2 (List.replicate 1037 0)) = true := by
  decide +kernel
theorem test_wf_refuses_short_record : WellFormed (.recordArrival [0x5A, 0, 3, 1, 7]) = false := by decide
theorem test_wf_refuses_wrong_start : WellFormed (.recordArrival [0x5B, 0, 2, 1, 7]) = false := by decide
theorem test_wf_refuses_wrong_kind : WellFormed (.recordArrival [0x5A, 0, 2, 3, 7]) = false := by decide
theorem test_wf_refuses_wrong_length : WellFormed (.recordArrival [0x5A, 0, 1, 1]) = false := by decide
theorem test_wf_refuses_good_head : WellFormed (.malformedRecord [0x5A, 0, 2]) = false := by decide
theorem test_wf_refuses_good_kind : WellFormed (.malformedRecord [0x5A, 0, 2, 1]) = false := by decide
theorem test_wf_accepts_bad_length : WellFormed (.malformedRecord [0x5A, 4, 0x11]) = true := by decide
theorem test_wf_accepts_bad_kind : WellFormed (.malformedRecord [0x5A, 4, 0x10, 0x81]) = true := by decide

/-! ### Worked examples of the manual -/

/-- Chapter 3's header example: TRAFFIC, epoch 5, sequence 69630, P = 300. -/
theorem test_header_example : headerBytes .traffic 5 0x00010FFE 300 =
    [0x01, 0x00, 0x05, 0x00, 0x01, 0x0F, 0xFE, 0x01, 0x34, 0xB6] := by decide

/-- The start byte and a good header bring a receiver's check to the same fields. -/
theorem test_header_check : checkHeader 512 [0x01, 0x00, 0x05, 0x00, 0x01, 0x0F, 0xFE, 0x01, 0x34, 0xB6] =
    some ⟨.traffic, 5, 0x00010FFE, 308⟩ := by decide

/-- A header whose sum is wrong, and a body longer than the profile allows, fail the check (R138). -/
theorem test_header_check_fails :
    checkHeader 512 [0x01, 0x00, 0x05, 0x00, 0x01, 0x0F, 0xFE, 0x01, 0x34, 0xB7] = none ∧
    checkHeader 299 [0x01, 0x00, 0x05, 0x00, 0x01, 0x0F, 0xFE, 0x01, 0x34, 0xB6] = none := by decide

/-- R46: a frame of 300 bytes costs 39 blocks; R8: the limits of classes 0 and 6. -/
theorem test_cost_and_limits : cost 300 = 39 ∧ hardLimitOf 0 = 65536 ∧ softLimitOf 65536 = 49152 ∧
    hardLimitOf 6 = 2 ^ 28 := by decide

/-- R69: a number above the highest moves the window and drops what falls more than 63 below. -/
theorem test_window_moves : (enterWindow 70 { highest := 66, accepted := [66, 7, 6] }).accepted = [70, 66, 7] := by
  decide

/-- R62: the edges of the window below a highest of 100. -/
theorem test_window_edges :
    windowVerdict { highest := 100, accepted := [100] } 36 = some .stale ∧
    windowVerdict { highest := 100, accepted := [100] } 37 = none ∧
    windowVerdict { highest := 100, accepted := [100] } 100 = some .repeated ∧
    windowVerdict { highest := 100, accepted := [100] } 0 = some .badSeq := by decide

/-- R121: three good markers align a port; the fourth bad marker loses it. -/
theorem test_monitor : (((({} : Monitor).mark true).mark true).mark true).state = .aligned ∧
    (((((⟨.aligned, 0, 0⟩ : Monitor).mark false).mark false).mark false).mark false).state = .lost ∧
    ((((⟨.aligned, 0, 0⟩ : Monitor).mark false).mark false).mark false).state = .aligned := by decide

/-- R150: the declare count of 2 and the clear count of 3 of PORT_LOSS. -/
theorem test_entry_states :
    nextEntryState ⟨2, 3, true⟩ .clear 0 true = (.rising, 1) ∧
    nextEntryState ⟨2, 3, true⟩ .rising 1 true = (.declared, 0) ∧
    nextEntryState ⟨2, 3, true⟩ .falling 2 false = (.clear, 0) := by decide

/-- R163, R175: the READY notice that goes out first after power-on. -/
theorem test_ready_notice : (startSending State.reset).host.line =
    some ⟨[0x5A, 0, 9, 0x82, 0, 1, 1, 0, 0, 0, 0, 1], none, false⟩ := by decide +kernel

/-! ### States that meet the hypotheses of the statements -/

/-- A state in which a record is taken at once: the line is busy, nothing waits. -/
def quiet : State :=
  { State.reset with host := { State.reset.host with notices := [], attention := false, line := some ⟨[], none, false⟩ } }

/-- A profile at the far ends of its ranges, and the smallest one. -/
def largest : Profile := ⟨1024, 6, 5, 3, 7, 3, 1280, 255, .isolate, true, true⟩
def smallest : Profile := ⟨16, 0, 0, 0, 1, 0, 16, 1, .noAction, false, false⟩

/-- One link's context replaced. -/
def put (l : LinkId) (k : Link) (s : State) : State := { s with links := tput s.links l k }

/-- Every key slot READY but one. -/
def slots (k : SlotNo) (x : KeySlot) : Vector KeySlot 160 := tput (Vector.replicate 160 { state := .ready }) k x

/-- Key slots replaced. -/
def store (v : Vector KeySlot 160) (s : State) : State := { s with keys := { s.keys with slots := v } }

/-- The live map names link 63 in slot 95, and the trunk is up. -/
def carried (s : State) : State :=
  { s with trunk := { s.trunk with
      monitorA := ⟨.aligned, 0, 0⟩, live := tput s.trunk.live 95 (some 63) } }

/-- A command waits at the front of the queue. -/
def before (i : Instr) (s : State) : State := { s with pending := [i] }

theorem test_hyp_StepRunsTheFrontCommand :
    (before .tick quiet).pending = .tick :: [] ∧ quiet.pending = [] := by decide +kernel

theorem test_hyp_StepKeepsMemoryLaw :
    MemoryLaw { before .tick quiet with store := { quiet.store with mem := [(0, 1), (131071, 255)] } } ∧
    ∃ t, step { before .tick quiet with store := { quiet.store with mem := [(0, 1), (131071, 255)] } } =
      .next t := by
  refine ⟨?_, _, rfl⟩
  unfold MemoryLaw
  decide +kernel

/-- Link 63 ACTIVE on a circuit that is up, its receiver in a header. -/
def receivingLink : State :=
  let s := put 63 { state := .active } (carried (before .tick quiet))
  { s with trunk := { s.trunk with receivers := tput s.trunk.receivers 63 (.header [0x01]) } }

theorem test_hyp_StepKeepsReceiverLaw : ReceiverLaw receivingLink ∧ receivingLink.receiver 63 ≠ .hunt ∧
    ∃ t, step receivingLink = .next t := by
  refine ⟨?_, by decide +kernel, _, rfl⟩
  unfold ReceiverLaw
  decide +kernel

/-- Link 63 in OFFERING with its OFFER in the lane and a frame in its queue, on slots 0 and 1. -/
def renewingLink : Link :=
  { state := .active, profile := some smallest, current := some 0, next := some 1, lane := some (.offer 6 1 1),
    renewal := { state := .offering, offeredEpoch := 6, headNonce := 1, attempts := 1 } }
def currentSlot : KeySlot := { state := .ready, owner := 63, epoch := 5 }
def nextSlot : KeySlot := { state := .derivingKeys, owner := 63, epoch := 6 }
def renewing : State :=
  let s := put 63 renewingLink (before .tick quiet)
  { s with
    keys := { s.keys with slots := tput (tput s.keys.slots 0 currentSlot) 1 nextSlot }
    store := { s.store with
      descs := tput s.store.descs 383
        (some ⟨63, false, .traffic, none, none, 17, [1279], some 9, none, none⟩)
      queues := tput s.store.queues 63 [383] } }

theorem renewing_link (l : LinkId) : renewing.link l = if 63 = l then renewingLink else {} :=
  (tget_tput _ _ _ _).trans (congrArg _ (tget_replicate _ _))

theorem renewing_slot (k : SlotNo) :
    renewing.slot k = if 1 = k then nextSlot else if 0 = k then currentSlot else {} :=
  (tget_tput _ _ _ _).trans (congrArg _ ((tget_tput _ _ _ _).trans (congrArg _ (tget_replicate _ _))))

theorem renewing_desc (d : DescNo) : renewing.desc d =
    if 383 = d then some ⟨63, false, .traffic, none, none, 17, [1279], some 9, none, none⟩ else none :=
  (tget_tput _ _ _ _).trans (congrArg _ (tget_replicate _ _))

theorem renewing_units : heldUnits renewing true = [] ∧ heldUnits renewing false = [1279] := by
  have h : ∀ d, frameUnits renewing d = if 383 = d then [1279] else [] := fun d => by
    unfold frameUnits
    rw [renewing_desc]
    by_cases hd : 383 = d <;> simp [hd]
  unfold heldUnits
  rw [show frameUnits renewing = fun d => if 383 = d then [1279] else [] from funext h]
  decide +kernel

theorem renewing_descs : descsHeld renewing true = 0 ∧ descsHeld renewing false = 1 := by
  unfold descsHeld
  simp only [renewing_desc]
  decide +kernel

theorem renewing_roleLaw : RoleLaw renewing := by
  refine ⟨fun l => ?_, fun l => ?_, ?_, ?_, ?_, ?_⟩
  · unfold LinkRoles
    rw [renewing_link l]
    by_cases hl : 63 = l
    · subst hl
      simp [renewingLink, renewing_slot, currentSlot, nextSlot, Link.live]
      exact fun r hr => absurd hr List.not_mem_nil
    · simp [hl, Link.live]
  · rw [renewing_link l]
    by_cases hl : 63 = l <;> simp [hl, LaneTable, renewingLink]
  · have ho : ∀ k, operationsOn renewing k = 0 := fun _ => rfl
    unfold SlotStates
    simp only [renewing_slot, renewing_link, ho]
    decide +kernel
  · exact ⟨List.nodup_nil, fun _ h => absurd h List.not_mem_nil, fun _ h => nomatch (h : none = some _)⟩
  · exact ⟨(fun _ h => nomatch (h : none = some _)), (fun _ h => nomatch (h : none = some _))⟩
  · refine ⟨List.nodup_nil, fun l => ?_, fun _ h => absurd h List.not_mem_nil, .inl rfl⟩
    rw [renewing_link]
    by_cases hl : 63 = l <;> simp [hl, renewingLink] <;> exact List.not_mem_nil

theorem renewing_storeLaw : StoreLaw renewing := by
  have hp : framePlaces renewing = [383] := by decide +kernel
  refine ⟨by rw [hp]; decide, fun d => ?_, fun inbound => ?_, fun l p h => ?_, ?_,
    (fun _ h => nomatch (h : none = some _)), ?_⟩
  · rw [hp, renewing_desc]
    by_cases hd : 383 = d
    · simp [hd]
    · simp [hd, Ne.symm hd]
  · cases inbound
    · rw [unitsHeld, renewing_units.2, renewing_descs.2]
      decide +kernel
    · rw [unitsHeld, renewing_units.1, renewing_descs.1]
      decide +kernel
  · rw [renewing_link l] at h
    by_cases hl : 63 = l
    · subst hl
      cases h
      decide +kernel
    · rw [if_neg hl] at h
      cases h
  · simp only [renewing_link]
    decide +kernel
  · unfold ReceiverLaw
    decide +kernel

theorem test_hyp_StepKeepsRoleAndStoreLaw : RoleLaw renewing ∧ StoreLaw renewing ∧ ∃ t, step renewing = .next t :=
  ⟨renewing_roleLaw, renewing_storeLaw, _, rfl⟩

theorem renewing_requestLaw : RequestLaw renewing :=
  (requestLaw_iff _).2 ⟨by decide +kernel, by decide +kernel⟩

theorem test_hyp_StepKeepsRestLaw : RoleLaw renewing ∧ StoreLaw renewing ∧ RequestLaw renewing ∧
    RestLaw renewing ∧ ∃ t, step renewing = .next t :=
  ⟨renewing_roleLaw, renewing_storeLaw, renewing_requestLaw, by unfold RestLaw; decide +kernel, _, rfl⟩

/-- Link 3 waits for a key slot, and none is FREE. -/
def waitingLink : State :=
  let s := put 3 { state := .active, renewal := { pendingTrigger := true } } (before .tick quiet)
  { s with keys := { s.keys with slots := slots 0 { state := .ready }, waitList := [3] } }

theorem test_hyp_StepKeepsWaitListLaw : WaitListLaw waitingLink ∧ ∃ t, step waitingLink = .next t := by
  refine ⟨?_, _, rfl⟩
  unfold WaitListLaw
  decide +kernel

theorem test_hyp_StepKeepsWaitersLaw : WaitersLaw waitingLink ∧ ∃ t, step waitingLink = .next t := by
  refine ⟨?_, _, rfl⟩
  unfold WaitersLaw WaitListLaw
  decide +kernel

/-- A declared entry on the notice list with the link after it, and the TABLE_OVERFLOW entry. -/
def reporting : State :=
  let s := put 3 { eventPending := true } (before .tick quiet)
  { s with
    faults := { s.faults with entries :=
      [⟨.link 63, .headerErrors, .declared, 0, 1, 8, some 0, 0, true⟩,
       ⟨.device, .tableOverflow, .clear, 0, 0, 1, none, 0, false⟩] }
    host := { s.host with notices := [.fault (.link 63) .headerErrors, .link 3] } }

theorem reporting_faultTableLaw : FaultTableLaw reporting := by
  unfold FaultTableLaw
  decide +kernel

theorem reporting_noticeLaw : NoticeLaw reporting := by
  refine ⟨by decide +kernel, by decide +kernel, fun source kind => ?_⟩
  change NoticeItem.fault source kind ∈ [NoticeItem.fault (.link 63) .headerErrors, NoticeItem.link 3] ↔
    ∃ e ∈ [(⟨.link 63, .headerErrors, .declared, 0, 1, 8, some 0, 0, true⟩ : FaultEntry),
      ⟨.device, .tableOverflow, .clear, 0, 0, 1, none, 0, false⟩], _
  constructor
  · intro h
    rcases List.mem_cons.1 h with h | h
    · cases h
      exact ⟨_, List.mem_cons_self, rfl, rfl, rfl⟩
    · simp at h
  · rintro ⟨e, he, rfl, rfl, hp⟩
    rcases List.mem_cons.1 he with h | h
    · subst h
      exact List.mem_cons_self
    · rcases List.mem_singleton.1 h with rfl
      cases hp

theorem test_hyp_StepKeepsFaultTableLaw : FaultTableLaw reporting ∧ ∃ t, step reporting = .next t :=
  ⟨reporting_faultTableLaw, _, rfl⟩

theorem test_hyp_StepKeepsNoticeLaw :
    FaultTableLaw reporting ∧ NoticeLaw reporting ∧ ∃ t, step reporting = .next t :=
  ⟨reporting_faultTableLaw, reporting_noticeLaw, _, rfl⟩

/-- Every link at the largest values of its table. -/
def full : State :=
  let k : Link := { state := .configured, profile := some largest, allowance := 255, renewal := { attempts := 7 } }
  { before .tick quiet with links := Vector.replicate 64 k }

theorem test_hyp_StepKeepsRangeLaw : RangeLaw full ∧ ∃ t, step full = .next t := by
  refine ⟨⟨?_, ?_, ?_, ?_, ?_, ?_⟩, _, rfl⟩
  · intro l p h
    have : (full.link l).profile = some largest := by simp [State.link, full]
    rw [this] at h
    cases h
    unfold ProfileInRange
    decide
  · decide +kernel
  · decide +kernel
  · unfold MonitorOk
    intro port
    cases port <;> decide +kernel
  · unfold PolicyInRange
    intro kind
    cases kind <;> decide +kernel
  · decide +kernel

/-- Four records wait, four replies wait, and the attention output is asserted. -/
def crowded : State :=
  { before .tick quiet with host := { quiet.host with
      buffer := List.replicate 4 .malformed, replies := List.replicate 4 ⟨1, .ok, [], false⟩,
      attention := true } }

theorem test_hyp_StepKeepsPortLaw : PortLaw crowded ∧ ∃ t, step crowded = .next t := by
  refine ⟨?_, _, rfl⟩
  unfold PortLaw
  decide +kernel

/-- A frame of sequence 2 in opening, at the low end of its slot's window. -/
def opening : Opening := ⟨63, .traffic, 159, 5, 2, 17, 511, 1, 0, false⟩
def windowed : State :=
  let s := store (slots 159 { state := .ready, epoch := 5, highest := 65, accepted := [65, 3], inFlight := 1 })
    (before .tick quiet)
  { s with
    opener := ⟨[], some opening⟩
    engine := ⟨some .opener, .opener⟩
    store := { s.store with
      descs := tput s.store.descs 511 (some ⟨63, true, .traffic, some 5, some 2, 17, [2047], none, none, none⟩) } }

theorem test_hyp_StepKeepsWindowLaw : WindowLaw windowed ∧ ∃ t, step windowed = .next t := by
  refine ⟨⟨?_, ?_⟩, _, rfl⟩
  · unfold WindowOk
    decide +kernel
  · intro r h
    cases h
    decide +kernel

theorem test_hyp_CommandIsItsRecord :
    WellFormed (.rootLoad 1 2 (List.replicate 1036 0)) = true ∧
    recordOf (.rootLoad 1 2 (List.replicate 1036 0)) =
      some (.command, 1, 0x20 :: 2 :: List.replicate 1036 0) := by decide +kernel

/-- A frame in sealing whose payload fills its two units. -/
def sealingFrame : Sealing := ⟨63, .traffic, 159, 5, 1, 128, some 383, 1, 0, false⟩
def outbound : Descriptor := ⟨63, false, .traffic, some 5, some 1, 128, [1279, 0], some 9, none, none⟩
def sealing : State :=
  let s := store (slots 159 { state := .ready, epoch := 5, inFlight := 1 }) quiet
  { s with
    sealer := { s.sealer with current := some sealingFrame }
    engine := ⟨some .sealer, .sealer⟩
    store := { s.store with descs := tput s.store.descs 383 (some outbound) } }

theorem test_hyp_SealingEnciphersTheFrame :
    (MemoryLaw sealing ∧ sealingFrame.desc = some 383 ∧ sealing.desc 383 = some outbound ∧
      outbound.chain.Nodup ∧ sealingFrame.length ≤ 64 * outbound.chain.length) ∧
    (({ sealingFrame with desc := none, length := 14 } : Sealing).desc = none ∧
      ({ sealingFrame with desc := none, length := 14 } : Sealing).length ≤ sealing.sealer.control.length) := by
  unfold MemoryLaw
  decide +kernel

theorem test_hyp_OpeningDeciphersTheFrame :
    MemoryLaw windowed ∧
    windowed.desc opening.desc = some ⟨63, true, .traffic, some 5, some 2, 17, [2047], none, none, none⟩ ∧
    ([2047] : List UnitNo).Nodup ∧ opening.length + 8 ≤ 64 * [2047].length := by
  unfold MemoryLaw
  decide +kernel

theorem test_hyp_RootKeyCannotBeRead :
    SameButRootKeys (quiet.setRoot 63 ⟨.fresh, 1⟩) (quiet.setRoot 63 ⟨.fresh, 2⟩) ∧
    (quiet.setRoot 63 ⟨.fresh, 1⟩).root 63 ≠ (quiet.setRoot 63 ⟨.fresh, 2⟩).root 63 := by
  refine ⟨⟨⟨_, none, rfl⟩, by decide +kernel, rfl⟩, by decide +kernel⟩

theorem test_hyp_FinishKeeps : quiet.host.buffer = [] := by decide +kernel

theorem test_hyp_FinishAtRest :
    (quiet.host.buffer = [] ∧ blocksAtRest quiet = true ∧ canSend quiet = false) ∧
    (State.reset.host.buffer = [] ∧ blocksAtRest State.reset = true ∧ canSend State.reset = true) := by
  decide +kernel

/-! Link commands -/

theorem test_hyp_LinkCommandsRefused :
    takesAtOnce quiet = true ∧ (List.replicate 1036 (0 : Byte)).length ≤ 1036 ∧
    (List.replicate 1037 (0 : Byte)).length ≤ 1037 ∧ 64 ≤ (64 : Byte).toNat ∧
    linkOfByte 63 = some 63 ∧
    (takesAtOnce (put 63 { state := .isolated } quiet) = true ∧
      ((put 63 { state := .isolated } quiet).link 63).live = true) ∧
    (quiet.link 63).live = false ∧ (quiet.link 63).state ≠ .configured ∧ (quiet.link 63).state ≠ .active := by
  decide +kernel

theorem test_hyp_ProfileCommands :
    takesAtOnce quiet = true ∧ linkOfByte 63 = some 63 ∧ (quiet.link 63).state = .idle ∧
    (ProfileInRange largest ∧ largest = ⟨(1024 : W16).toNat, (6 : Byte).toNat, (5 : Byte).toNat,
      (3 : Byte).toNat, (7 : Byte).toNat, (3 : Byte).toNat, (1280 : W16).toNat, (255 : Byte).toNat,
      largest.tagAction, largest.isolateOnFailure, largest.startHeld⟩ ∧
      (2 : Byte) = largest.tagAction.code ∧ (1 : Byte) = flagByte largest.isolateOnFailure) ∧
    (ProfileInRange smallest ∧ (0 : Byte) = smallest.tagAction.code) ∧
    ((15 : W16).toNat < 16 ∧ 1024 < (1025 : W16).toNat ∧ 6 < (7 : Byte).toNat ∧ 5 < (6 : Byte).toNat ∧
      3 < (4 : Byte).toNat ∧ (0 : Byte).toNat < 1 ∧ 7 < (8 : Byte).toNat ∧ 1280 < (1281 : W16).toNat ∧
      2 < (3 : Byte).toNat ∧ 1 < (2 : Byte).toNat) ∧
    (takesAtOnce (put 63 { state := .configured } quiet) = true ∧
      ((put 63 { state := .configured } quiet).link 63).state = .configured) := by
  unfold ProfileInRange
  decide +kernel

/-- Link 63 CONFIGURED with a live slot and a FRESH root record. -/
def loaded (s : State) : State :=
  (put 63 { state := .configured, profile := some smallest } (carried s)).setRoot 63 ⟨.fresh, 7⟩

theorem test_hyp_LinkActivateTakesASlot :
    (takesAtOnce (loaded quiet) = true ∧ linkOfByte 63 = some 63 ∧
      ((loaded quiet).link 63).state = .configured ∧ ((loaded quiet).link 63).profile = some smallest ∧
      hasSlot (loaded quiet) 63 = true ∧ ((loaded quiet).root 63).state = .fresh ∧
      ((loaded quiet).slot 0).state = .free) ∧
    (takesAtOnce (loaded (store (slots 159 {}) quiet)) = true ∧
      ((loaded (store (slots 159 {}) quiet)).slot 159).state = .free ∧
      ∀ j : SlotNo, j < 159 → ((loaded (store (slots 159 {}) quiet)).slot j).state ≠ .free) ∧
    (takesAtOnce (loaded (store (slots 0 { state := .ready }) quiet)) = true ∧
      ∀ k, ((loaded (store (slots 0 { state := .ready }) quiet)).slot k).state ≠ .free) ∧
    (takesAtOnce (put 63 { state := .configured, profile := some smallest } quiet) = true ∧
      hasSlot (put 63 { state := .configured, profile := some smallest } quiet) 63 = false) := by
  decide +kernel

/-- Link 63 ACTIVE in OFFERING, its current slot 159 and its next slot 158. -/
def offering : State :=
  put 63 { state := .active, profile := some smallest, current := some 159, next := some 158,
           renewal := { state := .offering, offeredEpoch := 6, attempts := 1, offer := .running 1 2 } }
    (store (tput (slots 159 { state := .ready, epoch := 5 }) 158 { state := .derivingKeys, epoch := 6 })
      (carried quiet))

theorem test_hyp_LinkIsolateKeepsKeysAndQueue :
    (takesAtOnce offering = true ∧ linkOfByte 63 = some 63 ∧ (offering.link 63).state = .active ∧
      (0 : LinkId) ≠ 63 ∧ 0 ∉ offering.keys.waitList) ∧
    (takesAtOnce (put 63 { state := .isolated } quiet) = true ∧
      ((put 63 { state := .isolated } quiet).link 63).state = .isolated) := by decide +kernel

/-- Link 63 in CUTTING, a frame in sealing under its previous slot 159. -/
def cuttingLink : State :=
  put 63 { state := .active, profile := some smallest, current := some 158, previous := some 159,
           renewal := { state := .cutting, grace := .running 4 5 } } sealing

theorem test_hyp_IsolationReleasesSlots :
    ((offering.link 63).next = some 158 ∧ (offering.slot 158).inFlight = 0 ∧ offering.keys.waitList = [] ∧
      (offering.link 63).previous ≠ some 159 ∧ (offering.slot 159).state ≠ .free) ∧
    (takesAtOnce cuttingLink = true ∧ (cuttingLink.link 63).state = .active ∧
      (cuttingLink.link 63).previous = some 159 ∧ (cuttingLink.slot 159).inFlight ≠ 0) := by decide +kernel

/-- Link 63 waits for a key slot, and slot 158 alone is FREE. -/
def handing : State :=
  let s := put 63 { state := .active, profile := some smallest, current := some 159 }
    (store (tput (slots 159 { state := .ready, epoch := 5 }) 158 {}) quiet)
  { s with keys := { s.keys with waitList := [63] } }

theorem test_hyp_HandOver :
    quiet.keys.waitList = [] ∧ (∀ k, (waitingLink.slot k).state ≠ .free) ∧
    (handing.keys.waitList = 63 :: [] ∧ (handing.slot 158).state = .free ∧
      ∀ i : SlotNo, i < 158 → (handing.slot i).state ≠ .free) := by decide +kernel

/-- Link 63 ISOLATED and QUIET with budget held, its current slot 159 at epoch 65534, slot 0 FREE. -/
def isolatedLink : State :=
  put 63 { state := .isolated, profile := some smallest, current := some 159, budgetHeld := true }
    (store (tput (slots 159 { state := .ready, epoch := 65534 }) 0 {}) quiet)

theorem test_hyp_LinkResumeReevaluates :
    (takesAtOnce offering = true ∧ (offering.link 63).state = .active) ∧
    (takesAtOnce (put 63 { state := .isolated } quiet) = true ∧
      standing (put 63 { state := .isolated } quiet) 63 = false) ∧
    (takesAtOnce isolatedLink = true ∧ linkOfByte 63 = some 63 ∧ (isolatedLink.link 63).state = .isolated ∧
      standing isolatedLink 63 = true ∧ (isolatedLink.link 63).renewal.state = .quiet ∧
      (isolatedLink.link 63).renewal.pendingTrigger = false ∧
      (isolatedLink.link 63).current = some 159 ∧ (isolatedLink.slot 159).epoch ≠ 65535 ∧
      (isolatedLink.slot 0).state = .free ∧ ∀ j : SlotNo, j < 0 → (isolatedLink.slot j).state ≠ .free) := by
  decide +kernel

/-- A link with a frame in its queue, one in transmission, one in reception and one on the open list. -/
def loadedLink : State :=
  let x : Descriptor := ⟨63, false, .traffic, none, none, 1, [0], some 9, none, none⟩
  let y : Descriptor := ⟨63, true, .traffic, some 5, some 1, 1, [1280], none, none, none⟩
  { offering with
    store := { offering.store with
      descs := tput (tput (tput (tput offering.store.descs 0 (some x)) 1 (some { x with chain := [1] })) 384
        (some y)) 385 (some { y with chain := [1281] })
      queues := tput offering.store.queues 63 [0] }
    opener := ⟨[384], none⟩
    trunk := { offering.trunk with
      transmitters := tput offering.trunk.transmitters 63 (.frame 1 5)
      receivers := tput offering.trunk.receivers 63 (.body 385 3) } }

theorem test_hyp_LinkDeactivateTearsDown :
    takesAtOnce loadedLink = true ∧ linkOfByte 63 = some 63 ∧ (loadedLink.link 63).live = true ∧
    0 ∈ loadedLink.queue 63 ∧ (384 ∈ loadedLink.opener.waiting ∧ frameOf loadedLink 63 384 = true ∧
      loadedLink.transmitter 63 = .frame 1 5 ∧ loadedLink.receiver 63 = .body 385 3) ∧
    (2 ∉ loadedLink.queue 63 ∧ frameOf loadedLink 63 2 = false) := by decide +kernel

theorem test_hyp_TeardownErasesKeys :
    ((offering.link 63).current = some 159 ∧ (offering.slot 159).inFlight = 0) ∧
    ((offering.link 63).next = some 158) ∧
    ((put 63 { previous := some 159 } sealing).link 63).previous = some 159 ∧
    ((put 63 { previous := some 159 } sealing).slot 159).inFlight ≠ 0 := by decide +kernel

theorem test_hyp_ReadingCommandsChangeNothing :
    takesAtOnce quiet = true ∧ linkOfByte 63 = some 63 ∧ pairExists (.link 63) .epochExhausted = true ∧
    pairExists .trunk .tagFailures = false := by decide +kernel

theorem test_hyp_ClearingReadsClear :
    takesAtOnce quiet = true ∧ linkOfByte 0 = some 0 ∧ 1 < (2 : Byte).toNat := by decide +kernel

theorem test_hyp_RootRecordCommands :
    takesAtOnce quiet = true ∧ (List.replicate 32 (0 : Byte)).length = 32 ∧
    (List.replicate 1036 (0 : Byte)).length ≤ 1036 ∧ (List.replicate 33 (0 : Byte)).length ≠ 32 ∧
    64 ≤ (64 : Byte).toNat ∧ linkOfByte 63 = some 63 ∧
    (takesAtOnce offering = true ∧ (offering.link 63).state = .active) ∧
    (quiet.link 63).state = .idle ∧ quiet.root 63 = ⟨.empty, 0⟩ := by decide +kernel

/-- An ACTIVE, QUIET link with its current slot 159 at an epoch, and the other key slots given. -/
def active (epoch : Nat) (k : SlotNo) (x : KeySlot) : State :=
  put 63 { state := .active, profile := some smallest, current := some 159 }
    (store (tput (slots 159 { state := .ready, epoch := epoch }) k x) (carried quiet))

theorem test_hyp_RenewActsAsATrigger :
    (takesAtOnce offering = true ∧ linkOfByte 63 = some 63 ∧ (offering.link 63).renewal.state ≠ .quiet) ∧
    (takesAtOnce (active 65535 0 {}) = true ∧ ((active 65535 0 {}).link 63).state = .active ∧
      ((active 65535 0 {}).link 63).renewal.state = .quiet ∧
      ((active 65535 0 {}).link 63).renewal.pendingTrigger = false ∧
      ((active 65535 0 {}).link 63).current = some 159 ∧ ((active 65535 0 {}).slot 159).epoch = 65535) ∧
    (((active 65534 158 {}).slot 159).epoch ≠ 65535 ∧ ((active 65534 158 {}).slot 158).state = .free ∧
      ∀ j : SlotNo, j < 158 → ((active 65534 158 {}).slot j).state ≠ .free) ∧
    (∀ k, ((active 65534 0 { state := .draining }).slot k).state ≠ .free) := by decide +kernel

theorem test_hyp_RenewalStartsWithAnOffer : ((active 65534 0 {}).link 63).current = some 159 := by
  decide +kernel

/-! Outbound traffic -/

theorem offering_room : findRoom offering false 1 = some (0, [0]) := by decide +kernel

theorem test_hyp_TrafficOutIsAdmitted :
    (takesAtOnce offering = true ∧ MemoryLaw offering ∧ linkOfByte 63 = some 63 ∧
      (offering.link 63).live = true ∧ (offering.link 63).profile = some smallest) ∧
    (([] : List Byte).length = 0 ∧ smallest.maxPayload < (List.replicate 17 (0 : Byte)).length) ∧
    (1 ≤ (List.replicate 16 (0 : Byte)).length ∧ (List.replicate 16 (0 : Byte)).length ≤ smallest.maxPayload ∧
      queueUnits offering 63 + 1 ≤ smallest.quota) ∧
    findRoom offering false 1 = some (0, [0]) :=
  ⟨by unfold MemoryLaw; decide +kernel, by decide +kernel, by decide +kernel, offering_room⟩

/-- A queue at its quota: one frame of 16 units. -/
def fullQueue : State :=
  { offering with store := { offering.store with
      descs := tput offering.store.descs 0
        (some ⟨63, false, .traffic, none, none, 1024, [0, 1, 2, 3, 4, 5, 6, 7, 8, 9, 10, 11, 12, 13, 14, 15], some 9, none, none⟩)
      queues := tput offering.store.queues 63 [0] } }

/-- No outbound descriptor is free. -/
def noRoom : State :=
  { offering with store := { offering.store with
      descs := Vector.replicate 512 (some ⟨0, false, .traffic, none, none, 1, [], some 9, none, none⟩) } }

theorem noRoom_room : findRoom noRoom false 1 = none := by
  have h : lowestFreeDesc noRoom false = none := by
    refine List.find?_eq_none.2 fun d _ => ?_
    have : noRoom.desc d = some ⟨0, false, .traffic, none, none, 1, [], some 9, none, none⟩ :=
      tget_replicate _ _
    rw [this]
    decide
  unfold findRoom
  rw [h]

theorem test_hyp_TrafficOutIsRefused :
    (takesAtOnce fullQueue = true ∧ smallest.quota < queueUnits fullQueue 63 + 1) ∧
    (takesAtOnce noRoom = true ∧ queueUnits noRoom 63 + 1 ≤ smallest.quota ∧
      findRoom noRoom false 1 = none) :=
  ⟨by decide +kernel, by decide +kernel, by decide +kernel, noRoom_room⟩

theorem test_hyp_RoomIsLowestNumbered :
    findRoom offering false 1 = some (0, [0]) ∧ findRoom noRoom false 1 = none := ⟨offering_room, noRoom_room⟩

theorem test_hyp_HoldControls :
    takesAtOnce offering = true ∧ linkOfByte 63 = some 63 ∧ (offering.link 63).live = true ∧
    (255 : Byte) ≠ 0 := by decide +kernel

theorem test_hyp_QueueDiscardFreesTheHead :
    takesAtOnce loadedLink = true ∧ (loadedLink.link 63).live = true ∧ 384 < (385 : W16).toNat ∧
    (384 : W16).toNat ≤ 384 ∧ 0 ∈ (loadedLink.queue 63).take 1 := by decide +kernel

/-! Trunk commands -/

theorem test_hyp_PortModeSelects :
    takesAtOnce quiet = true ∧ 2 < (3 : Byte).toNat ∧ (2 : Byte) = ProtectionMode.fixedB.code ∧
    (reconcileCircuits quiet (applyMode .fixedB quiet)).trunk.selected ≠ quiet.trunk.selected ∧
    (reconcileCircuits quiet (applyMode .fixedA quiet)).trunk.selected = quiet.trunk.selected := by
  decide +kernel

theorem test_hyp_MapSetEditsTheShadow :
    takesAtOnce quiet = true ∧ (some 63 = linkOfByte 63 ∧ (63 : Byte).toNat < 64) ∧
    ((none : Option LinkId) = linkOfByte 0xFF) ∧
    (1 ≤ (96 : Byte).toNat ∧ (96 : Byte).toNat ≤ 96 ∧ (0 : Byte).toNat ≤ 95 ∧
      (0 : Byte).toNat + (96 : Byte).toNat ≤ 96) ∧
    (95 < (96 : Byte).toNat ∧ 96 < (95 : Byte).toNat + (2 : Byte).toNat ∧ 96 < (97 : Byte).toNat) ∧
    (64 ≤ (64 : Byte).toNat ∧ (64 : Byte) ≠ 0xFF) := by decide +kernel

theorem test_hyp_MapReadShowsTheMaps : takesAtOnce quiet = true ∧ 1 < (2 : Byte).toNat := by decide +kernel

theorem test_hyp_MapCommitAffectsChangedLinks :
    takesAtOnce loadedLink = true ∧
    slotSet loadedLink.trunk.live 63 ≠ slotSet loadedLink.trunk.shadow 63 := by decide +kernel

/-- The circuit of link 63 goes down with FIXED_B, its offer timer running; and it comes up with FIXED_B, its offer
timer paused, where port B alone is ALIGNED. -/
def beyond : State :=
  let s := put 63 { offering.link 63 with renewal := { (offering.link 63).renewal with offer := .paused 1 2 } } offering
  { s with trunk := { s.trunk with monitorA := {}, monitorB := ⟨.aligned, 0, 0⟩ } }

theorem test_hyp_PortModePauses :
    (takesAtOnce offering = true ∧ (offering.link 63).renewal.offer = .running 1 2 ∧
      circuitUp offering 63 = true ∧
      circuitUp (reconcileCircuits offering (applyMode .fixedB offering)) 63 = false) ∧
    (takesAtOnce beyond = true ∧ (beyond.link 63).renewal.offer = .paused 1 2 ∧ circuitUp beyond 63 = false ∧
      circuitUp (reconcileCircuits beyond (applyMode .fixedB beyond)) 63 = true) := by
  simp only [circuitUp_reconcileCircuits]
  decide +kernel

/-! Fault and port commands, the host line -/

theorem test_hyp_FaultAndClockCommands :
    takesAtOnce quiet = true ∧
    ((15 : Byte) ≠ 0 ∧ (15 : Byte).toNat ≤ 15 ∧ 1 ≤ (1 : Byte).toNat ∧ (15 : Byte).toNat ≤ 15) ∧
    15 < (16 : Byte).toNat := by decide +kernel

/-- The reply of RESET on the line. -/
def resetGoing : State :=
  { quiet with host := { quiet.host with line := some ⟨[1], none, true⟩, resetPending := true } }

theorem test_hyp_ResetCommandResetsAfterItsReply :
    takesAtOnce quiet = true ∧ resetGoing.host.line = some ⟨[1], none, true⟩ := by decide +kernel

/-- The reset input asserted. -/
def asserted : State := { quiet with host := { quiet.host with resetInput := true } }

theorem test_hyp_RecordsArrive :
    asserted.host.resetInput = true ∧
    (quiet.host.resetInput = false ∧ quiet.host.receiver = .hunt ∧ canSend quiet = false ∧
      quiet.host.buffer = [] ∧ canTake quiet = true ∧ (List.replicate 1038 (0 : Byte)).length ≤ 1038 ∧
      isMalformedHead [0x5A, 4, 0x11] = true) ∧
    (canTake resetGoing = false ∧ canSend resetGoing = false ∧ resetGoing.host.buffer.length < 4) ∧
    (crowded.host.receiver = .hunt ∧ canSend crowded = false ∧ crowded.host.buffer ≠ [] ∧
      4 ≤ crowded.host.buffer.length) := by decide +kernel

/-- R164: READY has its send start in the event of a byte that completes no record, and releases attention. -/
theorem test_ready_goes_before_a_byte :
    exec (.recordArrival [0x5A]) State.reset = .next (byteArrives State.reset 0x5A) ∧
    (byteArrives State.reset 0x5A).host.line =
      some ⟨[0x5A, 0, 9, 0x82, 0, 1, 1, 0, 0, 0, 0, 1], none, false⟩ ∧
    (byteArrives State.reset 0x5A).host.attention = false ∧
    (byteArrives State.reset 0x5A).host.receiver = .collect [] := ⟨rfl, by decide +kernel⟩

theorem test_hyp_BytesArrive :
    (quiet.host.resetInput = false ∧ canSend quiet = false ∧
      receiveByte quiet.host.receiver 0x5A = (.collect [], none) ∧
      receiveByte quiet.host.receiver 0 = (.hunt, none)) ∧
    (State.reset.host.resetInput = false ∧ canSend State.reset = true ∧ State.reset.host.buffer = [] ∧
      blocksAtRest State.reset = true ∧
      receiveByte State.reset.host.receiver 0x5A = (.collect [], none)) := by decide +kernel

/-- One record waits, and there is room for its reply. -/
def waitingRecord : State := { quiet with host := { quiet.host with buffer := [.malformed] } }

theorem test_hyp_RecordsAreTakenInOrder :
    (waitingRecord.host.buffer = .malformed :: [] ∧ canTake waitingRecord = true) ∧
    canTake crowded = false ∧ (0x17 : Byte).toNat ∉ assignedCodes ∧
    ((0x10 : Byte).toNat ∈ assignedCodes ∧ (List.replicate 13 (0 : Byte)).length < fieldWidth (0x10 : Byte).toNat ∧
      fieldWidth (0x10 : Byte).toNat < (List.replicate 15 (0 : Byte)).length) ∧
    ((0x62 : Byte).toNat ∈ assignedCodes ∧ fieldWidth (0x62 : Byte).toNat < ([0] : List Byte).length) ∧
    ((0x20 : Byte).toNat ∈ assignedCodes ∧ ([] : List Byte).length < fieldWidth (0x20 : Byte).toNat) := by
  decide +kernel

/-- The line is free, with a notice and an inbound frame waiting. -/
def twoWaiting : State :=
  { quiet with
    store := { quiet.store with
      delivery := [384]
      descs := tput quiet.store.descs 384
        (some ⟨63, true, .traffic, some 5, some 1, 1, [1280], none, none, none⟩) }
    host := { quiet.host with line := none, notices := [.link 63], servedLast := .delivery } }

theorem test_hyp_SendStartChooses :
    ({ crowded with host := { crowded.host with line := none } } : State).host.replies ≠ [] ∧
    (twoWaiting.host.line = none ∧ twoWaiting.host.resetInput = false ∧ twoWaiting.host.replies = [] ∧
      twoWaiting.host.notices = .link 63 :: [] ∧ twoWaiting.host.servedLast = .delivery) ∧
    (twoWaiting.store.delivery = 384 :: [] ∧ (twoWaiting.desc 384).isSome = true ∧
      ({ twoWaiting with host := { twoWaiting.host with notices := [] } } : State).host.notices = []) := by
  decide +kernel

theorem test_hyp_SendEndFreesTheLine :
    quiet.host.line = some ⟨[], none, false⟩ ∧
    ({ quiet with host := { quiet.host with line := some ⟨[], some 384, false⟩ } } : State).host.line =
      some ⟨[], some 384, false⟩ := by decide +kernel

theorem test_hyp_ResetsRestoreEveryBlock :
    quiet.host.resetInput = false ∧ asserted.host.resetInput = true := by decide +kernel

/-! Tick and timers -/

theorem test_hyp_TickAdvancesClockAndSamples :
    asserted.host.resetInput = true ∧ (quiet.host.resetInput = false ∧ quiet.host.buffer = []) ∧
    dueExpiries (countTimers { quiet with host := { quiet.host with clock := quiet.host.clock + 1 } }) = [] := by
  decide +kernel

/-- Link 63 in a renewal state with its timers at their last ticks. -/
def expiring (x : RenewalState) (attempts : Nat) : State :=
  put 63 { state := .active, profile := some { smallest with attempts := 7 }, current := some 159,
           previous := some 158,
           renewal := { state := x, attempts := attempts, interval := .running 899 900, offer := .running 1 2,
                        grace := .running 4 5, backoff := .running 59 60 } }
    (store (slots 159 { state := .ready, epoch := 5 }) quiet)

theorem test_hyp_TimersExpire :
    (((expiring .offering 6).link 63).renewal.interval = .running 899 900 ∧ 900 ≤ 899 + 1) ∧
    (((expiring .offering 6).link 63).renewal.offer = .running 1 2 ∧ 2 ≤ 1 + 1 ∧
      ((expiring .offering 6).link 63).renewal.state = .offering ∧
      ((expiring .offering 6).link 63).profile = some { smallest with attempts := 7 } ∧
      ((expiring .offering 6).link 63).renewal.attempts < 7) ∧
    (7 ≤ ((expiring .offering 7).link 63).renewal.attempts ∧ 63 ∉ (expiring .offering 7).keys.waitList) ∧
    (((expiring .cutting 7).link 63).renewal.grace = .running 4 5 ∧
      ((expiring .cutting 7).link 63).renewal.state = .cutting) ∧
    (((expiring .backoff 7).link 63).renewal.backoff = .running 59 60 ∧
      ((expiring .backoff 7).link 63).renewal.state = .backoff) ∧
    ((quiet.link 63).renewal.interval.atLastTick = false ∧ (quiet.link 63).renewal.offer.atLastTick = false ∧
      (quiet.link 63).renewal.grace.atLastTick = false ∧ (quiet.link 63).renewal.backoff.atLastTick = false) := by
  decide +kernel

/-- The four timers of link 63 come due at one tick. -/
theorem test_hyp_TickTakesExpiries :
    (expiring .cutting 7).host.resetInput = false ∧
    dueExpiries (countTimers { expiring .cutting 7 with
      host := { (expiring .cutting 7).host with clock := (expiring .cutting 7).host.clock + 1 } }) =
      [.expiry .interval 63, .expiry .offer 63, .expiry .grace 63, .expiry .backoff 63] := by decide +kernel

/-- The last attempt of a profile with action ISOLATE, its next slot 157. -/
def failing (l : Link) : State :=
  put 63 { l with profile := some { smallest with attempts := 7, isolateOnFailure := true }, next := some 157 }
    (expiring .offering 7)

theorem test_hyp_RenewalFailures :
    (((failing ((expiring .offering 7).link 63)).link 63).profile =
        some { smallest with attempts := 7, isolateOnFailure := true } ∧
      ((failing ((expiring .offering 7).link 63)).link 63).renewal.offer = .running 1 2 ∧
      ((failing ((expiring .offering 7).link 63)).link 63).renewal.attempts = 7 ∧
      ((failing ((expiring .offering 7).link 63)).link 63).state = .active ∧
      ((failing ((expiring .offering 7).link 63)).link 63).next = some 157 ∧
      ((failing ((expiring .offering 7).link 63)).slot 157).inFlight = 0 ∧
      (failing ((expiring .offering 7).link 63)).keys.waitList = []) ∧
    (((expiring .cutting 7).link 63).previous = some 158 ∧ ((expiring .cutting 7).slot 158).inFlight = 0 ∧
      (expiring .cutting 7).keys.waitList = [] ∧ standing (expiring .cutting 7) 63 = false) ∧
    ((cuttingLink.link 63).renewal.grace = .running 4 5 ∧ (cuttingLink.link 63).renewal.state = .cutting ∧
      (cuttingLink.link 63).previous = some 159 ∧ (cuttingLink.slot 159).inFlight ≠ 0) := by decide +kernel

/-- R75, R85: nothing is left in the lane of a link whose renewal failed (log entry 31). -/
theorem test_failure_empties_the_lane :
    ((failRenewal 63 (put 63 { (expiring .offering 7).link 63 with lane := some (.offer 6 1 7) }
      (expiring .offering 7))).link 63).lane = none := by decide +kernel

/-! Sealing -/

/-- Link 63 with a head frame of 17 bytes in its queue, and its current slot at given values. -/
def sendable (used : Nat) (next : NextSeq) : State :=
  let s := put 63 { state := .active, profile := some smallest, current := some 159 }
    (store (slots 159 { state := .ready, epoch := 5, used := used, next := next }) (carried quiet))
  { s with store := { s.store with
      descs := tput s.store.descs 0 (some ⟨63, false, .traffic, none, none, 17, [0], some 9, none, none⟩)
      queues := tput s.store.queues 63 [0] } }

/-- Link 63 with a message in its control lane. -/
def messaging (m : LaneMsg) (used : Nat) (next : NextSeq) : State :=
  put 63 { state := .active, profile := some smallest, current := some 159, next := some 158, lane := some m,
           renewal := { state := .offering } }
    (store (tput (slots 159 { state := .ready, epoch := 5, used := used, next := next }) 158
      { state := .ready, epoch := 6, used := used, next := next }) (carried quiet))

theorem test_hyp_SealingStartAdmits :
    ((sendable 65531 (.number 0xFFFFFF00)).sealer.current = none ∧
      (refreshRequests (sendable 65531 (.number 0xFFFFFF00))).sealer.requests = 63 :: [] ∧
      ((sendable 65531 (.number 0xFFFFFF00)).link 63).lane = none ∧
      (sendable 65531 (.number 0xFFFFFF00)).queue 63 = 0 :: [] ∧
      ((sendable 65531 (.number 0xFFFFFF00)).slot 159).used + cost 17 ≤
        hardLimit (sendable 65531 (.number 0xFFFFFF00)) 63) ∧
    ((refreshRequests (sendable 65532 (.number 1))).sealer.requests = 63 :: [] ∧
      hardLimit (sendable 65532 (.number 1)) 63 < ((sendable 65532 (.number 1)).slot 159).used + cost 17) ∧
    ((refreshRequests (messaging (.offer 6 1 1) 66557 (.number 0xFFFFFFFF))).sealer.requests = 63 :: [] ∧
      ((messaging (.offer 6 1 1) 66557 (.number 0xFFFFFFFF)).slot 159).used + 3 ≤
        hardLimit (messaging (.offer 6 1 1) 66557 (.number 0xFFFFFFFF)) 63 + 1024) ∧
    ((refreshRequests (messaging (.cutover 6 1 2) 66557 (.number 0xFFFFFFFF))).sealer.requests = 63 :: [] ∧
      ((messaging (.cutover 6 1 2) 66557 (.number 0xFFFFFFFF)).link 63).previous = none ∧
      ((messaging (.cutover 6 1 2) 66557 (.number 0xFFFFFFFF)).link 63).next = some 158 ∧
      (messaging (.cutover 6 1 2) 66557 (.number 0xFFFFFFFF)).keys.waitList = [] ∧
      ((messaging (.cutover 6 1 2) 66557 (.number 0xFFFFFFFF)).slot 158).next = .number 0xFFFFFFFF ∧
      ((messaging (.cutover 6 1 2) 66557 (.number 0xFFFFFFFF)).slot 158).used + 3 ≤
        hardLimit (messaging (.cutover 6 1 2) 66557 (.number 0xFFFFFFFF)) 63 + 1024) := by decide +kernel

theorem test_hyp_SealingStartRefuses :
    ((refreshRequests (sendable 0 .exhausted)).sealer.requests = 63 :: [] ∧
      ((sendable 0 .exhausted).slot 159).next = .exhausted ∧ (sendable 0 .exhausted).queue 63 = 0 :: []) ∧
    ((refreshRequests (messaging (.offer 6 1 1) 66558 (.number 1))).sealer.requests = 63 :: [] ∧
      hardLimit (messaging (.offer 6 1 1) 66558 (.number 1)) 63 + 1024 <
        ((messaging (.offer 6 1 1) 66558 (.number 1)).slot 159).used + 3 ∧
      ((messaging (.offer 6 1 1) 66558 (.number 1)).link 63).profile = some smallest ∧
      smallest.isolateOnFailure = false ∧
      ((messaging (.offer 6 1 1) 66558 (.number 1)).link 63).next ≠ some 159 ∧
      ((messaging (.offer 6 1 1) 66558 (.number 1)).slot 159).state ≠ .free) ∧
    ((refreshRequests (messaging (.offer 6 1 1) 0 .exhausted)).sealer.requests = 63 :: [] ∧
      ((messaging (.offer 6 1 1) 0 .exhausted).slot 159).next = .exhausted) ∧
    ((refreshRequests (put 63 { (messaging (.offer 6 1 1) 0 .exhausted).link 63 with profile := some largest }
        (messaging (.offer 6 1 1) 0 .exhausted))).sealer.requests = 63 :: [] ∧
      largest.isolateOnFailure = true ∧ ((messaging (.offer 6 1 1) 0 .exhausted).link 63).state = .active) ∧
    (∀ k, ((messaging (.cutover 6 1 2) 66557 (.number 0xFFFFFFFF)).slot k).state ≠ .free) := by decide +kernel

/-- The sealer is busy with a frame of link 1, and link 63 is on its request list. -/
def requested : State :=
  let s := before .tick (sendable 0 (.number 1))
  { s with sealer := { s.sealer with requests := [63], current := some { sealingFrame with link := 1 } } }

theorem test_hyp_StepKeepsRequestLaw : RequestLaw requested ∧ ∃ t, step requested = .next t :=
  ⟨(requestLaw_iff _).2 ⟨by decide +kernel, by decide +kernel⟩, _, rfl⟩

/-- No start can be taken: with the sealer busy, or with no link that may seal. -/
theorem test_hyp_ListFollows :
    (requested.host.buffer = [] ∧ requested.sealer.current ≠ none ∧ requested.opener.waiting = [] ∧
      requested.keys.requests = []) ∧
    (quiet.host.buffer = [] ∧ (∀ l, ¬MaySeal quiet l) ∧ quiet.opener.waiting = [] ∧ quiet.keys.requests = []) := by
  refine ⟨by decide +kernel, by decide +kernel, fun l => ?_, by decide +kernel, by decide +kernel⟩
  rw [← sealEligible_iff]
  revert l
  decide +kernel

theorem test_hyp_AdmissionChargesTheSlot :
    ((sendable 49147 (.number 1)).slot 159).state ≠ .free ∧
    ((sendable 49147 (.number 1)).desc 0).isSome = true ∧
    (sendable 49147 (.number 1)).engine.unit = none ∧ requested.sealer.current ≠ none ∧
    sealing.engine.unit ≠ none := by decide +kernel

/-- R8: a frame of 17 bytes, at a cost of 5, first reaches S = 49152 from 49147 blocks used and not from 49146; the
link may act on the trigger, and a key slot is FREE or none is. -/
theorem test_hyp_ChargeCrosses :
    (let s := sendable 49147 (.number 1)
     hardLimit s 63 - hardLimit s 63 / 4 = 49152 ∧ (s.slot 159).used < 49152 ∧
       49152 ≤ (s.slot 159).used + (2 * ((17 + 15) / 16) + 1) ∧ (s.slot 159).softCrossed = false ∧
       (s.link 63).state = .active ∧ (s.link 63).renewal.state = .quiet ∧
       (s.link 63).renewal.pendingTrigger = false ∧ (s.link 63).current = some 159 ∧
       (s.slot 159).epoch ≠ 65535 ∧ ∀ k, (s.slot k).state ≠ .free) ∧
    ((active 65534 0 {}).slot 0).state = .free ∧
    ¬49152 ≤ ((sendable 49146 (.number 1)).slot 159).used + (2 * ((17 + 15) / 16) + 1) := by decide +kernel

/-- A control frame in sealing, its last block operation in the unit. -/
def sealingControl (kind : FrameKind) (x : RenewalState) : State :=
  let s := put 63 { state := .active, profile := some smallest, current := some 159, renewal := { state := x } }
    (carried sealing)
  { s with sealer := { s.sealer with
      current := some { sealingFrame with kind := kind, length := 9, desc := none } } }

theorem test_hyp_SealingCompletionHandsOver :
    ((sealingControl .offer .offering).engine.unit = some .sealer ∧
      (sealingControl .offer .offering).sealer.current =
        some { sealingFrame with kind := .offer, length := 9, desc := none } ∧
      hasSlot (sealingControl .offer .offering) 63 = true ∧
      ((sealingControl .offer .offering).slot 159).state = .ready ∧
      ((sealingControl .offer .offering).link 63).renewal.state = .offering) ∧
    ((sealingControl .offer .quiet).link 63).renewal.state ≠ .offering ∧
    ((sealingControl .cutover .cutting).link 63).renewal.state = .cutting ∧
    ((sealingControl .cutover .quiet).link 63).renewal.state ≠ .cutting ∧
    (sealing.engine.unit = some .sealer ∧ sealing.sealer.current = some sealingFrame ∧
      sealingFrame.left = 1 ∧ sealingFrame.discard = false ∧ sealing.desc 383 = some outbound ∧
      (sealing.slot 159).state = .ready ∧ hasSlot sealing 63 = false ∧ hasSlot (carried sealing) 63 = true) ∧
    ({ sealingFrame with discard := true } : Sealing).discard = true := by decide +kernel

/-- The slot of the frame in sealing replaced. -/
def sealingOn (x : KeySlot) (s : State) : State := { s with keys := { s.keys with slots := tput s.keys.slots 159 x } }

/-- A READY slot, a DRAINING slot at its last operation, and one with another in flight. -/
theorem test_hyp_Lowers :
    (∃ low, Lowers sealing 159 low) ∧
    (∃ low, Lowers (sealingOn { state := .draining, inFlight := 1 } sealing) 159 low) ∧
    (∃ low, Lowers (sealingOn { state := .draining, inFlight := 2 } sealing) 159 low) ∧
    (∃ low, Lowers windowed 159 low) ∧
    (∃ low, Lowers (sealingOn { state := .draining, inFlight := 1 } windowed) 159 low) :=
  ⟨⟨_, .inr ⟨by decide +kernel, rfl⟩⟩, ⟨_, .inl ⟨by decide +kernel, by decide +kernel, rfl⟩⟩,
    ⟨_, .inr ⟨by decide +kernel, rfl⟩⟩, ⟨_, .inr ⟨by decide +kernel, rfl⟩⟩,
    ⟨_, .inl ⟨by decide +kernel, by decide +kernel, rfl⟩⟩⟩

/-- R53: the tag of a discarded control frame stands beside the control buffer. -/
theorem test_discarded_control_tag :
    (completeSealing { sealingFrame with desc := none, tagChain := 0x0102030405060708 <<< 64, discard := true }
      sealing).sealer.controlTag = [1, 2, 3, 4, 5, 6, 7, 8] := by decide +kernel

theorem test_hyp_SealingCompletionElsewhere :
    (({ sealingFrame with kind := .offer, length := 9, desc := none, discard := true } : Sealing).discard = true ∧
      (sealingOn { state := .draining, inFlight := 1 } (sealingControl .offer .quiet)).sealer.current =
        some { sealingFrame with kind := .offer, length := 9, desc := none }) ∧
    (hasSlot (sealingOn { state := .ready, inFlight := 1 }
        { sealingControl .cutover .cutting with trunk := quiet.trunk }) 63 = false ∧
      ({ sealingControl .cutover .cutting with trunk := quiet.trunk } : State).sealer.current =
        some { sealingFrame with kind := .cutover, length := 9, desc := none }) := by decide +kernel

/-! The cipher engine -/

/-- A derivation in flight. -/
def derivingLink (left : Nat) (results : List Block) (x : KeySlot) : State :=
  let s := put 63 { state := .active, profile := some smallest, current := some 159, next := some 158 }
    (store (tput (slots 159 { state := .ready }) 158 x) quiet)
  { s with
    keys := { s.keys with derivation := some ⟨⟨158, 63, 6, 1, 2⟩, 7, left, results⟩ }
    engine := ⟨some .deriver, .deriver⟩ }

theorem test_hyp_BlockOperationEndLowersTheCount :
    quiet.engine.unit = none ∧
    (({ sealing with sealer := { sealing.sealer with current := some { sealingFrame with left := 2 } } } :
      State).engine.unit = some .sealer ∧ 2 ≤ ({ sealingFrame with left := 2 } : Sealing).left) ∧
    (windowed.engine.unit = some .opener ∧ 2 ≤ ({ opening with left := 2 } : Opening).left) ∧
    ((derivingLink 2 [] { state := .derivingKeys }).engine.unit = some .deriver ∧
      (derivingLink 2 [] { state := .derivingKeys }).keys.derivation.isSome = true) := by decide +kernel

theorem test_hyp_ArbiterIsRoundRobin :
    ({ sealing with engine := ⟨none, .sealer⟩ } : State).engine.unit = none ∧
    waiting { sealing with engine := ⟨none, .sealer⟩ } .sealer = true ∧
    (quiet.engine.unit = none ∧ waiting quiet .sealer = false ∧ waiting quiet .opener = false ∧
      waiting quiet .deriver = false) := by decide +kernel

theorem test_hyp_DerivationGivesTheKeys :
    (({ quiet with keys := { quiet.keys with requests := [⟨158, 63, 6, 1, 2⟩] } } : State).keys.requests =
        ⟨158, 63, 6, 1, 2⟩ :: [] ∧ quiet.keys.derivation = none) ∧
    ((derivingLink 1 [1, 2, 3] { state := .derivingKeys, inFlight := 1 }).keys.derivation =
        some ⟨⟨158, 63, 6, 1, 2⟩, 7, 1, [1, 2, 3]⟩ ∧
      ((derivingLink 1 [1, 2, 3] { state := .derivingKeys, inFlight := 1 }).slot 158).state = .derivingKeys ∧
      ((derivingLink 1 [1, 2, 3] { state := .derivingKeys, inFlight := 1 }).link 63).next = some 158) ∧
    ((put 63 {} (derivingLink 1 [1, 2, 3] { state := .derivingKeys })).link 63).next ≠ some 158 ∧
    (((derivingLink 1 [1, 2, 3] { state := .draining, inFlight := 1 }).slot 158).state = .draining ∧
      ((derivingLink 1 [1, 2, 3] { state := .draining, inFlight := 1 }).slot 158).inFlight = 1 ∧
      (derivingLink 1 [1, 2, 3] { state := .draining, inFlight := 1 }).keys.waitList = []) := by decide +kernel

/-- A link waits for the slot that drains. -/
theorem test_hyp_DrainedSlotIsHandedOver :
    let s := derivingLink 1 [1, 2, 3] { state := .draining, inFlight := 1 }
    ({ s with keys := { s.keys with waitList := [63] } } : State).keys.waitList = 63 :: [] ∧
    (∀ i, i ≠ 158 → (({ s with keys := { s.keys with waitList := [63] } } : State).slot i).state ≠ .free) ∧
    (({ s with keys := { s.keys with waitList := [63] } } : State).link 63).current.isSome = true := by
  decide +kernel

/-! Opening -/

/-- A frame of 17 bytes under epoch 5 at the head of the open list, its link's current slot 159. -/
def received (seq : Nat) (x : KeySlot) : State :=
  let s := put 63 { state := .active, profile := some smallest, current := some 159, previous := some 158 }
    (store (tput (slots 159 x) 158 { state := .ready, epoch := 4 }) quiet)
  { s with
    opener := ⟨[511], none⟩
    store := { s.store with
      descs := tput s.store.descs 511
        (some ⟨63, true, .traffic, some 5, some seq, 17, [2047], none, none, none⟩) } }

/-- A slot of epoch 5 with a window. -/
def seen (used : Nat) : KeySlot :=
  { state := .ready, epoch := 5, used := used, highest := 100, accepted := [100, 37] }

theorem test_hyp_OpeningStartChecksAndCharges :
    ((received 1 (seen 65531)).opener.current = none ∧ (received 1 (seen 65531)).opener.waiting = 511 :: [] ∧
      ((received 1 (seen 65531)).desc 511).isSome = true ∧
      ((received 1 (seen 65531)).link 63).current = some 159 ∧
      ((received 1 (seen 65531)).slot 159).epoch = 5 ∧ ((received 1 (seen 65531)).slot 159).state = .ready ∧
      ((received 1 (seen 65531)).slot 159).highest = 100) ∧
    (36 + 64 ≤ (seen 0).highest ∧ ¬ 37 + 64 ≤ (seen 0).highest ∧ 37 ∈ (seen 0).accepted) ∧
    ((seen 0).highest < 38 + 64 ∧ 38 ∉ (seen 0).accepted ∧ (seen 0).highest < 101) ∧
    ((seen 65531).used + (2 * ((17 + 15) / 16) + 1) ≤ hardLimit (received 38 (seen 65531)) 63 ∧
      hardLimit (received 38 (seen 65532)) 63 < (seen 65532).used + (2 * ((17 + 15) / 16) + 1)) ∧
    (∀ k, ((received 1 { seen 0 with epoch := 6 }).link 63).current = some k ∨
        ((received 1 { seen 0 with epoch := 6 }).link 63).previous = some k →
      ((received 1 { seen 0 with epoch := 6 }).slot k).epoch ≠ 5) ∧
    ((received 1 { seen 0 with state := .derivingKeys }).slot 159).state ≠ .ready := by decide +kernel

/-- An inbound frame of 17 bytes first reaches S from 49147 blocks used. -/
theorem test_hyp_OpeningChargeCrosses :
    let s := received 101 (seen 49147)
    (s.slot 159).used < hardLimit s 63 - hardLimit s 63 / 4 ∧
    hardLimit s 63 - hardLimit s 63 / 4 ≤ (s.slot 159).used + (2 * ((17 + 15) / 16) + 1) ∧
    (s.slot 159).used + (2 * ((17 + 15) / 16) + 1) ≤ hardLimit s 63 ∧ (s.slot 159).softCrossed = false ∧
    (s.link 63).renewal.state = .quiet ∧ (s.slot 159).epoch ≠ 65535 := by decide +kernel

/-- The previous slot's epoch resolves where the current slot's differs. -/
theorem test_hyp_OpeningStartUnderThePreviousSlot :
    ((put 63 { state := .active, profile := some smallest, current := some 158, previous := some 159 }
        (received 1 (seen 0))).link 63).previous = some 159 ∧
    ((received 1 (seen 0)).slot 159).epoch = 5 ∧ ((received 1 (seen 0)).slot 158).epoch ≠ 5 := by
  decide +kernel

/-- Link 63's frame of a kind in opening, its last block operation in the unit. -/
def judged (kind : FrameKind) (k : Link) : State :=
  let s := put 63 k windowed
  { s with opener := ⟨[], some { opening with kind := kind }⟩ }

set_option maxRecDepth 100000 in
/-- The last block operation of an opening of 17 bytes writes the seventeenth, and leaves the tag as it is. -/
theorem judged_operation (x : Opening) (hx : x = opening ∨ x = { opening with tagChain := 1 <<< 120 }) :
    ∃ b : Byte, (openingOperation x 4 windowed).1.store.mem = writeChain [2047] 16 [b] [] ∧
      (openingOperation x 4 windowed).2 = x.tagChain := by
  rcases hx with rfl | rfl <;> exact ⟨_, rfl, rfl⟩

theorem received_tag : ∀ b : Byte, chainBytes (writeChain [2047] 16 [b] []) [2047] 17 8 = List.replicate 8 0 := by
  decide +kernel

/-- A tag chain that ends in zero matches the eight zero bytes received, and one that does not end so fails. -/
theorem test_hyp_OpeningCompletionTag :
    (blockBytes (openingOperation opening 4 windowed).2).take 8 =
      chainBytes (openingOperation opening 4 windowed).1.store.mem [2047] opening.length 8 ∧
    (blockBytes (openingOperation { opening with tagChain := 1 <<< 120 } 4 windowed).2).take 8 ≠
      chainBytes (openingOperation { opening with tagChain := 1 <<< 120 } 4 windowed).1.store.mem [2047]
        opening.length 8 := by
  obtain ⟨b, hb, ht⟩ := judged_operation opening (.inl rfl)
  obtain ⟨c, hc, hu⟩ := judged_operation _ (.inr rfl)
  rw [hb, ht, hc, hu]
  exact ⟨(received_tag b).symm ▸ by decide, (received_tag c).symm ▸ by decide⟩

theorem test_hyp_OpeningCompletionJudges :
    ((judged .traffic { state := .active }).engine.unit = some .opener ∧
      (judged .traffic { state := .active }).opener.current = some opening ∧ opening.left = 1 ∧
      ((judged .traffic { state := .active }).desc 511).isSome = true ∧
      ((judged .traffic { state := .active }).slot 159).state = .ready ∧ opening.discard = false) ∧
    ({ opening with discard := true } : Opening).discard = true ∧
    ((judged .traffic { state := .active }).link 63).renewal.state ≠ .cutting ∧
    ((judged .traffic { state := .isolated }).link 63).state ≠ .active ∧
    (((judged .accept { state := .active, next := some 158, renewal := { state := .offering } }).link 63).next =
        some 158 ∧
      ((judged .accept { state := .active, next := some 158, renewal := { state := .offering } }).link
        63).renewal.offeredEpoch = 0) ∧
    (((judged .traffic { state := .active, current := some 159, renewal := { state := .cutting } }).link
        63).renewal.state = .cutting ∧
      ((judged .traffic { state := .active, current := some 159, renewal := { state := .cutting } }).slot
        159).epoch = opening.epoch) := by decide +kernel

/-- A frame of any kind in CUTTING, under the current epoch and under the old one. -/
def enteredOf (kind : FrameKind) (k : Link) : State :=
  ((openingOperation { opening with kind := kind } 4 (judged kind k)).1.setOpening none).modSlot 159 (enterWindow 2)

theorem test_hyp_OpeningCompletionInCutting :
    (((enteredOf .ask { state := .active, current := some 159, renewal := { state := .cutting } }).link
        63).renewal.state = .cutting ∧
      ((enteredOf .ask { state := .active, current := some 159, renewal := { state := .cutting } }).slot
        159).epoch = opening.epoch) ∧
    (((enteredOf .ask { state := .active, current := some 158, renewal := { state := .cutting } }).link
        63).renewal.state = .cutting ∧
      ((enteredOf .ask { state := .active, current := some 158, renewal := { state := .cutting } }).slot
        158).epoch ≠ opening.epoch) ∧
    (judged .ask { state := .active, current := some 158, renewal := { state := .cutting } }).opener.current =
      some { opening with kind := .ask } := by decide +kernel

theorem test_hyp_WindowNeverReopens :
    WindowOk (seen 0) ∧ windowVerdict (seen 0) 38 = none ∧ windowVerdict (seen 0) 101 = none ∧
    windowVerdict (seen 0) 37 ≠ none := by
  unfold WindowOk
  decide +kernel

/-! The trunk interface -/

theorem test_hyp_MonitorsFollowTheirPorts :
    quiet.host.resetInput = false ∧ MonitorOk ((carried quiet).monitor .a) ∧
    ∃ t, exec (.signalAbsence .a) (carried quiet) = .next t := by
  refine ⟨by decide +kernel, ?_, _, rfl⟩
  unfold MonitorOk
  decide +kernel

/-- Port A selected with a monitor, port B with another. -/
def ports (mode : ProtectionMode) (a b : Monitor) : State :=
  { quiet with trunk := { quiet.trunk with monitorA := a, monitorB := b, mode := mode } }

theorem test_hyp_ProtectionSwitches :
    asserted.host.resetInput = true ∧
    ((ports .auto ⟨.aligned, 0, 3⟩ ⟨.aligned, 0, 0⟩).trunk.mode = .auto ∧
      ((ports .auto ⟨.aligned, 0, 3⟩ ⟨.aligned, 0, 0⟩).monitor .a).state ≠ .lost ∧
      ((ports .auto ⟨.aligned, 0, 3⟩ ⟨.aligned, 0, 0⟩).monitor (otherPort .a)).state = .aligned) ∧
    ((ports .auto {} ⟨.seeking, 2, 0⟩).host.resetInput = false ∧
      ((ports .auto {} ⟨.seeking, 2, 0⟩).monitor .a).state ≠ .aligned ∧
      ((ports .auto {} ⟨.seeking, 2, 0⟩).monitor (otherPort .a)).state = .seeking ∧
      ((ports .auto {} ⟨.seeking, 2, 0⟩).monitor (otherPort .a)).good = 2) ∧
    (ports .fixedA {} {}).trunk.mode ≠ .auto ∧
    circuitUp (ports .fixedA {} {}) 63 =
      circuitUp (monitorEvent .a Monitor.absent (ports .fixedA {} {})) 63 := by decide +kernel

theorem test_hyp_ProtectionStays :
    ((ports .auto ⟨.aligned, 0, 3⟩ ⟨.aligned, 0, 0⟩).host.resetInput = false ∧
      ((ports .auto ⟨.aligned, 0, 3⟩ ⟨.aligned, 0, 0⟩).monitor .a).state = .aligned ∧
      ((ports .auto ⟨.aligned, 0, 3⟩ ⟨.aligned, 0, 0⟩).monitor .a).bad = 3) ∧
    ((ports .auto ⟨.aligned, 0, 3⟩ {}).monitor (otherPort .a)).state ≠ .aligned ∧
    (WellFormed .sendEnd = true ∧ mayMoveSelection .sendEnd = false ∧ quiet.host.buffer = [] ∧
      quiet.host.receiver = .hunt ∧ (quiet.host.line.map fun r => r.forReset) = some false) := by decide +kernel

/-- A signal absence takes the circuit of link 63 down; a third good marker of port B brings it up. -/
theorem test_hyp_CircuitsFollow :
    (offering.host.resetInput = false ∧ circuitUp offering 63 = true ∧
      circuitUp (monitorEvent .a (fun _ => ⟨.lost, 0, 0⟩) offering) 63 = false) ∧
    (let s : State := { beyond with trunk := { beyond.trunk with monitorB := ⟨.seeking, 2, 0⟩ } }
     s.host.resetInput = false ∧ circuitUp s 63 = false ∧
       circuitUp (monitorEvent .b (fun m => m.mark true) s) 63 = true) := by
  simp only [fun p f s => (monitorEvent_circuits p f s 63).1]
  decide +kernel

/-- A good cycle of the selected, ALIGNED port reaches the receiver of link 63; one of the other port, or one of a
port that is not ALIGNED, reaches none. -/
theorem test_hyp_ReceiveCycleFeeds :
    (let u := monitorEvent .a (fun m => m.mark true) offering
     offering.host.resetInput = false ∧ u.trunk.selected = .a ∧ (u.monitor .a).state = .aligned ∧
       tget offering.trunk.live 95 = some 63 ∧ (u.link 63).live = true ∧ circuitUp u 63 = true) ∧
    (monitorEvent .b (fun m => m.mark true) offering).trunk.selected ≠ .b ∧
    (let u := monitorEvent .a (fun m => m.mark true) quiet
     u.trunk.selected = .a ∧ (u.monitor .a).state ≠ .aligned) ∧
    ((monitorEvent .a (fun m => m.mark true) (carried quiet)).link 63).live = false := by
  simp only [fun p f s => (monitorEvent_circuits p f s 63).1, fun p f s => (monitorEvent_circuits p f s 63).2.1,
    fun p f s => (monitorEvent_circuits p f s 63).2.2.1, fun p f s => (monitorEvent_circuits p f s 63).2.2.2]
  decide +kernel

/-- R137: the byte of slot 95 is a start byte for the receiver of link 63; the other slots are no link's. -/
theorem test_cycle_reaches_the_receiver :
    (feedCycle (tput (Vector.replicate 96 0) 95 0xA3) offering).receiver 63 = .header [] ∧
    (feedCycle (tput (Vector.replicate 96 0xA3) 95 0x55) offering).receiver 63 = .hunt := by decide +kernel

theorem test_hyp_ProtectionStaysNext : ∃ t, exec .sendEnd quiet = .next t := ⟨_, rfl⟩

/-- Link 63 ACTIVE with its transmitter at the last byte of a control frame's copy. -/
def transmitting : State :=
  let s := put 63 { state := .active } (carried quiet)
  { s with trunk := { s.trunk with transmitters := tput s.trunk.transmitters 63 (.copy [0xA3, 0x11] 1) } }

theorem test_hyp_TransmitCycleCarriesTheStreams :
    tget transmitting.trunk.live 0 = none ∧ tget transmitting.trunk.live 95 = some 63 ∧
    (transmitting.link 63).live = true ∧ transmitting.transmitter 63 = .copy [0xA3, 0x11] 1 ∧
    (slotSet transmitting.trunk.live 63)[0]? = some 95 ∧
    ((carried quiet).link 63).live = false ∧
    (put 63 { state := .active } (carried quiet)).transmitter 63 = .idle := by decide +kernel

/-- Link 63 ACTIVE with its transmitter at a byte of a TRAFFIC frame of one byte. -/
def sentDesc : Descriptor :=
  ⟨63, false, .traffic, some 5, some 1, 1, [0], some 9, some (List.replicate 10 0), some (List.replicate 8 0)⟩
def sending (n : Nat) : State :=
  let s := put 63 { state := .active } (carried quiet)
  { s with
    trunk := { s.trunk with transmitters := tput s.trunk.transmitters 63 (.frame 383 n) }
    store := { s.store with descs := tput s.store.descs 383 (some sentDesc) } }

theorem test_hyp_TransmitCycleCarriesTheFrame :
    (((sending 19).link 63).live = true ∧ (sending 19).transmitter 63 = .frame 383 19 ∧
      (sending 19).desc 383 = some sentDesc ∧ sentDesc.header = some (List.replicate 10 0) ∧
      sentDesc.tag = some (List.replicate 8 0)) ∧
    ((slotSet (sending 0).trunk.live 63)[0]? = some 95 ∧ (sending 0).transmitter 63 = .frame 383 0) ∧
    (∀ j m, j ≠ 63 → (sending 19).transmitter j ≠ .frame 383 m) := by
  refine ⟨by decide +kernel, by decide +kernel, fun j m hj => ?_⟩
  have h : (sending 19).transmitter j = .idle :=
    (tget_tput_of_ne _ _ (Ne.symm hj)).trans (tget_replicate _ _)
  rw [h]
  exact nofun

/-! Formats and fault entries -/

theorem test_hyp_HeaderIsReadAsWritten :
    (65535 < 65536 ∧ 2 ^ 32 - 1 < 2 ^ 32 ∧ 1024 + 8 < 65536 ∧
      bodyLengthOk .traffic 1024 (1024 + 8) = true) ∧
    (full.receiver 63 = .hunt ∧ maxPayloadOf (full.link 63) = 1024) := by decide +kernel

theorem quiet_room : findRoom quiet true 1 = some (384, [1280]) := by decide +kernel

theorem noRoom_inbound : findRoom noRoom true 1 = none := by
  have h : lowestFreeDesc noRoom true = none := by
    refine List.find?_eq_none.2 fun d _ => ?_
    have : noRoom.desc d = some ⟨0, false, .traffic, none, none, 1, [], some 9, none, none⟩ :=
      tget_replicate _ _
    rw [this]
    decide
  unfold findRoom
  rw [h]

/-- Room and no room for a body of nine bytes, a tenth byte with a wrong sum, a body and a skip. -/
theorem test_hyp_ReceiverTakesTheBody :
    findRoom quiet true ((1 + 8 + 63) / 64) = some (384, [1280]) ∧
    findRoom noRoom true ((1 + 8 + 63) / 64) = none ∧
    (([0x01, 0x00, 0x05, 0x00, 0x01, 0x0F, 0xFE, 0x01, 0x34] : List Byte).length = 9 ∧
      checkHeader 512 ([0x01, 0x00, 0x05, 0x00, 0x01, 0x0F, 0xFE, 0x01, 0x34] ++ [0xB7]) = none ∧
      byteSum ([0x01, 0x00, 0x05, 0x00, 0x01, 0x0F, 0xFE, 0x01, 0x34, 0xB7] : List Byte) ≠ 0xFF) ∧
    (loadedLink.receiver 63 = .body 385 3 ∧ (loadedLink.desc 385).isSome = true ∧
      3 + (List.replicate 5 (0 : Byte)).length < 1 + 8 ∧ 3 + (List.replicate 6 (0 : Byte)).length = 1 + 8) ∧
    ((receivingLink.setReceiver 63 (.skip 2)).receiver 63 = .skip 2 ∧ ([0] : List Byte).length ≤ 2 ∧
      ([0, 0] : List Byte).length = 2) := by
  refine ⟨quiet_room, noRoom_inbound, ?_⟩
  decide +kernel

theorem test_hyp_CipherInputsAreDistinct :
    counterBlock 63 true 65535 (2 ^ 32 - 1) .ask 7 = counterBlock 63 true 65535 (2 ^ 32 - 1) .ask 7 ∧
    tagStartBlock 0 false 0 0 .traffic 1 = tagStartBlock 0 false 0 0 .traffic 1 ∧
    derivationBlock ⟨0, 63, 65535, 1, 2⟩ 4 = derivationBlock ⟨159, 63, 65535, 1, 2⟩ 4 := by decide +kernel

theorem test_hyp_EntryTakesItsSample :
    (∃ e ∈ reporting.faults.entries, e.source = (⟨.link 63, .headerErrors, false, 0⟩ : Condition).source ∧
      e.kind = (⟨.link 63, .headerErrors, false, 0⟩ : Condition).kind ∧
      ∀ e' ∈ reporting.faults.entries, e'.source = e.source → e'.kind = e.kind → e' = e) ∧
    (⟨.link 63, .headerErrors, false, 0⟩ : Condition).kind ≠ .tagFailures ∧
    findEntry reporting .portA .portLoss = none := by decide +kernel

/-- A fault table of 95 ordinary entries, the second of them in a given state and not listed. -/
def tableEntry (kind : FaultKind) (x : EntryState) (l : LinkId) : FaultEntry :=
  ⟨.link l, kind, x, 0, 1, 1, none, 0, false⟩
def table (x : EntryState) : State :=
  let entries : List FaultEntry := tableEntry .headerErrors .declared 0 :: tableEntry .headerErrors x 1 ::
    (((allFin 64).drop 2).map (tableEntry .headerErrors .declared) ++
      ((allFin 64).take 31).map (tableEntry .renewalFailed .rising))
  { quiet with faults := { quiet.faults with entries := entries } }

theorem test_hyp_EntryIsCreated :
    (findEntry quiet .portA .portLoss = none ∧
      (quiet.faults.entries.filter fun e => decide (e.kind ≠ .tableOverflow)).length < 95) ∧
    (findEntry (table .clear) .device .tableOverflow = none ∧ findEntry (table .clear) .portA .portLoss = none ∧
      95 ≤ ((table .clear).faults.entries.filter fun e => decide (e.kind ≠ .tableOverflow)).length) ∧
    ((table .clear).faults.entries =
        [tableEntry .headerErrors .declared 0] ++ tableEntry .headerErrors .clear 1 ::
          (table .clear).faults.entries.drop 2 ∧
      (tableEntry .headerErrors .clear 1).kind ≠ .tableOverflow ∧
      (tableEntry .headerErrors .clear 1).state = .clear ∧
      (tableEntry .headerErrors .clear 1).reportPending = false ∧
      (tableEntry .headerErrors .declared 0).state ≠ .clear) ∧
    (findEntry (table .declared) .portA .portLoss = none ∧
      95 ≤ ((table .declared).faults.entries.filter fun e => decide (e.kind ≠ .tableOverflow)).length ∧
      ∀ x ∈ (table .declared).faults.entries, x.state ≠ .clear) := by
  decide +kernel

/-- An ACTIVE, QUIET link with a TAG_FAILURES entry that is CLEAR and a tag-fault action. -/
def tagEntry : FaultEntry := ⟨.link 63, .tagFailures, .clear, 0, 0, 0, none, 0, false⟩
def tagged (act : TagAction) (k : SlotNo) (x : KeySlot) : State :=
  let s := put 63 { state := .active, profile := some { smallest with tagAction := act }, current := some 159 }
    (store (tput (slots 159 { state := .ready, epoch := 65534 }) k x) quiet)
  { s with faults := { s.faults with entries := [tagEntry] } }

theorem test_hyp_TagFaultActions :
    (tagEntry ∈ (tagged .isolate 0 {}).faults.entries ∧
      (∀ e' ∈ (tagged .isolate 0 {}).faults.entries, e'.source = tagEntry.source →
        e'.kind = tagEntry.kind → e' = tagEntry) ∧
      (policyOf (tagged .isolate 0 {}) .tagFailures).declare ≤ 1 ∧
      ((tagged .isolate 0 {}).link 63).profile = some { smallest with tagAction := .isolate } ∧
      ((tagged .isolate 0 {}).link 63).state = .active) ∧
    (((tagged .renew 0 {}).link 63).renewal.state = .quiet ∧
      ((tagged .renew 0 {}).link 63).renewal.pendingTrigger = false ∧
      ((tagged .renew 0 {}).link 63).current = some 159 ∧ ((tagged .renew 0 {}).slot 159).epoch ≠ 65535 ∧
      ((tagged .renew 0 {}).slot 0).state = .free) ∧
    (∀ k, ((tagged .renew 0 { state := .ready }).slot k).state ≠ .free) ∧
    ((tagged .noAction 0 {}).link 63).profile = some { smallest with tagAction := .noAction } := by
  decide +kernel

/-- A TAG_FAILURES entry that declares from RISING, from FALLING and at its creation; a link that is not ACTIVE, and
one whose renewal is under way. -/
def entered (es : List FaultEntry) (s : State) : State := { s with faults := { s.faults with entries := es } }

theorem test_hyp_TagFaultDeclares :
    (let e : FaultEntry := { tagEntry with state := .rising, persistence := 14 }
     let s := (entered [e] (tagged .isolate 0 {})).modFaults fun v =>
       { v with policies := tput v.policies FaultKind.tagFailures.index ⟨15, 1, true⟩ }
     e ∈ s.faults.entries ∧ (policyOf s .tagFailures).declare ≤ e.persistence + 1 ∧
       ∀ e' ∈ s.faults.entries, e' = e) ∧
    (let e : FaultEntry := { tagEntry with state := .falling }
     e ∈ (entered [e] (tagged .renew 0 {})).faults.entries ∧ e.source = .link 63 ∧ e.kind = .tagFailures) ∧
    (let s := entered [] (tagged .isolate 0 {})
     findEntry s (.link 63) .tagFailures = none ∧ (policyOf s .tagFailures).declare ≤ 1 ∧
       (s.faults.entries.filter fun e => decide (e.kind ≠ .tableOverflow)).length < 95) ∧
    (findEntry (table .clear) (.link 63) .tagFailures = none ∧
      ∃ e ∈ (table .clear).faults.entries, e.kind ≠ .tableOverflow ∧ e.state = .clear ∧
        e.reportPending = false) ∧
    ((put 63 { state := .isolated, profile := some { smallest with tagAction := .isolate } }
      (tagged .isolate 0 {})).link 63).state ≠ .active ∧
    ((put 63 { state := .active, profile := some { smallest with tagAction := .renew },
               renewal := { state := .offering } } (tagged .renew 0 {})).link 63).renewal.state ≠ .quiet := by
  decide +kernel

end Sys2Proof.Tests
end

section
/-! Records that are taken at once: a command row is the answer of its effect. -/

namespace Sys2Proof.Machine

/-- A command that arrives where it is taken at once is answered in the same event. -/
theorem commandArrives_of_takesAtOnce {s t : State} {kind : RecordKind} {tag : Byte} {body : List Byte}
    {effect : State → State × Answer} {code : ResultCode} {fields : List Byte}
    (h : takesAtOnce s = true) (hb : body.length ≤ 1038) (he : effect s = (t, ⟨code, fields, false⟩)) :
    Host.Outcome.next (φ := Fault) (ρ := Refusal) (commandArrives kind tag body effect s) =
      .next (replied tag code fields t) := by
  simp only [takesAtOnce, Bool.and_eq_true, Bool.not_eq_true', decide_eq_true_eq] at h
  obtain ⟨⟨⟨⟨hreset, hhunt⟩, hbuffer⟩, htake⟩, hsend⟩ := h
  have hwait : startWaiting s = s := by simp [startWaiting, hsend]
  simp [commandArrives, replied, hreset, hhunt, hb, hwait, hbuffer, htake, he]

theorem linkOfByte_eq_none {b : Byte} (h : 64 ≤ b.toNat) : linkOfByte b = none := by
  simp [linkOfByte, h]

/-- R9: a link number above 63 is refused before anything else is looked at. -/
theorem onLink_none {b : Byte} (h : linkOfByte b = none) (f : LinkId → State → State × Answer) (s : State) :
    onLink b f s = refuse .badValue s := by
  simp [onLink, h]

theorem onLink_some {b : Byte} {l : LinkId} (h : linkOfByte b = some l)
    (f : LinkId → State → State × Answer) (s : State) : onLink b f s = f l s := by
  simp [onLink, h]

/-- R109: a command on a live link alone is refused for any other. -/
theorem onLiveLink_some {b : Byte} {l : LinkId} (h : linkOfByte b = some l)
    (f : LinkId → State → State × Answer) (s : State) :
    onLiveLink b f s = if (s.link l).live then f l s else refuse .wrongState s := by
  rw [onLiveLink, onLink_some h]

theorem Link.live_eq_true {k : Link} : k.live = true ↔ k.state = .active ∨ k.state = .isolated := by
  simp [Link.live]

theorem Link.live_eq_false {k : Link} : k.live = false ↔ k.state = .idle ∨ k.state = .configured := by
  cases h : k.state <;> simp [Link.live, h]

/-- R9: every command that names a link is refused for a link number above 63. -/
theorem linkCommands_badValue {s : State} (h : takesAtOnce s = true) (tag link clear count : Byte) (c : W16)
    (key : List Byte) (mp q : W16) (bc ic oc att gc th ta ra sh : Byte) (hk : key.length ≤ 1036)
    (hl : linkOfByte link = none) :
    ∀ i ∈ [Instr.linkConfigure tag link mp bc ic oc att gc q th ta ra sh, .linkActivate tag link,
        .linkIsolate tag link, .linkResume tag link, .linkDeactivate tag link,
        .linkUnconfigure tag link, .linkStatus tag link clear, .rootLoad tag link key,
        .rootErase tag link, .renew tag link, .queueHold tag link, .queueRelease tag link count,
        .queueUnhold tag link, .queueDiscard tag link c],
      exec i s = .next (replied tag .badValue [] s) := by
  have hbody : (0x20 :: link :: key : List Byte).length ≤ 1038 := by simp only [List.length_cons]; omega
  simp only [List.forall_mem_cons, List.not_mem_nil, false_imp_iff, implies_true, and_true]
  have hrefuse : ∀ f, onLink link f s = (s, ⟨.badValue, [], false⟩) := fun f => onLink_none hl f s
  have hlive : ∀ f, onLiveLink link f s = (s, ⟨.badValue, [], false⟩) := fun f => hrefuse _
  refine ⟨?_, ?_, ?_, ?_, ?_, ?_, ?_, ?_, ?_, ?_, ?_, ?_, ?_, ?_⟩
  case refine_8 => exact commandArrives_of_takesAtOnce h hbody (hrefuse _)
  case refine_3 | refine_4 | refine_5 | refine_11 | refine_12 | refine_13 | refine_14 =>
    exact commandArrives_of_takesAtOnce h (Nat.le_of_ble_eq_true rfl) (hlive _)
  all_goals exact commandArrives_of_takesAtOnce h (Nat.le_of_ble_eq_true rfl) (hrefuse _)

/-- R10, R23, R24: a live link is refused a new profile and a new root key. -/
theorem liveLink_wrongState {s : State} (h : takesAtOnce s = true) (tag link : Byte) (key : List Byte)
    (mp q : W16) (bc ic oc att gc th ta ra sh : Byte) (hk : key.length ≤ 1036) {l : LinkId}
    (hl : linkOfByte link = some l) (hlive : (s.link l).live = true) :
    ∀ i ∈ [Instr.linkConfigure tag link mp bc ic oc att gc q th ta ra sh, .rootLoad tag link key,
      .rootErase tag link], exec i s = .next (replied tag .wrongState [] s) := by
  have hbody : (0x20 :: link :: key : List Byte).length ≤ 1038 := by simp only [List.length_cons]; omega
  have hset : ¬((s.link l).state = .idle ∨ (s.link l).state = .configured) := by
    rw [← Link.live_eq_false, hlive]
    simp
  simp only [List.forall_mem_cons, List.not_mem_nil, false_imp_iff, implies_true, and_true]
  refine ⟨commandArrives_of_takesAtOnce h (Nat.le_of_ble_eq_true rfl) ?_,
    commandArrives_of_takesAtOnce h hbody ?_, commandArrives_of_takesAtOnce h (Nat.le_of_ble_eq_true rfl) ?_⟩
  · rw [configure, onLink_some hl, if_neg hset, refuse]
  · rw [rootLoad, onLink_some hl, if_pos hlive, refuse]
  · rw [rootErase, onLink_some hl, if_pos hlive, refuse]

/-- R109: the commands on live links are refused for a link that is not live. -/
theorem notLiveLink_wrongState {s : State} (h : takesAtOnce s = true) (tag link count : Byte) (c : W16)
    {l : LinkId} (hl : linkOfByte link = some l) (hlive : (s.link l).live = false) :
    ∀ i ∈ [Instr.linkIsolate tag link, .linkResume tag link, .linkDeactivate tag link,
      .queueHold tag link, .queueRelease tag link count, .queueUnhold tag link,
      .queueDiscard tag link c], exec i s = .next (replied tag .wrongState [] s) := by
  have hrefuse : ∀ f : LinkId → State → State × Answer,
      onLiveLink link f s = (s, ⟨.wrongState, [], false⟩) := fun f => by
    rw [onLiveLink_some hl, hlive]
    rfl
  simp only [List.forall_mem_cons, List.not_mem_nil, false_imp_iff, implies_true, and_true]
  refine ⟨?_, ?_, ?_, ?_, ?_, ?_, ?_⟩ <;>
    exact commandArrives_of_takesAtOnce h (Nat.le_of_ble_eq_true rfl) (hrefuse _)

/-- R106: TRAFFIC_OUT is refused with BAD_VALUE or with WRONG_STATE and the queue depth. -/
theorem trafficOut_refused {s : State} (h : takesAtOnce s = true) (tag link : Byte) (payload : List Byte)
    (hp : payload.length ≤ 1037) :
    (linkOfByte link = none → exec (.trafficOut tag link payload) s = .next (replied tag .badValue [0, 0] s)) ∧
    ∀ l, linkOfByte link = some l → (s.link l).live = false →
      exec (.trafficOut tag link payload) s =
        .next (replied tag .wrongState (beBytes 2 (s.queue l).length) s) := by
  have hbody : (link :: payload).length ≤ 1038 := by simp only [List.length_cons]; omega
  refine ⟨fun hl => commandArrives_of_takesAtOnce h hbody ?_,
    fun l hl hlive => commandArrives_of_takesAtOnce h hbody ?_⟩
  · rw [trafficOut, hl]
    rfl
  · simp only [trafficOut, hl, hlive, Bool.false_eq_true, if_false]
    rfl

end Sys2Proof.Machine

namespace Sys2Proof.Proofs

open Sys2Proof Sys2Proof.Machine

/-- Settles O17: one lemma for each group of commands that a link number or a link state refuses. -/
theorem linkCommandsRefused : Obligations.LinkCommandsRefused := by
  unfold Obligations.LinkCommandsRefused
  intro s tag link clear count c key payload mp q bc ic oc att gc th ta ra sh h hk hp
  have htraffic := trafficOut_refused h tag link payload hp
  refine ⟨fun hlink => ?_, fun l hl => ⟨fun hlive => ?_, fun hlive => ?_, fun hstate => ?_, fun hstate => ?_⟩⟩
  · have hnone := linkOfByte_eq_none hlink
    exact ⟨linkCommands_badValue h tag link clear count c key mp q bc ic oc att gc th ta ra sh hk hnone,
      htraffic.1 hnone⟩
  · exact liveLink_wrongState h tag link key mp q bc ic oc att gc th ta ra sh hk hl hlive
  · exact ⟨notLiveLink_wrongState h tag link count c hl hlive, htraffic.2 l hl hlive⟩
  · constructor <;> refine commandArrives_of_takesAtOnce h (Nat.le_of_ble_eq_true rfl) ?_
    · rw [activate, onLink_some hl, if_neg hstate, refuse]
    · rw [unconfigure, onLink_some hl, if_neg hstate, refuse]
  · refine commandArrives_of_takesAtOnce h (Nat.le_of_ble_eq_true rfl) ?_
    rw [renewCommand, onLink_some hl]
    exact if_pos hstate

end Sys2Proof.Proofs
end

section
/-! The profile commands, the activation and the reading commands. -/

namespace Sys2Proof.Machine

/-! ### LINK_CONFIGURE and LINK_UNCONFIGURE -/

theorem TagAction.ofCode_code (t : TagAction) : TagAction.ofCode t.code = some t := by
  cases t <;> rfl

theorem flagOfCode_flagByte (b : Bool) : flagOfCode (flagByte b) = some b := by
  cases b <;> rfl

theorem flagOfCode_eq_none {b : Byte} (h : 1 < b.toNat) : flagOfCode b = none := by
  have h0 : b ≠ 0 := by rintro rfl; simp at h
  have h1 : b ≠ 1 := by rintro rfl; simp at h
  rw [flagOfCode, if_neg h0, if_neg h1]

theorem TagAction.ofCode_eq_none {b : Byte} (h : 2 < b.toNat) : TagAction.ofCode b = none := by
  have h0 : b ≠ 0 := by rintro rfl; simp at h
  have h1 : b ≠ 1 := by rintro rfl; simp at h
  have h2 : b ≠ 2 := by rintro rfl; simp at h
  rw [TagAction.ofCode, if_neg h0, if_neg h1, if_neg h2]

/-- The fields of a profile within its ranges read as that profile. -/
theorem readProfile_of_inRange {p : Profile} (hp : ProfileInRange p) {mp q : W16}
    {bc ic oc att gc th : Byte}
    (h : p = ⟨mp.toNat, bc.toNat, ic.toNat, oc.toNat, att.toNat, gc.toNat, q.toNat, th.toNat, p.tagAction,
      p.isolateOnFailure, p.startHeld⟩) :
    readProfile mp bc ic oc att gc q th p.tagAction.code (flagByte p.isolateOnFailure)
      (flagByte p.startHeld) = some p := by
  have hrange := hp
  rw [h] at hrange
  obtain ⟨hmp, hbc, hic, hoc, hatt, hgc, hq, hth⟩ := hrange
  rw [readProfile, TagAction.ofCode_code, flagOfCode_flagByte, flagOfCode_flagByte]
  exact (if_pos ⟨hmp, hbc, hic, hoc, hatt, hgc, hq, hth.1⟩).trans (congrArg some h.symm)

/-- A profile that its fields give is within the ranges of R6. -/
theorem profileInRange_of_readProfile {mp q : W16} {bc ic oc att gc th ta ra sh : Byte} {p : Profile}
    (h : readProfile mp bc ic oc att gc q th ta ra sh = some p) :
    ProfileInRange p ∧ ta.toNat ≤ 2 ∧ ra.toNat ≤ 1 ∧ sh.toNat ≤ 1 ∧ p.maxPayload = mp.toNat ∧
      p.budgetClass = bc.toNat ∧ p.intervalCode = ic.toNat ∧ p.offerCode = oc.toNat ∧
      p.attempts = att.toNat ∧ p.graceCode = gc.toNat ∧ p.quota = q.toNat ∧ p.threshold = th.toNat := by
  unfold readProfile at h
  split at h
  · next t r s ht hr hs =>
    split at h
    · next hc =>
      obtain ⟨hmp, hbc, hic, hoc, hatt, hgc, hq, hth⟩ := hc
      cases h
      have hbyte := th.isLt
      refine ⟨⟨hmp, hbc, hic, hoc, hatt, hgc, hq, hth, Nat.le_of_lt_succ hbyte⟩, ?_, ?_, ?_, rfl, rfl, rfl, rfl, rfl, rfl,
        rfl, rfl⟩
      · exact Nat.le_of_not_lt fun hlt => by rw [TagAction.ofCode_eq_none hlt] at ht; cases ht
      · exact Nat.le_of_not_lt fun hlt => by rw [flagOfCode_eq_none hlt] at hr; cases hr
      · exact Nat.le_of_not_lt fun hlt => by rw [flagOfCode_eq_none hlt] at hs; cases hs
    · cases h
  · cases h

/-- A field out of its range gives no profile. -/
theorem readProfile_eq_none {mp q : W16} {bc ic oc att gc th ta ra sh : Byte}
    (h : mp.toNat < 16 ∨ 1024 < mp.toNat ∨ 6 < bc.toNat ∨ 5 < ic.toNat ∨ 3 < oc.toNat ∨
      att.toNat < 1 ∨ 7 < att.toNat ∨ 3 < gc.toNat ∨ q.toNat < 16 ∨ 1280 < q.toNat ∨
      th.toNat < 1 ∨ 2 < ta.toNat ∨ 1 < ra.toNat ∨ 1 < sh.toNat) :
    readProfile mp bc ic oc att gc q th ta ra sh = none := by
  cases hp : readProfile mp bc ic oc att gc q th ta ra sh with
  | none => rfl
  | some p =>
    obtain ⟨hrange, hta, hra, hsh, emp, ebc, eic, eoc, eatt, egc, eq, eth⟩ := profileInRange_of_readProfile hp
    unfold ProfileInRange at hrange
    omega

/-! ### The activation check -/

/-- R11: the activation check fails just where the link has no trunk slot or its root key is not fresh. -/
theorem activationFlags_eq_zero (s : State) (l : LinkId) :
    activationFlags s l = 0 ↔ hasSlot s l = true ∧ (s.root l).state = .fresh := by
  cases hs : hasSlot s l <;> cases hr : (s.root l).state <;> simp [activationFlags, hs, hr]

theorem activationFlags_eq (s : State) (l : LinkId) :
    activationFlags s l =
      (if hasSlot s l then 0 else 1) + (if (s.root l).state = .empty then 2 else 0) +
        (if (s.root l).state = .used then 4 else 0) := by
  cases hs : hasSlot s l <;> cases hr : (s.root l).state <;> simp [activationFlags, hs, hr]

/-- R12: the whole state after an activation on a key slot. -/
theorem activateOn_eq {s : State} {l : LinkId} {p : Profile} {timer : Timer} (k : SlotNo)
    (hp : (s.link l).profile = some p) (ht : startedInterval (s.link l) = timer) :
    activateOn l k s =
      { s with
        links := tput s.links l
          ({ s.link l with
            state := .active, current := some k, allowance := 0, budgetHeld := false,
            hold := p.startHeld
            renewal := { (s.link l).renewal with
              state := .quiet, attempts := 0, pendingTrigger := false, interval := timer } })
        keys := { s.keys with
          roots := tput s.keys.roots l ⟨.used, (s.root l).key⟩
          slots := tput s.keys.slots k ({ state := .derivingKeys, owner := l, epoch := 0, next := .number 1 })
          requests := s.keys.requests ++ [⟨k, l, 0, 0, 0⟩] }
        trunk := { s.trunk with
          receivers := tput s.trunk.receivers l .hunt
          transmitters := tput s.trunk.transmitters l .idle } } := by
  have hhold : (match (s.link l).profile with | some p => p.startHeld | none => false) = p.startHeld := by
    rw [hp]
  rw [← hhold, ← ht]
  rfl

/-- The first number that a test passes is the one found. -/
theorem lowestFreeSlot_eq_of_lowest {s : State} {k : SlotNo} (hk : (s.slot k).state = .free)
    (hlow : ∀ j : SlotNo, j < k → (s.slot j).state ≠ .free) : lowestFreeSlot s = some k := by
  cases hf : lowestFreeSlot s with
  | none => exact absurd hk (lowestFreeSlot_eq_none.1 hf k)
  | some j =>
    have hfree := lowestFreeSlot_eq_some hf
    unfold lowestFreeSlot at hf
    obtain ⟨_, as, bs, happ, hnot⟩ := List.find?_eq_some_iff_append.1 hf
    have hsorted : (as ++ j :: bs).Pairwise (· < ·) := happ ▸ List.pairwise_lt_finRange 160
    have hmem : k ∈ as ++ j :: bs := happ ▸ mem_allFin k
    rcases List.mem_append.1 hmem with ha | hb
    · exact absurd hk (by simpa using hnot k ha)
    · rcases List.mem_cons.1 hb with rfl | hb
      · rfl
      · have hlt : j < k := List.rel_of_pairwise_cons (List.pairwise_append.1 hsorted).2.1 hb
        exact absurd hfree (hlow j hlt)

/-! ### Widths of replies -/

@[simp] theorem length_beBytes (k n : Nat) : (beBytes k n).length = k := by
  induction k generalizing n with
  | zero => rfl
  | succ k ih => simp [beBytes, ih]

theorem length_profileBytes (p : Option Profile) : (profileBytes p).length = 13 := by
  cases p <;> simp [profileBytes]

theorem length_roleBytes (s : State) (role : Option SlotNo) : (roleBytes s role).length = 9 := by
  cases role <;> simp [roleBytes]

theorem length_statsBytes (k : Link) : (statsBytes k).length = 56 := by
  simp [statsBytes, List.length_flatMap, allFin]

/-- R174: the width of a LINK_STATUS reply. -/
theorem length_statusBytes (s : State) (l : LinkId) : (statusBytes s l).length = 113 := by
  simp [statusBytes, length_profileBytes, length_roleBytes, length_statsBytes]

theorem length_trunkBytes (s : State) : (trunkBytes s).length = 15 := by
  simp [trunkBytes, monitorBytes]

theorem length_optionalTime (t : Option W32) : (optionalTime t).length = 5 := by
  cases t <;> simp [optionalTime]

theorem length_entryBytes (s : State) (source : FaultSource) (kind : FaultKind) :
    (entryBytes s source kind).length = 22 := by
  unfold entryBytes
  split <;> simp [length_optionalTime]

/-! ### Codes of fault sources and kinds -/

theorem linkOfByte_ofNat (l : LinkId) : linkOfByte (BitVec.ofNat 8 l.val) = some l := by
  have hl := l.isLt
  have hv : (BitVec.ofNat 8 l.val).toNat = l.val := by rw [BitVec.toNat_ofNat]; omega
  simp [linkOfByte, hv, hl]

theorem FaultSource.ofCode_code (x : FaultSource) : FaultSource.ofCode x.code = some x := by
  cases x with
  | link l => rw [FaultSource.ofCode, FaultSource.code, linkOfByte_ofNat]
  | _ => rfl

theorem FaultKind.ofCode_code (k : FaultKind) : FaultKind.ofCode k.code = some k := by
  cases k <;> rfl

end Sys2Proof.Machine

namespace Sys2Proof.Proofs

open Sys2Proof Sys2Proof.Machine

/-- Settles O18: the profile is read back from its fields, or is refused by the one out of range. -/
theorem profileCommands : Obligations.ProfileCommands := by
  unfold Obligations.ProfileCommands
  intro s tag link l mp q bc ic oc att gc th ta ra sh h hl hstate
  refine ⟨fun p hp hfields hta hra hsh => ?_, fun hout => ?_, fun hconf => ⟨_, rfl, ?_, ?_⟩⟩
  · subst hta hra hsh
    refine commandArrives_of_takesAtOnce h (Nat.le_of_ble_eq_true rfl) ?_
    rw [readProfile_of_inRange hp hfields, configure, onLink_some hl, if_pos hstate]
    rfl
  · refine commandArrives_of_takesAtOnce h (Nat.le_of_ble_eq_true rfl) ?_
    rw [readProfile_eq_none hout, configure, onLink_some hl, if_pos hstate]
    rfl
  · refine commandArrives_of_takesAtOnce h (Nat.le_of_ble_eq_true rfl) ?_
    rw [unconfigure, onLink_some hl, if_pos hconf]
    rfl
  · have hlink : ({ s with links := tput s.links l { s.link l with state := .idle, profile := none } } :
        State).link l = { s.link l with state := .idle, profile := none } := tget_tput_self _ _ _
    simp only [tagCondition, hlink]

/-- Settles O19: the check, the full store, and the activation on the slot that R27 names. -/
theorem linkActivateTakesASlot : Obligations.LinkActivateTakesASlot := by
  unfold Obligations.LinkActivateTakesASlot
  intro s tag link l p h hl hstate hp
  refine ⟨fun hfail => ?_, fun hslot hroot hfull => ?_, fun hslot hroot k hk hlow => ?_⟩ <;>
    refine commandArrives_of_takesAtOnce h (Nat.le_of_ble_eq_true rfl) ?_ <;>
    rw [activate, onLink_some hl, if_pos hstate]
  · have hflags : activationFlags s l ≠ 0 := fun e => by
      obtain ⟨hs, hr⟩ := (activationFlags_eq_zero s l).1 e
      simp [hs, hr] at hfail
    rw [if_pos hflags, activationFlags_eq]
  · rw [if_neg (not_not.2 ((activationFlags_eq_zero s l).2 ⟨hslot, hroot⟩)),
      lowestFreeSlot_eq_none.2 hfull]
    rfl
  · rw [if_neg (not_not.2 ((activationFlags_eq_zero s l).2 ⟨hslot, hroot⟩)),
      lowestFreeSlot_eq_of_lowest hk hlow]
    have htimer : startedInterval (s.link l) =
        (intervalSeconds p.intervalCode).elim .stopped Timer.start := by
      simp only [startedInterval, hp, Option.bind_some]
      cases intervalSeconds p.intervalCode <;> rfl
    change ok (activateOn l k s) = _
    rw [activateOn_eq k hp htimer]
    cases intervalSeconds p.intervalCode <;> rfl

/-- Settles O24: each reading command leaves the state, and its reply has the width of its layout. -/
theorem readingCommandsChangeNothing : Obligations.ReadingCommandsChangeNothing := by
  unfold Obligations.ReadingCommandsChangeNothing
  refine ⟨fun s tag link l h hl => ⟨?_, length_statusBytes s l⟩, fun s tag h => ⟨?_, ?_, length_trunkBytes s,
    ?_, ?_, ?_⟩, fun s tag source kind h => ⟨fun hpair => ⟨?_, ?_⟩, fun hpair => ?_⟩⟩
  case refine_8 => rw [List.length_append, length_entryBytes, length_beBytes]
  all_goals refine commandArrives_of_takesAtOnce h (Nat.le_of_ble_eq_true rfl) ?_
  case refine_1 =>
    rw [linkStatus, onLink_some hl]
    rfl
  case refine_7 | refine_9 =>
    rw [faultRead, FaultSource.ofCode_code, FaultKind.ofCode_code]
    simp only [hpair]
    rfl
  all_goals rfl

/-- Settles O25: the counts are read from the state before the clear. -/
theorem clearingReadsClear : Obligations.ClearingReadsClear := by
  unfold Obligations.ClearingReadsClear
  intro s tag link clear l h hl
  refine ⟨?_, ?_, fun hc => ⟨?_, ?_⟩⟩ <;>
    refine commandArrives_of_takesAtOnce h (Nat.le_of_ble_eq_true rfl) ?_
  · rw [linkStatus, onLink_some hl]
    rfl
  · rfl
  · rw [linkStatus, onLink_some hl, flagOfCode_eq_none hc]
    rfl
  · rw [trunkStatus, flagOfCode_eq_none hc]
    rfl

end Sys2Proof.Proofs
end

section
/-! The hand-over of key slots: what it can touch, and that it commutes with what it does not read. -/

namespace Sys2Proof.Machine

/-! ### The start of a renewal on one link -/

/-- R81: the link context when its renewal for an epoch starts on a key slot with a head nonce. -/
def startedLink (epoch : Nat) (nonce : Nonce) (k : SlotNo) (x : Link) : Link :=
  { x with
    next := some k, lane := some (.offer epoch nonce 1)
    renewal := { x.renewal with
      state := .offering, offeredEpoch := epoch, headNonce := nonce, shopNonce := 0, attempts := 1,
      pendingTrigger := false } }

/-- R27: a key slot as an allocation leaves it. -/
def allocatedSlot (l : LinkId) (epoch : Nat) : KeySlot :=
  { state := .derivingKeys, owner := l, epoch := epoch, next := .number 1 }

theorem allocateSlot_eq (k : SlotNo) (l : LinkId) (epoch : Nat) (s : State) :
    allocateSlot k l epoch s = s.modSlot k fun _ => allocatedSlot l epoch := rfl

theorem startRenewal_of_none {s : State} {l : LinkId} (h : (s.link l).current = none) (k : SlotNo) :
    startRenewal l k s = s := by
  simp [startRenewal, h]

theorem startRenewal_of_some {s : State} {l : LinkId} {c : SlotNo} (h : (s.link l).current = some c)
    (k : SlotNo) :
    startRenewal l k s =
      ({ s with draws := { s.draws with nonces := s.draws.nonces + 1 } }.modSlot k fun _ =>
        allocatedSlot l ((s.slot c).epoch + 1)).modLink l
          (startedLink ((s.slot c).epoch + 1) (headNonce s.draws.nonces) k) := by
  simp only [startRenewal, h]
  rfl

/-! ### What starts of renewals and hand-overs can touch -/

/-- R27, R32, R81: `t` is `s` after starts of renewals for links of a list: those links, FREE key slots that
became allocated, the key wait list and the nonce draws may differ; and of any link what the start of a renewal
leaves is as it was. -/
structure RenewalFrame (ls : List LinkId) (s t : State) : Prop where
  rest : t = { s with
    links := t.links, draws := t.draws
    keys := { s.keys with slots := t.keys.slots, waitList := t.keys.waitList } }
  link : ∀ j ∉ ls, t.link j = s.link j
  kept : ∀ j, startedLink 0 0 0 (t.link j) = startedLink 0 0 0 (s.link j)
  slot : ∀ k, t.slot k = s.slot k ∨
    (s.slot k).state = .free ∧ ∃ l epoch, t.slot k = allocatedSlot l epoch

namespace RenewalFrame

variable {ls ls' : List LinkId} {s t u : State}

theorem refl (ls : List LinkId) (s : State) : RenewalFrame ls s s :=
  ⟨rfl, fun _ _ => rfl, fun _ => rfl, fun _ => .inl rfl⟩

theorem mono (h : RenewalFrame ls s t) (hl : ls ⊆ ls') : RenewalFrame ls' s t :=
  ⟨h.rest, fun j hj => h.link j fun hm => hj (hl hm), h.kept, h.slot⟩

theorem trans (h : RenewalFrame ls s t) (h' : RenewalFrame ls t u) : RenewalFrame ls s u := by
  refine ⟨?_, fun j hj => (h'.link j hj).trans (h.link j hj), fun j => (h'.kept j).trans (h.kept j),
    fun k => ?_⟩
  · have e := h'.rest
    rw [h.rest] at e
    exact e
  · rcases h'.slot k with e | ⟨hfree, halloc⟩
    · rw [e]
      exact h.slot k
    · rcases h.slot k with e | ⟨_, l, epoch, e⟩
      · exact .inr ⟨e ▸ hfree, halloc⟩
      · rw [e] at hfree
        cases hfree

/-- A slot that is not FREE stays as it is. -/
theorem slot_of_ne_free (h : RenewalFrame ls s t) {k : SlotNo} (hk : (s.slot k).state ≠ .free) :
    t.slot k = s.slot k :=
  (h.slot k).resolve_right fun hf => hk hf.1

/-- No start of a renewal brings a key into a slot that holds none. -/
theorem keys_zero (h : RenewalFrame ls s t) {k : SlotNo} (hk : s.slot k = {}) :
    (t.slot k).cipherKey = 0 ∧ (t.slot k).integrityKey = 0 := by
  rcases h.slot k with e | ⟨_, _, _, e⟩ <;> rw [e]
  · rw [hk]
    exact ⟨rfl, rfl⟩
  · exact ⟨rfl, rfl⟩

end RenewalFrame

theorem startRenewal_frame {s : State} {l : LinkId} {k : SlotNo} (hk : (s.slot k).state = .free) :
    RenewalFrame [l] s (startRenewal l k s) := by
  cases hc : (s.link l).current with
  | none =>
    rw [startRenewal_of_none hc]
    exact .refl _ _
  | some c =>
    rw [startRenewal_of_some hc]
    refine ⟨rfl, fun j hj => ?_, fun j => ?_, fun i => ?_⟩
    · rw [State.link_modLink_of_ne _ _ fun e => hj (List.mem_singleton.2 e.symm)]
      rfl
    · rw [State.link_modLink]
      split
      · next e =>
        subst e
        rfl
      · rfl
    · rw [State.slot_modLink, State.slot_modSlot]
      split
      · next e => exact .inr ⟨e ▸ hk, _, _, rfl⟩
      · exact .inl rfl

theorem setWaitList_frame (ls w : List LinkId) (s : State) : RenewalFrame ls s (s.setWaitList w) :=
  ⟨rfl, fun _ _ => rfl, fun _ => rfl, fun _ => .inl rfl⟩

theorem trigger_frame (l : LinkId) (s : State) : RenewalFrame [l] s (trigger l s) := by
  rcases trigger_cases l s with e | ⟨_, k, hk, e⟩ | ⟨_, _, e⟩ <;> rw [e]
  · exact .refl _ _
  · exact startRenewal_frame (lowestFreeSlot_eq_some hk)
  · refine ⟨rfl, fun j hj => ?_, fun j => ?_, fun _ => .inl rfl⟩
    · rw [State.link_setWaitList, State.link_modRenewal_of_ne _ _ fun e => hj (List.mem_singleton.2 e.symm)]
    · rw [State.link_setWaitList, State.link_modRenewal]
      split
      · next e =>
        subst e
        rfl
      · rfl

theorem reevaluate_frame (l : LinkId) (s : State) : RenewalFrame [l] s (reevaluate l s) := by
  rcases reevaluate_cases l s with e | e <;> rw [e]
  · exact .refl _ _
  · exact trigger_frame l s

theorem startRenewal_waitList (l : LinkId) (k : SlotNo) (s : State) :
    (startRenewal l k s).keys.waitList = s.keys.waitList := by
  rcases startRenewal_cases l k s with e | ⟨c, f, _, _, e⟩
  · rw [e]
  · rw [e]
    rfl

/-- R32: a hand-over serves links of the key wait list, from its head on. -/
theorem handOver_frame (s : State) : RenewalFrame s.keys.waitList s (handOver s) ∧
    (handOver s).keys.waitList <:+ s.keys.waitList := by
  have all : ∀ (w : List LinkId) (s : State), s.keys.waitList = w →
      RenewalFrame w s (handOverTo w s) ∧ (handOverTo w s).keys.waitList <:+ w := by
    intro w
    induction w with
    | nil => exact fun s hs => ⟨.refl _ _, by simp [handOverTo, hs]⟩
    | cons l rest ih =>
      intro s hs
      rw [handOverTo]
      split
      · next k hk =>
        have hfree : ((s.setWaitList rest).slot k).state = .free := lowestFreeSlot_eq_some hk
        obtain ⟨hframe, hsuffix⟩ := ih (startRenewal l k (s.setWaitList rest)) (startRenewal_waitList _ _ _)
        exact ⟨((setWaitList_frame _ rest s).trans ((startRenewal_frame hfree).mono (by simp))).trans
          (hframe.mono (List.subset_cons_self _ _)), hsuffix.trans (List.suffix_cons _ _)⟩
      · exact ⟨.refl _ _, hs ▸ List.suffix_refl _⟩
  exact all _ s rfl

theorem handOver_of_waitList_nil {s : State} (h : s.keys.waitList = []) : handOver s = s := by
  rw [handOver, h, handOverTo]

theorem handOver_of_not_free {s : State} (h : ∀ k, (s.slot k).state ≠ .free) : handOver s = s := by
  rw [handOver]
  cases s.keys.waitList with
  | nil => rw [handOverTo]
  | cons l rest => rw [handOverTo, lowestFreeSlot_eq_none.2 h]

/-- R32: the head of the key wait list is served first, on the lowest FREE slot. -/
theorem handOver_cons {s : State} {j : LinkId} {rest : List LinkId} {k : SlotNo}
    (hw : s.keys.waitList = j :: rest) (hk : lowestFreeSlot s = some k) :
    handOver s = handOver (startRenewal j k (s.setWaitList rest)) := by
  have hrest : (startRenewal j k (s.setWaitList rest)).keys.waitList = rest := startRenewal_waitList _ _ _
  rw [handOver, hw, handOverTo, hk, handOver, hrest]

/-! ### A change of a link that a hand-over does not read -/

theorem tput_comm {α : Type} {n : Nat} (v : Vector α n) {i j : Fin n} (x y : α) (h : i ≠ j) :
    tput (tput v i x) j y = tput (tput v j y) i x :=
  Vector.set_comm _ _ fun e => h (Fin.ext e)

theorem State.modLink_comm {l j : LinkId} (f g : Link → Link) (s : State) (h : l ≠ j) :
    (s.modLink l f).modLink j g = (s.modLink j g).modLink l f := by
  have hl := State.link_modLink_of_ne s f h
  have hj := State.link_modLink_of_ne s g h.symm
  rw [State.modLink.eq_1 j g (s.modLink l f), State.modLink.eq_1 l f (s.modLink j g), hl, hj]
  unfold State.modLink
  rw [tput_comm _ _ _ h]

theorem startRenewal_modLink_of_ne {l j : LinkId} (f : Link → Link) (k : SlotNo) (s : State) (h : l ≠ j) :
    startRenewal j k (s.modLink l f) = (startRenewal j k s).modLink l f := by
  have hj : (s.modLink l f).link j = s.link j := State.link_modLink_of_ne s f h
  cases hc : (s.link j).current with
  | none => rw [startRenewal_of_none hc, startRenewal_of_none (hj ▸ hc)]
  | some c =>
    rw [startRenewal_of_some hc, startRenewal_of_some (hj ▸ hc), State.modLink_comm _ _ _ h.symm]
    rfl

/-- A change of a link that neither moves its current slot nor meets what the start of a renewal sets. -/
def SparesStart (f : Link → Link) : Prop :=
  (∀ x, (f x).current = x.current) ∧
    ∀ epoch nonce k x, f (startedLink epoch nonce k x) = startedLink epoch nonce k (f x)

theorem startRenewal_modLink_self {l : LinkId} {f : Link → Link} (hf : SparesStart f) (k : SlotNo)
    (s : State) : startRenewal l k (s.modLink l f) = (startRenewal l k s).modLink l f := by
  have hl : ((s.modLink l f).link l).current = (s.link l).current := by
    rw [State.link_modLink_self, hf.1]
  cases hc : (s.link l).current with
  | none => rw [startRenewal_of_none hc, startRenewal_of_none (hl.trans hc)]
  | some c =>
    rw [startRenewal_of_some hc, startRenewal_of_some (hl.trans hc), State.modLink_modLink]
    have hcomm : (fun x => f (startedLink ((s.slot c).epoch + 1) (headNonce s.draws.nonces) k x)) =
        fun x => startedLink ((s.slot c).epoch + 1) (headNonce s.draws.nonces) k (f x) :=
      funext fun x => hf.2 _ _ _ x
    rw [hcomm]
    exact State.modLink_modLink
      ({ s with draws := { s.draws with nonces := s.draws.nonces + 1 } }.modSlot k fun _ =>
        allocatedSlot l ((s.slot c).epoch + 1)) l f _

theorem startRenewal_modLink {l j : LinkId} {f : Link → Link} (h : l ≠ j ∨ SparesStart f) (k : SlotNo)
    (s : State) : startRenewal j k (s.modLink l f) = (startRenewal j k s).modLink l f := by
  by_cases hj : l = j
  · subst hj
    exact startRenewal_modLink_self (h.resolve_left (by simp)) k s
  · exact startRenewal_modLink_of_ne f k s hj

/-- A hand-over commutes with a change of a link that does not wait, or that the start of its renewal neither
reads nor overwrites. -/
theorem handOver_modLink {l : LinkId} {f : Link → Link} {s : State}
    (h : l ∉ s.keys.waitList ∨ SparesStart f) :
    handOver (s.modLink l f) = (handOver s).modLink l f := by
  have all : ∀ (w : List LinkId) (s : State), (l ∉ w ∨ SparesStart f) →
      handOverTo w (s.modLink l f) = (handOverTo w s).modLink l f := by
    intro w
    induction w with
    | nil => exact fun _ _ => rfl
    | cons j rest ih =>
      intro s h
      have hfree : lowestFreeSlot (s.modLink l f) = lowestFreeSlot s := rfl
      have hwait : (s.modLink l f).setWaitList rest = (s.setWaitList rest).modLink l f := rfl
      rw [handOverTo, handOverTo, hfree]
      split
      · rw [hwait, startRenewal_modLink (h.imp_left List.ne_of_not_mem_cons),
          ih _ (h.imp_left List.not_mem_of_not_mem_cons)]
      · rfl
  exact all _ s h

/-! ### Releases -/

section

variable (ks : List SlotNo) (s : State)

@[simp] theorem released_pending : (released ks s).pending = s.pending := by simp only [released]
@[simp] theorem released_links : (released ks s).links = s.links := by simp only [released]
@[simp] theorem released_keys_roots : (released ks s).keys.roots = s.keys.roots := by simp only [released]
@[simp] theorem released_keys_waitList : (released ks s).keys.waitList = s.keys.waitList := by simp only [released]
@[simp] theorem released_keys_derivation : (released ks s).keys.derivation = s.keys.derivation := by simp only [released]
@[simp] theorem released_engine : (released ks s).engine = s.engine := by simp only [released]
@[simp] theorem released_sealer : (released ks s).sealer = s.sealer := by simp only [released]
@[simp] theorem released_opener : (released ks s).opener = s.opener := by simp only [released]
@[simp] theorem released_store : (released ks s).store = s.store := by simp only [released]
@[simp] theorem released_trunk : (released ks s).trunk = s.trunk := by simp only [released]
@[simp] theorem released_faults : (released ks s).faults = s.faults := by simp only [released]
@[simp] theorem released_host : (released ks s).host = s.host := by simp only [released]
@[simp] theorem released_draws : (released ks s).draws = s.draws := by simp only [released]

@[simp] theorem released_keys_requests :
    (released ks s).keys.requests = s.keys.requests.filter fun r => !ks.contains r.slot := by
  simp only [released]

end

@[simp] theorem released_link (ks : List SlotNo) (s : State) (j : LinkId) :
    (released ks s).link j = s.link j := by
  rw [State.link, released_links, State.link]

@[simp] theorem leaveWaitList_link (l : LinkId) (s : State) (j : LinkId) :
    (leaveWaitList l s).link j = s.link j := State.link_setWaitList s _ j

@[simp] theorem leaveWaitList_slot (l : LinkId) (s : State) (k : SlotNo) :
    (leaveWaitList l s).slot k = s.slot k := State.slot_setWaitList s _ k

theorem released_slot (ks : List SlotNo) (s : State) (k : SlotNo) :
    (released ks s).slot k =
      if ks.contains k then (if (s.slot k).inFlight = 0 then {} else { s.slot k with state := .draining })
      else s.slot k := by
  simp [State.slot, released, tget]

/-- R29: a slot of a release with nothing in flight is erased. -/
theorem released_slot_erased {ks : List SlotNo} {s : State} {k : SlotNo} (hk : k ∈ ks)
    (h0 : (s.slot k).inFlight = 0) : (released ks s).slot k = {} := by
  rw [released_slot, if_pos (List.contains_iff_mem.2 hk), if_pos h0]

/-- R29: a slot of a release with an operation in flight drains. -/
theorem released_slot_drains {ks : List SlotNo} {s : State} {k : SlotNo} (hk : k ∈ ks)
    (h0 : (s.slot k).inFlight ≠ 0) : (released ks s).slot k = { s.slot k with state := .draining } := by
  rw [released_slot, if_pos (List.contains_iff_mem.2 hk), if_neg h0]

theorem released_slot_of_notMem {ks : List SlotNo} {s : State} {k : SlotNo} (hk : k ∉ ks) :
    (released ks s).slot k = s.slot k := by
  rw [released_slot, if_neg fun h => hk (List.contains_iff_mem.1 h)]

/-- A hand-over after a release leaves the slots that drain as they are, and brings no key into those erased. -/
theorem released_handOver_slot {ks : List SlotNo} {s : State} {k : SlotNo} (hk : k ∈ ks) {ls : List LinkId}
    {t : State} (ht : RenewalFrame ls (released ks s) t) :
    ((s.slot k).inFlight ≠ 0 → t.slot k = { s.slot k with state := .draining }) ∧
    ((s.slot k).inFlight = 0 → (t.slot k).cipherKey = 0 ∧ (t.slot k).integrityKey = 0) := by
  refine ⟨fun h0 => ?_, fun h0 => ht.keys_zero (released_slot_erased hk h0)⟩
  have hd := released_slot_drains hk h0
  rw [ht.slot_of_ne_free (by rw [hd]; simp), hd]

/-! ### Isolation -/

/-- R13, R94: the context of a link when it is isolated. -/
def isolatedLink (x : Link) : Link :=
  { x with
    state := .isolated, previous := none, next := none, lane := none
    renewal := { x.renewal with
      state := .quiet, offer := .stopped, grace := .stopped, backoff := .stopped,
      pendingTrigger := false } }

theorem isolated_eq (l : LinkId) (s : State) : isolated l s =
    handOver (released ((s.link l).next.toList ++ (s.link l).previous.toList)
      (leaveWaitList l (s.modLink l isolatedLink))) := rfl

/-- The isolation as the machine does it is the one of R94. -/
theorem isolate_eq_isolated (l : LinkId) (s : State) : isolate l s = isolated l s := by
  simp only [isolate, abortRenewal, isolated_eq, releaseSlots_eq_released, State.modLink_modLink,
    State.link_modLink_self]
  rfl

theorem isolated_frame (l : LinkId) (s : State) :
    RenewalFrame (s.keys.waitList.filter fun j => decide (j ≠ l))
        (released ((s.link l).next.toList ++ (s.link l).previous.toList)
          (leaveWaitList l (s.modLink l isolatedLink))) (isolated l s) ∧
      (isolated l s).keys.waitList <:+ s.keys.waitList.filter fun j => decide (j ≠ l) := by
  rw [isolated_eq]
  exact handOver_frame (released ((s.link l).next.toList ++ (s.link l).previous.toList)
    (leaveWaitList l (s.modLink l isolatedLink)))

theorem isolated_link_self (l : LinkId) (s : State) : (isolated l s).link l = isolatedLink (s.link l) := by
  have hl : l ∉ s.keys.waitList.filter fun j => decide (j ≠ l) := by simp
  rw [(isolated_frame l s).1.link l hl, released_link, leaveWaitList_link, State.link_modLink_self]

theorem isolated_link_of_ne {l j : LinkId} {s : State} (hj : j ≠ l) (hw : j ∉ s.keys.waitList) :
    (isolated l s).link j = s.link j := by
  rw [(isolated_frame l s).1.link j fun h => hw (List.mem_of_mem_filter h), released_link,
    leaveWaitList_link, State.link_modLink_of_ne s isolatedLink hj.symm]

end Sys2Proof.Machine

namespace Sys2Proof.Proofs

open Sys2Proof Sys2Proof.Machine

/-- Settles O20: an isolation is one change of the link, the release of its slots, and the hand-over, which
touches waiting links and FREE slots alone. -/
theorem linkIsolateKeepsKeysAndQueue : Obligations.LinkIsolateKeepsKeysAndQueue := by
  unfold Obligations.LinkIsolateKeepsKeysAndQueue
  refine ⟨fun s tag link l h hl => ⟨fun hactive => ⟨_, rfl, ?_⟩, fun hisolated => ?_⟩, fun s => ⟨?_, ?_, ?_⟩⟩
  · obtain ⟨hframe, hsuffix⟩ := isolated_frame l s
    have hmem : ∀ k, k ∈ (s.link l).next.toList ++ (s.link l).previous.toList ↔
        (s.link l).next = some k ∨ (s.link l).previous = some k := fun k => by simp
    refine ⟨commandArrives_of_takesAtOnce h (Nat.le_of_ble_eq_true rfl) ?_, isolated_link_self l s, ?_,
      fun k hk => ?_, fun k hn hp hfree => ?_, ?_, fun j hj hw => isolated_link_of_ne hj hw, ?_⟩
    · rw [isolateCommand, onLiveLink_some hl, if_pos (Link.live_eq_true.2 (.inl hactive)), if_pos hactive,
        isolate_eq_isolated]
      rfl
    · exact fun hm => by simpa using hsuffix.subset hm
    · have hk' := (hmem k).2 hk
      obtain ⟨hdrain, hzero⟩ := released_handOver_slot hk' hframe
      refine ⟨hdrain, fun h0 => ⟨(hzero h0).1, (hzero h0).2, fun hw => ?_⟩⟩
      have hnil : (s.keys.waitList.filter fun j => decide (j ≠ l)) = [] := by
        simpa [List.filter_eq_nil_iff] using hw
      have hnil' : (released ((s.link l).next.toList ++ (s.link l).previous.toList)
          (leaveWaitList l (s.modLink l isolatedLink))).keys.waitList = [] := by
        rw [released_keys_waitList]
        exact hnil
      rw [isolated_eq, handOver_of_waitList_nil hnil']
      exact released_slot_erased hk' (by rw [leaveWaitList_slot]; exact h0)
    · have hk' : k ∉ (s.link l).next.toList ++ (s.link l).previous.toList := by
        rw [hmem]
        exact not_or.2 ⟨hn, hp⟩
      have hsame : (released ((s.link l).next.toList ++ (s.link l).previous.toList)
          (leaveWaitList l (s.modLink l isolatedLink))).slot k = s.slot k := by
        rw [released_slot_of_notMem hk', leaveWaitList_slot, State.slot_modLink]
      rw [hframe.slot_of_ne_free (by rw [hsame]; exact hfree), hsame]
    · rw [hframe.rest, released_keys_requests]
      refine List.filter_congr fun r _ => ?_
      rw [Bool.eq_iff_iff]
      simp only [Bool.not_eq_true', List.contains_eq_mem, decide_eq_false_iff_not, decide_eq_true_eq, hmem,
        not_or, ne_eq]
    · rw [hframe.rest]
      simp [leaveWaitList]
  · refine commandArrives_of_takesAtOnce h (Nat.le_of_ble_eq_true rfl) ?_
    rw [isolateCommand, onLiveLink_some hl, if_pos (Link.live_eq_true.2 (.inr hisolated)),
      if_neg (by simp [hisolated])]
    rfl
  · exact handOver_of_waitList_nil
  · exact handOver_of_not_free
  · exact fun j rest k hw hk hlow => handOver_cons hw (lowestFreeSlot_eq_of_lowest hk hlow)

end Sys2Proof.Proofs
end

section
/-! A teardown: what becomes of the link's frames, and of its key slots. -/

namespace Sys2Proof.Machine

/-! ### Frames freed -/

theorem freeFrames_eq (ds : List DescNo) (s : State) : ∃ descs,
    freeFrames ds s = { s with store := { s.store with descs := descs } } ∧
    ∀ d, tget descs d = if d ∈ ds then none else s.desc d := by
  induction ds generalizing s with
  | nil => exact ⟨s.store.descs, rfl, fun _ => rfl⟩
  | cons e ds ih =>
    obtain ⟨descs, heq, hdesc⟩ := ih (s.freeFrame e)
    refine ⟨descs, heq, fun d => ?_⟩
    rw [hdesc, State.desc_freeFrame]
    by_cases hd : d ∈ ds
    · simp [hd]
    · by_cases he : e = d
      · simp [he]
      · simp [hd, he, Ne.symm he]

/-- R135: an abandoned transmission frees its frame and is counted; an idle transmitter is left as it is. -/
theorem abandonTransmission_eq (l : LinkId) (s : State) : ∃ descs,
    abandonTransmission l s = { s with
      links := tput s.links l { s.link l with
        stats :=
          if s.transmitter l = .idle then (s.link l).stats
          else tput (s.link l).stats Counter.abandoned.index
            (satInc (tget (s.link l).stats Counter.abandoned.index)) }
      store := { s.store with descs := descs }
      trunk := { s.trunk with transmitters := tput s.trunk.transmitters l .idle } } ∧
    ∀ d, tget descs d = if d ∈ sentFrame (s.transmitter l) then none else s.desc d := by
  unfold abandonTransmission
  cases ht : s.transmitter l with
  | idle =>
    refine ⟨s.store.descs, ?_, fun _ => by simp [sentFrame, State.desc]⟩
    have htrans : tput s.trunk.transmitters l .idle = s.trunk.transmitters := by
      rw [← ht]
      exact tput_tget _ _
    have hlinks : tput s.links l (s.link l) = s.links := tput_tget _ _
    simp only [if_true, htrans]
    rw [hlinks]
  | frame d n =>
    refine ⟨tput s.store.descs d none, rfl, fun e => ?_⟩
    rw [tget_tput]
    simp only [sentFrame, List.mem_singleton, eq_comm]
    rfl
  | copy bs n => exact ⟨s.store.descs, rfl, fun _ => by simp [sentFrame, State.desc]⟩

/-- R140: an abandoned reception frees its frame and leaves the receiver in HUNT. -/
theorem abandonReception_eq_hunt (l : LinkId) (s : State) : ∃ descs,
    abandonReception l s = { s with
      store := { s.store with descs := descs }
      trunk := { s.trunk with receivers := tput s.trunk.receivers l .hunt } } ∧
    ∀ d, tget descs d = if d ∈ receivedFrame (s.receiver l) then none else s.desc d := by
  unfold abandonReception
  cases hr : s.receiver l with
  | hunt =>
    refine ⟨s.store.descs, ?_, fun _ => by simp [receivedFrame, State.desc]⟩
    have hsame : tput s.trunk.receivers l .hunt = s.trunk.receivers := by
      rw [← hr]
      exact tput_tget _ _
    rw [hsame]
  | body d n =>
    refine ⟨tput s.store.descs d none, rfl, fun e => ?_⟩
    rw [tget_tput]
    simp only [receivedFrame, List.mem_singleton, eq_comm]
    rfl
  | header bs => exact ⟨s.store.descs, rfl, fun _ => by simp [receivedFrame, State.desc]⟩
  | skip n => exact ⟨s.store.descs, rfl, fun _ => by simp [receivedFrame, State.desc]⟩

/-- R18: the link's frames leave the open list and are freed. -/
theorem discardOpenList_eq (l : LinkId) (s : State) : ∃ descs,
    discardOpenList l s = { s with
      opener := { s.opener with waiting := s.opener.waiting.filter fun d => !frameOf s l d }
      store := { s.store with descs := descs } } ∧
    ∀ d, tget descs d = if d ∈ s.opener.waiting ∧ frameOf s l d = true then none else s.desc d := by
  obtain ⟨descs, heq, hdesc⟩ := freeFrames_eq (s.opener.waiting.filter (frameOf s l))
    (s.setOpenList (s.opener.waiting.filter fun d => !frameOf s l d))
  refine ⟨descs, heq, fun d => ?_⟩
  rw [hdesc]
  simp only [List.mem_filter]
  rfl

/-- R57: a sealing record with its discard mark set where the frame is a link's. -/
def markedSealing (l : LinkId) (r : Sealing) : Sealing := if r.link = l then { r with discard := true } else r

/-- R73: an opening record with its discard mark set where the frame is a link's. -/
def markedOpening (l : LinkId) (r : Opening) : Opening := if r.link = l then { r with discard := true } else r

theorem markSealing_eq (l : LinkId) (s : State) :
    markSealing l s = s.setSealing (s.sealer.current.map (markedSealing l)) := by
  unfold markSealing State.setSealing markedSealing
  rcases hs : s.sealer with ⟨_, current, _, _, _⟩
  cases current with
  | none => simp [← hs]
  | some r => by_cases hr : r.link = l <;> simp [hr, ← hs]

theorem markOpening_eq (l : LinkId) (s : State) :
    markOpening l s = s.setOpening (s.opener.current.map (markedOpening l)) := by
  unfold markOpening State.setOpening markedOpening
  rcases hs : s.opener with ⟨_, current⟩
  cases current with
  | none => simp [← hs]
  | some r => by_cases hr : r.link = l <;> simp [hr, ← hs]

theorem frameOf_eq_desc {s t : State} {d : DescNo} (h : t.desc d = s.desc d) (l : LinkId) :
    frameOf t l d = frameOf s l d := by
  rw [frameOf, frameOf, h]

/-- A frame of the link that a teardown frees: in its queue, on the open list, in transmission or in
reception. -/
def FreedByTeardown (s : State) (l : LinkId) (d : DescNo) : Prop :=
  d ∈ s.queue l ∨ d ∈ sentFrame (s.transmitter l) ∨ d ∈ receivedFrame (s.receiver l) ∨
    d ∈ s.opener.waiting ∧ frameOf s l d = true

/-- R18: the link's transmission and its reception abandoned. -/
theorem abandonPath_eq (l : LinkId) (s : State) : ∃ descs,
    abandonReception l (abandonTransmission l s) = { s with
      links := tput s.links l { s.link l with
        stats :=
          if s.transmitter l = .idle then (s.link l).stats
          else tput (s.link l).stats Counter.abandoned.index
            (satInc (tget (s.link l).stats Counter.abandoned.index)) }
      store := { s.store with descs := descs }
      trunk := { s.trunk with
        receivers := tput s.trunk.receivers l .hunt
        transmitters := tput s.trunk.transmitters l .idle } } ∧
    ∀ d, tget descs d =
      if d ∈ sentFrame (s.transmitter l) ∨ d ∈ receivedFrame (s.receiver l) then none else s.desc d := by
  obtain ⟨descs, heq, hdesc⟩ := abandonTransmission_eq l s
  obtain ⟨last, hlast, hfreed⟩ := abandonReception_eq_hunt l (abandonTransmission l s)
  rw [heq] at hlast hfreed
  refine ⟨last, by rw [heq]; exact hlast, fun d => ?_⟩
  have h : tget last d = if d ∈ receivedFrame (s.receiver l) then none else tget descs d := hfreed d
  rw [h, hdesc]
  by_cases hr : d ∈ receivedFrame (s.receiver l) <;> simp [hr]

/-- R18: the link's frames on the open list and in its queue discarded. -/
theorem discardLists_eq (l : LinkId) (s : State) : ∃ descs,
    (freeFrames ((discardOpenList l s).queue l) (discardOpenList l s)).setQueue l [] = { s with
      opener := { s.opener with waiting := s.opener.waiting.filter fun d => !frameOf s l d }
      store := { s.store with descs := descs, queues := tput s.store.queues l [] } } ∧
    ∀ d, tget descs d =
      if d ∈ s.queue l ∨ d ∈ s.opener.waiting ∧ frameOf s l d = true then none else s.desc d := by
  obtain ⟨descs, heq, hdesc⟩ := discardOpenList_eq l s
  obtain ⟨last, hlast, hfreed⟩ := freeFrames_eq ((discardOpenList l s).queue l) (discardOpenList l s)
  rw [heq] at hlast hfreed
  refine ⟨last, by rw [heq, hlast]; rfl, fun d => ?_⟩
  have h : tget last d = if d ∈ s.queue l then none else tget descs d := hfreed d
  rw [h, hdesc]
  by_cases hq : d ∈ s.queue l <;> simp [hq]

/-- R18: the whole state after the link's frames are dealt with. -/
theorem disposeFrames_eq (l : LinkId) (s : State) : ∃ descs waiting,
    disposeFrames l s = { s with
      links := tput s.links l { s.link l with
        stats :=
          if s.transmitter l = .idle then (s.link l).stats
          else tput (s.link l).stats Counter.abandoned.index
            (satInc (tget (s.link l).stats Counter.abandoned.index)) }
      sealer := { s.sealer with current := s.sealer.current.map (markedSealing l) }
      opener := { waiting := waiting, current := s.opener.current.map (markedOpening l) }
      store := { s.store with descs := descs, queues := tput s.store.queues l [] }
      trunk := { s.trunk with
        receivers := tput s.trunk.receivers l .hunt
        transmitters := tput s.trunk.transmitters l .idle } } ∧
    waiting.Sublist s.opener.waiting ∧
    (∀ d, d ∈ sentFrame (s.transmitter l) ∨ d ∈ receivedFrame (s.receiver l) ∨
      (d ∈ waiting ↔ d ∈ s.opener.waiting ∧ frameOf s l d = false)) ∧
    (∀ d, FreedByTeardown s l d → tget descs d = none) ∧
    ∀ d, ¬FreedByTeardown s l d → tget descs d = s.desc d := by
  obtain ⟨descs, hpath, hdesc⟩ := abandonPath_eq l (markOpening l (markSealing l s))
  have hdesc' : ∀ d, tget descs d =
      if d ∈ sentFrame (s.transmitter l) ∨ d ∈ receivedFrame (s.receiver l) then none else s.desc d := by
    rw [markOpening_eq, markSealing_eq] at hdesc
    exact hdesc
  obtain ⟨last, hlists, hlast⟩ := discardLists_eq l (abandonReception l (abandonTransmission l
    (markOpening l (markSealing l s))))
  rw [hpath] at hlists hlast
  generalize hframe : frameOf _ l = frame at hlists hlast
  have hsame : ∀ d, ¬(d ∈ sentFrame (s.transmitter l) ∨ d ∈ receivedFrame (s.receiver l)) →
      frame d = frameOf s l d := fun d hd => by
    rw [← hframe]
    refine frameOf_eq_desc ?_ l
    exact (hdesc' d).trans (if_neg hd)
  rw [markOpening_eq, markSealing_eq] at hpath hlists hlast
  have hlast' : ∀ d, tget last d =
      if d ∈ s.queue l ∨ d ∈ s.opener.waiting ∧ frame d = true then none else tget descs d := hlast
  refine ⟨last, s.opener.waiting.filter fun d => !frame d, ?_, List.filter_sublist, fun d => ?_,
    fun d hfreed => ?_, fun d hkept => ?_⟩
  · rw [disposeFrames, markOpening_eq, markSealing_eq, hpath]
    exact hlists
  · by_cases hd : d ∈ sentFrame (s.transmitter l) ∨ d ∈ receivedFrame (s.receiver l)
    · exact or_assoc.1 (.inl hd)
    · refine .inr (.inr ?_)
      rw [List.mem_filter, hsame d hd]
      simp
  · rw [hlast', hdesc']
    by_cases hd : d ∈ sentFrame (s.transmitter l) ∨ d ∈ receivedFrame (s.receiver l)
    · rw [if_pos hd, ite_self]
    · rw [hsame d hd, if_pos]
      rcases hfreed with hq | ht | hr | hw
      exacts [.inl hq, absurd (.inl ht) hd, absurd (.inr hr) hd, .inr hw]
  · obtain ⟨hq, hs, hr, hopen⟩ : d ∉ s.queue l ∧ d ∉ sentFrame (s.transmitter l) ∧
        d ∉ receivedFrame (s.receiver l) ∧ ¬(d ∈ s.opener.waiting ∧ frameOf s l d = true) := by
      simpa only [FreedByTeardown, not_or] using hkept
    have hd := not_or.2 ⟨hs, hr⟩
    rw [hlast', hdesc', if_neg hd, hsame d hd, if_neg (not_or.2 ⟨hq, hopen⟩)]

/-! ### The teardown as a whole -/

/-- R17: the part with a link torn down, before its key slots are released. -/
def tornDownState (l : LinkId) (s : State) : State :=
  (((leaveWaitList l (disposeFrames l s)).modLink l tornDown).setSealRequests
    ((disposeFrames l s).sealer.requests.filter fun x => x ≠ l))

theorem teardown_eq (l : LinkId) (s : State) : teardown l s =
    handOver (released ((s.link l).previous.toList ++ (s.link l).current.toList ++ (s.link l).next.toList)
      (tornDownState l s)) := by
  rw [← releaseSlots_eq_released]
  rfl

theorem tornDownState_slot (l : LinkId) (s : State) (k : SlotNo) :
    (tornDownState l s).slot k = s.slot k := by
  obtain ⟨_, _, h, _⟩ := disposeFrames_eq l s
  rw [tornDownState, h]
  rfl

theorem tornDownState_waitList (l : LinkId) (s : State) :
    (tornDownState l s).keys.waitList = s.keys.waitList.filter fun x => decide (x ≠ l) := by
  obtain ⟨_, _, h, _⟩ := disposeFrames_eq l s
  rw [tornDownState, h]
  rfl

theorem teardown_frame (l : LinkId) (s : State) :
    RenewalFrame (s.keys.waitList.filter fun x => decide (x ≠ l))
      (released ((s.link l).previous.toList ++ (s.link l).current.toList ++ (s.link l).next.toList)
        (tornDownState l s)) (teardown l s) ∧
    (teardown l s).keys.waitList <:+ s.keys.waitList.filter fun x => decide (x ≠ l) := by
  have h := handOver_frame (released ((s.link l).previous.toList ++ (s.link l).current.toList ++
    (s.link l).next.toList) (tornDownState l s))
  rw [released_keys_waitList, tornDownState_waitList] at h
  rw [teardown_eq]
  exact h

end Sys2Proof.Machine

namespace Sys2Proof.Proofs

open Sys2Proof Sys2Proof.Machine

/-- Settles O23: the link's slots are released, and the hand-over brings no key into a slot that it takes. -/
theorem teardownErasesKeys : Obligations.TeardownErasesKeys := by
  unfold Obligations.TeardownErasesKeys
  intro s l k hk
  have hmem : k ∈ (s.link l).previous.toList ++ (s.link l).current.toList ++ (s.link l).next.toList := by
    simpa [or_assoc] using hk
  have h := released_handOver_slot hmem (teardown_frame l s).1
  rw [tornDownState_slot] at h
  exact ⟨h.2, h.1⟩

/-- Settles O22: the frames are dealt with, and the hand-over then touches keys and waiting links alone. -/
theorem linkDeactivateTearsDown : Obligations.LinkDeactivateTearsDown := by
  unfold Obligations.LinkDeactivateTearsDown
  intro s tag link l h hl hlive
  obtain ⟨descs, waiting, heq, -, hwaiting, hfreed, hkept⟩ := disposeFrames_eq l s
  obtain ⟨hframe, hsuffix⟩ := teardown_frame l s
  have htorn : tornDownState l s = _ := congrArg (fun t =>
    (((leaveWaitList l t).modLink l tornDown).setSealRequests (t.sealer.requests.filter fun x => x ≠ l))) heq
  have hrest := hframe.rest
  have hdesc : ∀ d, (teardown l s).desc d = tget descs d := fun d => by
    rw [State.desc, hrest]
    simp only [released_store, htorn]
    rfl
  have hpath : ∀ d, (∀ n, s.transmitter l ≠ .frame d n) → (∀ n, s.receiver l ≠ .body d n) →
      d ∉ sentFrame (s.transmitter l) ∧ d ∉ receivedFrame (s.receiver l) := fun d ht hr => by
    constructor
    · cases e : s.transmitter l <;> simp only [sentFrame, List.mem_singleton, List.not_mem_nil, not_false_iff]
      rintro rfl
      exact ht _ e
    · cases e : s.receiver l <;> simp only [receivedFrame, List.mem_singleton, List.not_mem_nil, not_false_iff]
      rintro rfl
      exact hr _ e
  have hlink : ∀ j, j ∉ s.keys.waitList ∨ j = l → (teardown l s).link j = (tornDownState l s).link j :=
    fun j hj => by
      have hout : j ∉ s.keys.waitList.filter fun x => decide (x ≠ l) := by
        rcases hj with hj | rfl
        · exact fun hm => hj (List.mem_of_mem_filter hm)
        · simp
      rw [hframe.link j hout, released_link]
  refine ⟨teardown l s, commandArrives_of_takesAtOnce h (Nat.le_of_ble_eq_true rfl) ?_, rfl, ?_,
    fun j hj hw => ?_, fun j hj => ?_, ?_, ?_, ?_, fun j hj => ?_, ?_, ?_,
    fun d hd => (hdesc d).trans (hfreed d (.inl hd)), fun d ht hr => ⟨fun hd hf => ⟨?_, ?_⟩, fun hq hf => ?_⟩,
    fun d n ht => (hdesc d).trans (hfreed d (.inr (.inl ?_))),
    fun d n hr => (hdesc d).trans (hfreed d (.inr (.inr (.inl ?_)))), ?_⟩
  · rw [deactivate, onLiveLink_some hl, if_pos hlive]
    rfl
  · rw [hlink l (.inr rfl), htorn]
    simp [State.setSealRequests, leaveWaitList, State.setWaitList, State.modLink, State.link, tornDown]
  · rw [hlink j (.inl hw), htorn]
    simp [State.setSealRequests, leaveWaitList, State.setWaitList, State.modLink, State.link,
      tget_tput_of_ne _ _ hj.symm]
  · rw [State.queue, hrest]
    simp only [released_store, htorn]
    exact tget_tput_of_ne _ _ hj.symm
  · rw [State.queue, hrest]
    simp only [released_store, htorn]
    exact tget_tput_self _ _ _
  · rw [State.receiver, hrest]
    simp only [released_trunk, htorn]
    exact tget_tput_self _ _ _
  · rw [State.transmitter, hrest]
    simp only [released_trunk, htorn]
    exact tget_tput_self _ _ _
  · rw [State.receiver, State.transmitter, hrest]
    simp only [released_trunk, htorn]
    exact ⟨tget_tput_of_ne _ _ hj.symm, tget_tput_of_ne _ _ hj.symm⟩
  · exact fun hm => by simpa using hsuffix.subset hm
  · rw [hrest]
    simp only [released_sealer, htorn]
    simp [State.setSealRequests]
  · rw [hdesc]
    exact hfreed d (.inr (.inr (.inr ⟨hd, hf⟩)))
  · have hw : (teardown l s).opener.waiting = waiting := by
      rw [hrest]
      simp only [released_opener, htorn]
      rfl
    rw [hw, ((hwaiting d).resolve_left (hpath d ht hr).1).resolve_left (hpath d ht hr).2, hf]
    simp
  · rw [hdesc]
    refine hkept d ?_
    rintro (h | h | h | ⟨_, h⟩)
    exacts [hq h, (hpath d ht hr).1 h, (hpath d ht hr).2 h, by simp [hf] at h]
  · simp [sentFrame, ht]
  · simp [receivedFrame, hr]
  · rw [hrest]
    simp only [released_keys_roots, released_trunk, released_store, released_faults, released_host,
      released_engine, htorn]
    exact ⟨rfl, rfl, rfl, rfl, rfl, rfl, rfl, rfl⟩

end Sys2Proof.Proofs
end

section
/-! Triggers, failures and retirements, and the four timer expiries. -/

namespace Sys2Proof.Machine

/-! ### Triggers and re-evaluations -/

/-- R80: a trigger that the controller may act on, below the last epoch and with a FREE slot, starts the renewal. -/
theorem trigger_starts {s : State} {l : LinkId} {c k : SlotNo} (hact : mayAct (s.link l) = true)
    (hc : (s.link l).current = some c) (he : (s.slot c).epoch ≠ 65535) (hk : lowestFreeSlot s = some k) :
    trigger l s = startRenewal l k s := by
  rw [trigger, if_pos hact, actOnTrigger]
  simp only [hc, he, if_false, hk]

theorem mayAct_iff (k : Link) : mayAct k = true ↔
    k.state = .active ∧ k.renewal.state = .quiet ∧ k.renewal.pendingTrigger = false := by
  simp [mayAct, and_assoc]

theorem reevaluate_of_standing {s : State} {l : LinkId} (h : standing s l = true) :
    reevaluate l s = trigger l s := by
  rw [reevaluate, if_pos h]

theorem reevaluate_of_not_standing {s : State} {l : LinkId} (h : standing s l = false) :
    reevaluate l s = s := by
  rw [reevaluate, h]
  rfl

/-- R78: the standing conditions of a link look at its current slot's soft-crossed flag, at its budget-held flag
and at its interval timer. -/
theorem standing_congr {s t : State} {l : LinkId} (hc : (t.link l).current = (s.link l).current)
    (hb : (t.link l).budgetHeld = (s.link l).budgetHeld)
    (hi : (t.link l).renewal.interval = (s.link l).renewal.interval)
    (hs : ∀ c, (s.link l).current = some c → (t.slot c).softCrossed = (s.slot c).softCrossed) :
    standing t l = standing s l := by
  have hsoft : softCrossed t (t.link l) = softCrossed s (s.link l) := by
    rw [softCrossed, softCrossed, hc]
    cases h : (s.link l).current with
    | none => rfl
    | some c => exact hs c h
  simp only [standing, hsoft, hb, hi]

/-! ### Releases that change the links as well -/

theorem State.modLink_eq (l : LinkId) (f : Link → Link) (s : State) :
    s.modLink l f = { s with links := tput s.links l (f (s.link l)) } := rfl

theorem State.modRenewal_eq_modLink (l : LinkId) (f : Renewal → Renewal) (s : State) :
    s.modRenewal l f = s.modLink l fun k => { k with renewal := f k.renewal } := rfl

theorem released_modLink (ks : List SlotNo) (l : LinkId) (f : Link → Link) (s : State) :
    released ks (s.modLink l f) = (released ks s).modLink l f := by
  rw [← releaseSlots_eq_released, ← releaseSlots_eq_released]
  induction ks generalizing s with
  | nil => rfl
  | cons k ks ih => exact ih (releaseSlot k s)

/-- A hand-over after a release commutes with a change of a link that the hand-over does not read. -/
theorem handOver_released_modLink {l : LinkId} {f : Link → Link} {s : State} (ks : List SlotNo)
    (h : l ∉ s.keys.waitList ∨ SparesStart f) :
    handOver (released ks (s.modLink l f)) = (handOver (released ks s)).modLink l f := by
  rw [released_modLink, handOver_modLink (h.imp_left fun hl => by rwa [released_keys_waitList])]

/-- A change of a renewal record that the start of a renewal neither reads nor overwrites. -/
theorem sparesStart_renewal {g : Renewal → Renewal}
    (h : ∀ (r : Renewal) epoch nonce, g { r with
        state := .offering, offeredEpoch := epoch, headNonce := nonce, shopNonce := 0, attempts := 1,
        pendingTrigger := false } =
      { g r with
        state := .offering, offeredEpoch := epoch, headNonce := nonce, shopNonce := 0, attempts := 1,
        pendingTrigger := false }) :
    SparesStart fun x => { x with renewal := g x.renewal } := by
  refine ⟨fun _ => rfl, fun epoch nonce k x => ?_⟩
  simp only [startedLink, h]

/-! ### Failures -/

/-- R85, steps 1 to 3: the context of a link whose renewal has failed. -/
def failedLink (x : Link) : Link :=
  { x with
    next := none, lane := none, renewal := { x.renewal with offer := .stopped, failureMark := true } }

theorem failed_eq {s : State} {l : LinkId} (hl : l ∉ s.keys.waitList) : failed l s =
    (handOver (released (s.link l).next.toList s)).modLink l failedLink := by
  have h := handOver_released_modLink (f := fun x => { x with next := none, lane := none })
    (s.link l).next.toList (.inl hl)
  have hf : failed l s = (handOver (released (s.link l).next.toList
      (s.modLink l fun x => { x with next := none, lane := none }))).modRenewal l fun r =>
        { r with offer := .stopped, failureMark := true } := rfl
  rw [hf, h, State.modRenewal_eq_modLink, State.modLink_modLink]
  rfl

/-- The failure of a renewal as the machine does it after its offer timer has stopped, up to R85's step 4. -/
theorem failRenewal_eq {s : State} {l : LinkId} {f : Link → Link} (hl : l ∉ s.keys.waitList)
    (hnext : ∀ x, (f x).next = x.next) (hprofile : ∀ x, (f x).profile = x.profile)
    (hf : ∀ x, failedLink (f x) = failedLink x) :
    failRenewal l (s.modLink l f) =
      if isolatesOnFailure (s.link l) then autoIsolate l (failed l s) else failedToBackoff l s := by
  have hn : ((s.modLink l f).link l).next = (s.link l).next := by rw [State.link_modLink_self, hnext]
  have hp : isolatesOnFailure ((s.modLink l f).link l) = isolatesOnFailure (s.link l) := by
    rw [State.link_modLink_self, isolatesOnFailure, isolatesOnFailure, hprofile]
  have hsame : ((handOver (releaseSlots ((s.modLink l f).link l).next.toList
      ((s.modLink l f).modLink l fun x => { x with next := none, lane := none }))).modRenewal l fun r =>
        { r with offer := .stopped, failureMark := true }) = failed l s := by
    rw [failed_eq hl, releaseSlots_eq_released, hn, State.modLink_modLink,
      handOver_released_modLink _ (.inl hl), State.modRenewal_eq_modLink, State.modLink_modLink]
    congr 1
    funext x
    exact hf x
  rw [failRenewal, hsame, hp]
  rfl

theorem failed_link_self {s : State} {l : LinkId} (hl : l ∉ s.keys.waitList) :
    (failed l s).link l = failedLink (s.link l) := by
  have h := (handOver_frame (released (s.link l).next.toList s)).1.link l (by rwa [released_keys_waitList])
  rw [failed_eq hl, State.link_modLink_self, h, released_link]

/-- R85: nothing waits: the next slot of a failed renewal with nothing in flight is erased. -/
theorem failed_slot_erased {s : State} {l : LinkId} {k : SlotNo} (hk : (s.link l).next = some k)
    (h0 : (s.slot k).inFlight = 0) (hw : s.keys.waitList = []) :
    (failed l s).slot k = {} ∧ (failed l s).keys.waitList = [] := by
  have hw' : (released (s.link l).next.toList s).keys.waitList = [] := by rw [released_keys_waitList, hw]
  rw [failed_eq (by simp [hw]), handOver_of_waitList_nil hw', State.slot_modLink]
  exact ⟨released_slot_erased (by simp [hk]) h0, hw'⟩

theorem failed_host (l : LinkId) (s : State) : (failed l s).host = s.host := by
  have hf : (failed l s).host = (handOver (released (s.link l).next.toList
      (s.modLink l fun x => { x with next := none, lane := none }))).host := rfl
  rw [hf, (handOver_frame _).1.rest, released_host]
  rfl

theorem isolated_host (l : LinkId) (s : State) : (isolated l s).host = s.host := by
  rw [(isolated_frame l s).1.rest]
  simp [leaveWaitList]

/-- A FREE slot that nothing waits for is FREE after an isolation, whichever roles it filled. -/
theorem isolated_slot_erased {s : State} {l : LinkId} {k : SlotNo} (hk : s.slot k = {})
    (hw : s.keys.waitList = []) : (isolated l s).slot k = {} := by
  have hw' : (released ((s.link l).next.toList ++ (s.link l).previous.toList)
      (leaveWaitList l (s.modLink l isolatedLink))).keys.waitList = [] := by
    rw [released_keys_waitList]
    exact List.filter_eq_nil_iff.2 (by simp [hw])
  rw [isolated_eq, handOver_of_waitList_nil hw', released_slot, leaveWaitList_slot, State.slot_modLink, hk]
  split <;> rfl

@[simp] theorem State.slot_setEventPending (s : State) (l : LinkId) (k : SlotNo) :
    (s.setEventPending l).slot k = s.slot k := by
  rcases setEventPending_cases l s with ⟨_, e⟩ | ⟨_, e⟩ <;> rw [e]
  rfl

theorem State.link_setEventPending_self (s : State) (l : LinkId) :
    (s.setEventPending l).link l = { s.link l with eventPending := true } := by
  rcases setEventPending_cases l s with ⟨h, e⟩ | ⟨_, e⟩ <;> rw [e]
  · rw [← h]
  · rw [State.link_listNotice, State.link_modLink_self]

theorem State.notices_setEventPending (s : State) (l : LinkId) :
    (s.setEventPending l).host.notices =
      s.host.notices ++ (if (s.link l).eventPending then [] else [.link l]) := by
  rcases setEventPending_cases l s with ⟨h, e⟩ | ⟨h, e⟩ <;> rw [e, h]
  · simp
  · rfl

/-! ### Retirements -/

/-- R93: the part with a link's previous slot released and handed over, and the link QUIET. -/
def retiredQuiet (l : LinkId) (s : State) : State :=
  (handOver (released (s.link l).previous.toList (s.modLink l fun x => { x with previous := none }))).modRenewal l
    fun r => { r with grace := .stopped, state := .quiet }

theorem retired_eq (l : LinkId) (s : State) : retired l s = reevaluate l (retiredQuiet l s) := rfl

theorem retire_eq_retired (l : LinkId) (s : State) : retire l s = retired l s := by
  rw [retired_eq, retire, releaseSlots_eq_released, retiredQuiet]

/-- R93: a retirement stops the grace timer, whether or not it had stopped before. -/
theorem retire_graceStopped (l : LinkId) (s : State) :
    retire l (s.modRenewal l fun r => { r with grace := .stopped }) = retired l s := by
  have hprev : ((s.modRenewal l fun r => { r with grace := .stopped }).link l).previous = (s.link l).previous := by
    rw [State.link_modRenewal_self]
  have hspare : SparesStart fun x => { x with renewal := { x.renewal with grace := .stopped } } :=
    sparesStart_renewal (g := fun r => { r with grace := .stopped }) fun _ _ _ => rfl
  have hswap : (s.modRenewal l fun r => { r with grace := .stopped }).modLink l (fun x => { x with previous := none }) =
      (s.modLink l fun x => { x with previous := none }).modLink l fun x =>
        { x with renewal := { x.renewal with grace := .stopped } } := by
    rw [State.modRenewal_eq_modLink, State.modLink_modLink, State.modLink_modLink]
  rw [retire_eq_retired, retired_eq, retired_eq, retiredQuiet, hprev, hswap,
    handOver_released_modLink _ (.inr hspare), State.modRenewal_eq_modLink, State.modLink_modLink]
  rfl

/-- R93: the key slots after a retirement's release and hand-over, and what stays of the link. -/
theorem retiredQuiet_frame (l : LinkId) (s : State) : ∃ u,
    RenewalFrame s.keys.waitList (released (s.link l).previous.toList
      (s.modLink l fun x => { x with previous := none })) u ∧
    retiredQuiet l s = u.modRenewal l fun r => { r with grace := .stopped, state := .quiet } := by
  have h := (handOver_frame (released (s.link l).previous.toList
    (s.modLink l fun x => { x with previous := none }))).1
  rw [released_keys_waitList] at h
  exact ⟨_, h, rfl⟩

theorem standing_eq_false_iff (s : State) (l : LinkId) : standing s l = false ↔
    (∀ c, (s.link l).current = some c → (s.slot c).softCrossed = false) ∧ (s.link l).budgetHeld = false ∧
      (s.link l).renewal.interval ≠ .expired := by
  cases hc : (s.link l).current <;> simp [standing, softCrossed, hc, and_assoc]

/-- R93: where no link waits, a retirement leaves no standing condition that did not hold before it. -/
theorem standing_retiredQuiet {s : State} {l : LinkId} (hw : s.keys.waitList = []) (h : standing s l = false) :
    standing (retiredQuiet l s) l = false := by
  have hw' : (released (s.link l).previous.toList
      (s.modLink l fun x => { x with previous := none })).keys.waitList = [] := by
    rw [released_keys_waitList]
    exact hw
  obtain ⟨hsoft, hheld, hinterval⟩ := (standing_eq_false_iff s l).1 h
  rw [standing_eq_false_iff, retiredQuiet, handOver_of_waitList_nil hw', State.link_modRenewal_self, released_link,
    State.link_modLink_self]
  refine ⟨fun c hc => ?_, hheld, hinterval⟩
  rw [State.slot_modRenewal, released_slot, State.slot_modLink]
  split
  · split
    · rfl
    · exact hsoft c hc
  · exact hsoft c hc

/-- A trigger leaves a link's renewal state, or starts an exchange. -/
theorem trigger_renewalState (l : LinkId) (s : State) :
    ((trigger l s).link l).renewal.state = (s.link l).renewal.state ∨
      ((trigger l s).link l).renewal.state = .offering := by
  rcases trigger_cases l s with e | ⟨_, k, hk, e⟩ | ⟨_, _, e⟩ <;> rw [e]
  · exact .inl rfl
  · cases hc : (s.link l).current with
    | none => exact .inl (by rw [startRenewal_of_none hc])
    | some c => exact .inr (by rw [startRenewal_of_some hc, State.link_modLink_self]; rfl)
  · exact .inl (by rw [State.link_setWaitList, State.link_modRenewal_self])

/-- R93: what a retirement makes of the previous slot. -/
theorem retired_slots (l : LinkId) (s : State) :
    (∀ k, (s.link l).previous = some k → (s.slot k).inFlight ≠ 0 →
      (retired l s).slot k = { s.slot k with state := .draining }) ∧
    ∀ k, (s.link l).previous = some k → (s.slot k).inFlight = 0 → s.keys.waitList = [] →
      standing s l = false → (retired l s).slot k = {} := by
  have hmem : ∀ k, (s.link l).previous = some k → k ∈ (s.link l).previous.toList := fun k hk => by simp [hk]
  refine ⟨fun k hk h0 => ?_, fun k hk h0 hw hstand => ?_⟩
  · obtain ⟨u, hframe, hu⟩ := retiredQuiet_frame l s
    have hdrains : (retiredQuiet l s).slot k = { s.slot k with state := .draining } := by
      rw [hu, State.slot_modRenewal]
      exact (released_handOver_slot (hmem k hk) hframe).1 h0
    rw [retired_eq, (reevaluate_frame l _).slot_of_ne_free (by rw [hdrains]; simp), hdrains]
  · have hw' : (released (s.link l).previous.toList
        (s.modLink l fun x => { x with previous := none })).keys.waitList = [] := by
      rw [released_keys_waitList]
      exact hw
    rw [retired_eq, reevaluate_of_not_standing (standing_retiredQuiet hw hstand), retiredQuiet,
      handOver_of_waitList_nil hw', State.slot_modRenewal]
    exact released_slot_erased (hmem k hk) h0

/-- R93: what a retirement makes of the link. -/
theorem retired_link (l : LinkId) (s : State) :
    ((retired l s).link l).previous = none ∧ ((retired l s).link l).current = (s.link l).current ∧
    ((retired l s).link l).renewal.grace = .stopped ∧
    (((retired l s).link l).renewal.state = .quiet ∨ ((retired l s).link l).renewal.state = .offering) := by
  obtain ⟨u, hframe, hu⟩ := retiredQuiet_frame l s
  have hlast := (reevaluate_frame l (retiredQuiet l s)).kept l
  have hfirst := hframe.kept l
  rw [released_link, State.link_modLink_self] at hfirst
  rw [← retired_eq, hu, State.link_modRenewal_self] at hlast
  refine ⟨(congrArg (·.previous) hlast).trans (congrArg (·.previous) hfirst),
    (congrArg (·.current) hlast).trans (congrArg (·.current) hfirst),
    congrArg (·.renewal.grace) hlast, ?_⟩
  have hquiet : ((retiredQuiet l s).link l).renewal.state = .quiet := by
    rw [hu, State.link_modRenewal_self]
  rw [retired_eq]
  rcases reevaluate_cases l (retiredQuiet l s) with e | e <;> rw [e]
  · exact .inl hquiet
  · exact (trigger_renewalState l _).imp_left fun h => h.trans hquiet

/-! ### Expiry events -/

/-- R76: an expiry row acts where the timer's next tick is its last. -/
theorem expiryEvent_of_running {s : State} {l : LinkId} {t : TimerName} {n limit : Nat}
    (h : (s.link l).renewal.timer t = .running n limit) (hlast : limit ≤ n + 1) :
    expiryEvent t l s = finish (expire t l s) := by
  rw [expiryEvent, h, Timer.atLastTick, if_pos (decide_eq_true hlast)]

theorem expiryEvent_of_not_atLastTick {s : State} {l : LinkId} {t : TimerName}
    (h : ((s.link l).renewal.timer t).atLastTick = false) : expiryEvent t l s = s := by
  rw [expiryEvent, h]
  rfl

theorem offerStopped_eq_modLink (l : LinkId) (s : State) :
    (s.modRenewal l fun r => { r with offer := .stopped }) =
      s.modLink l fun x => { x with renewal := { x.renewal with offer := .stopped } } := rfl

/-- R84: an offer timer that expires in OFFERING before the last attempt repeats the OFFER. -/
theorem expireOffer_repeats {s : State} {l : LinkId} {p : Profile} (hp : (s.link l).profile = some p)
    (hstate : (s.link l).renewal.state = .offering) (hleft : (s.link l).renewal.attempts < p.attempts) :
    expireOffer l s = { s with
      links := tput s.links l
        ({ s.link l with
          lane := some (.offer (s.link l).renewal.offeredEpoch (s.link l).renewal.headNonce
            ((s.link l).renewal.attempts + 1))
          renewal := { (s.link l).renewal with
            offer := .stopped, attempts := (s.link l).renewal.attempts + 1 } }) } := by
  have hleft' : (s.link l).renewal.attempts < offerAttempts (s.link l) := by
    rw [offerAttempts, hp]
    exact hleft
  rw [expireOffer]
  dsimp only
  rw [if_pos hstate, if_pos hleft', offerStopped_eq_modLink, State.modLink_modLink]
  rfl

/-- R85: an offer timer that expires in OFFERING after the last attempt fails the renewal. -/
theorem expireOffer_fails {s : State} {l : LinkId} {p : Profile} (hp : (s.link l).profile = some p)
    (hstate : (s.link l).renewal.state = .offering) (hlast : p.attempts ≤ (s.link l).renewal.attempts)
    (hl : l ∉ s.keys.waitList) :
    expireOffer l s = if p.isolateOnFailure then autoIsolate l (failed l s) else failedToBackoff l s := by
  have hlast' : ¬(s.link l).renewal.attempts < offerAttempts (s.link l) := by
    rw [offerAttempts, hp]
    exact Nat.not_lt.2 hlast
  have hfail : isolatesOnFailure (s.link l) = p.isolateOnFailure := by rw [isolatesOnFailure, hp]
  rw [expireOffer]
  dsimp only
  rw [if_pos hstate, if_neg hlast', offerStopped_eq_modLink, ← hfail]
  exact failRenewal_eq hl (fun _ => rfl) (fun _ => rfl) (fun _ => rfl)

end Sys2Proof.Machine

namespace Sys2Proof.Proofs

open Sys2Proof Sys2Proof.Machine

/-- Settles O21: the re-evaluation sees the conditions that stood while the link was ISOLATED. -/
theorem linkResumeReevaluates : Obligations.LinkResumeReevaluates := by
  unfold Obligations.LinkResumeReevaluates
  intro s tag link l h hl
  refine ⟨fun hactive => ?_, fun hisolated => ?_⟩
  · refine commandArrives_of_takesAtOnce h (Nat.le_of_ble_eq_true rfl) ?_
    rw [resume, onLiveLink_some hl, if_pos (Link.live_eq_true.2 (.inl hactive)), if_neg (by simp [hactive])]
    rfl
  · intro t
    have ht : resume link s = ok (reevaluate l t) := by
      rw [resume, onLiveLink_some hl, if_pos (Link.live_eq_true.2 (.inr hisolated)), if_pos hisolated]
      rfl
    have hlink : t.link l = { s.link l with state := .active } := tget_tput_self _ _ _
    have hstand : standing t l = standing s l :=
      standing_congr (by rw [hlink]) (by rw [hlink]) (by rw [hlink]) fun _ _ => rfl
    refine ⟨fun hno => ?_, fun k c hyes hquiet hpending hc he hk hlow => ?_⟩ <;>
      refine commandArrives_of_takesAtOnce h (Nat.le_of_ble_eq_true rfl) ?_ <;> rw [ht]
    · rw [reevaluate_of_not_standing (hstand.trans hno)]
      rfl
    · have hact : mayAct (t.link l) = true := (mayAct_iff _).2 (by rw [hlink]; exact ⟨rfl, hquiet, hpending⟩)
      have hc' : (t.link l).current = some c := by rw [hlink]; exact hc
      rw [reevaluate_of_standing (hstand.trans hyes),
        trigger_starts hact hc' he (lowestFreeSlot_eq_of_lowest hk hlow)]
      rfl

/-- Settles O45: each expiry row is the expiry of its timer, whose effects the lemmas above list. -/
theorem timersExpire : Obligations.TimersExpire := by
  unfold Obligations.TimersExpire
  intro s l n limit hlast
  have row : ∀ {t : TimerName} {x : State}, (s.link l).renewal.timer t = .running n limit →
      expire t l s = x → Host.Outcome.next (φ := Fault) (ρ := Refusal) (expiryEvent t l s) = .next (finish x) :=
    fun ht hx => by rw [expiryEvent_of_running ht hlast, hx]
  refine ⟨fun ht => row (t := .interval) ht rfl, fun ht hstate p hp => ⟨fun hleft => ?_,
    fun hdone haction hl => ⟨_, ?_, rfl, ?_, fun k hk h0 hw => ?_⟩,
    fun hdone haction hl hactive => ⟨_, ?_, rfl, ?_, ?_, fun k hk h0 hw => ?_⟩⟩,
    fun ht hstate => ⟨_, ?_, rfl, fun k hk => ⟨fun h0 => ?_, fun h0 hw hstand => ?_⟩, ?_⟩,
    fun ht hstate => row (t := .backoff) ht ?_, ?_⟩
  · exact row (t := .offer) ht (expireOffer_repeats hp hstate hleft)
  · refine row (t := .offer) ht ((expireOffer_fails hp hstate hdone hl).trans ?_)
    rw [haction]
    rfl
  · rw [failedToBackoff, State.link_modRenewal_self, failed_link_self hl]
    rfl
  · rw [failedToBackoff, State.slot_modRenewal]
    exact (failed_slot_erased hk h0 hw).1
  · refine row (t := .offer) ht ((expireOffer_fails hp hstate hdone hl).trans ?_)
    have hactive' : ((failed l s).link l).state = .active := by rw [failed_link_self hl]; exact hactive
    rw [if_pos haction, autoIsolate, if_pos hactive', isolate_eq_isolated]
    rfl
  · rw [failedToIsolation, State.link_setEventPending_self, isolated_link_self, failed_link_self hl]
    rfl
  · rw [failedToIsolation, State.notices_setEventPending, isolated_host, failed_host, isolated_link_self,
      failed_link_self hl]
    rfl
  · obtain ⟨herased, hnil⟩ := failed_slot_erased hk h0 hw
    rw [failedToIsolation, State.slot_setEventPending, isolated_slot_erased herased hnil]
  · refine row (t := .grace) ht ?_
    change expireGrace l s = _
    rw [expireGrace]
    simp only [hstate, if_true]
    exact retire_graceStopped l s
  · exact ((retired_slots l s).1 k hk h0)
  · exact (retired_slots l s).2 k hk h0 hw hstand
  · exact retired_link l s
  · change expireBackoff l s = _
    rw [expireBackoff]
    simp only [hstate, if_true, State.modRenewal_eq_modLink, State.modLink_modLink]
    rfl
  · exact ⟨fun h => congrArg _ (expiryEvent_of_not_atLastTick (t := .interval) h),
      fun h => congrArg _ (expiryEvent_of_not_atLastTick (t := .offer) h),
      fun h => congrArg _ (expiryEvent_of_not_atLastTick (t := .grace) h),
      fun h => congrArg _ (expiryEvent_of_not_atLastTick (t := .backoff) h)⟩

end Sys2Proof.Proofs
end

section
/-! What every command and event does, cut into the operations that a law has to be kept by: a law that the
operations keep, every step keeps. -/

namespace Sys2Proof.Machine

/-- R164: the frame of the store that the record on the outbound line carries. -/
def lineFrame (h : HostPort) : List DescNo := (h.line.bind fun r => r.frame).toList

/-- R147, R150: the persistence count of an entry that a sampling, a purge or a report leaves: as it was in the
table, or one sample on from there or from 0. -/
def PersistenceFrom (s : State) (e : FaultEntry) : Prop :=
  (∃ x ∈ s.faults.entries, e.persistence = x.persistence) ∨ e.persistence = 0 ∨
  ∃ (kind : FaultKind) (st : EntryState) (n : Nat) (present : Bool),
    (n = 0 ∨ ∃ x ∈ s.faults.entries, n = x.persistence) ∧
      e.persistence = (nextEntryState (policyOf s kind) st n present).2

theorem onLink_keeps {P : State → Prop} (b : Byte) (f : LinkId → State → State × Answer) (s : State)
    (hs : P s) (hf : ∀ l, P (f l s).1) : P (onLink b f s).1 := by
  unfold onLink
  split
  · exact hf _
  · exact hs

theorem onLiveLink_keeps {P : State → Prop} (b : Byte) (f : LinkId → State → State × Answer) (s : State)
    (hs : P s) (hf : ∀ l, (s.link l).live = true → P (f l s).1) : P (onLiveLink b f s).1 := by
  refine onLink_keeps b _ s hs fun l => ?_
  split
  · next hlive => exact hf l hlive
  · exact hs

theorem mapRead_state (selector : Byte) (s : State) : (mapRead selector s).1 = s := by
  unfold mapRead
  split <;> rfl

theorem faultList_state (selector : Byte) (s : State) : (faultList selector s).1 = s := by
  unfold faultList
  split <;> rfl

theorem faultRead_state (source kind : Byte) (s : State) : (faultRead source kind s).1 = s := by
  unfold faultRead
  split
  · split <;> rfl
  · rfl

/-- R162, R173: a code that is not assigned has no effect. -/
theorem commandEffect_unassigned {code : Nat} {fields : List Byte} (h : code ∉ assignedCodes) :
    commandEffect code fields = none := by
  simp only [assignedCodes, List.mem_cons, List.not_mem_nil, or_false, not_or] at h
  delta commandEffect commandEffect.match_1
  simp only [h, dite_false]

theorem withRoom_subset {kind : FaultKind} {es es' : List FaultEntry} (h : withRoom kind es = some es') :
    ∀ x ∈ es', x ∈ es := by
  have hdrop : ∀ (p : FaultEntry → Bool) (es : List FaultEntry), ∀ x ∈ dropFirst p es, x ∈ es := by
    intro p es
    induction es with
    | nil => exact fun x hx => hx
    | cons e es ih =>
      intro x hx
      rw [dropFirst] at hx
      split at hx
      · exact List.mem_cons_of_mem _ hx
      · rcases List.mem_cons.1 hx with rfl | hx
        · exact List.mem_cons_self
        · exact List.mem_cons_of_mem _ (ih x hx)
  unfold withRoom at h
  split at h
  · cases h
    exact fun x hx => hx
  · split at h
    · cases h
      exact fun x hx => hx
    · split at h
      · cases h
        exact hdrop _ _
      · cases h

/-- R138: a failed header leaves no frame in the receiver. -/
theorem receivedFrame_replayHeader (bs : List Byte) : receivedFrame (replayHeader bs) = [] := by
  unfold replayHeader
  refine List.foldlRecOn (motive := fun r => receivedFrame r = []) _ _ rfl fun r hr b _ => ?_
  unfold huntByte
  split
  · split <;> rfl
  · rfl
  · exact hr
  · rfl

/-- A property kept by what the blocks take up by themselves: the request list as it follows its conditions, and
each start in a state where it can be taken. -/
structure StartsKeep (P : State → Prop) : Prop where
  refresh : ∀ s, P s → P (refreshRequests s)
  draw : ∀ s d, P s → P { s with draws := d }
  sealing : ∀ s, sealerReady s = true → (∀ l ∈ s.sealer.requests, sealEligible s l = true) → P s →
    P (startSealing s)
  opening : ∀ s, openerReady s = true → P s → P (startOpening s)
  derivation : ∀ s, deriverReady s = true → P s → P (beginDerivation s)

/-- What a start in a state with a refreshed request list can rely on. -/
theorem StartsKeep.start {P : State → Prop} (h : StartsKeep P) {s : State} {c : Start}
    (hc : nextStart (refreshRequests s) = some c) (hs : P s) :
    P (takeStart c (drawStart (refreshRequests s))) := by
  have hlist := refreshRequests_eligible s
  have hready := nextStart_ready hc
  obtain ⟨d, hd⟩ := drawStart_eq (refreshRequests s)
  rw [hd]
  have hdrawn := h.draw _ d (h.refresh s hs)
  cases c with
  | sealing => exact h.sealing _ hready hlist hdrawn
  | opening => exact h.opening _ hready hdrawn
  | derivation => exact h.derivation _ hready hdrawn

theorem StartsKeep.settleBlocks {P : State → Prop} (h : StartsKeep P) (s : State) (hs : P s) :
    P (settleBlocks s) := by
  have all : ∀ (n : Nat) (s : State), P s → P (settleBlocksFor n s) := by
    intro n
    induction n with
    | zero => exact fun s hs => h.refresh s hs
    | succ n ih =>
      intro s hs
      simp only [settleBlocksFor]
      split
      · next hc => exact ih _ (h.start hc hs)
      · exact h.refresh s hs
  exact all _ s hs

/-- A property kept by the operations that commands and events are made of. -/
structure EffectsKeep (P : State → Prop) : Prop extends StartsKeep P where
  /- The host port -/
  queue : ∀ s q, P s → P { s with pending := q }
  host : ∀ s h, (lineFrame h).Sublist (lineFrame s.host) → P s → P { s with host := h }
  traffic : ∀ s d rest, canSend s = true → s.store.delivery = d :: rest → P s → P (sendTraffic d rest s)
  sent : ∀ s r d, s.host.line = some r → r.frame = some d → P s → P ((s.setLine none).freeFrame d)
  reset : ∀ cause input s, P s → P (resetPart cause input s)
  /- The link contexts and the key store -/
  report : ∀ s l stats pending, P s →
    P (s.modLink l fun x => { x with stats := stats, eventPending := pending })
  holds : ∀ s l hold allowance, allowance ≤ 255 ∨ allowance ≤ (s.link l).allowance → P s →
    P (s.modLink l fun x => { x with hold := hold, allowance := allowance })
  profile : ∀ s l st p, (s.link l).state = .idle ∨ (s.link l).state = .configured →
    st = .idle ∨ st = .configured → (∀ q, p = some q → ProfileInRange q) → P s →
    P (s.modLink l fun x => { x with state := st, profile := p })
  root : ∀ s l r, P s → P (s.setRoot l r)
  activation : ∀ s l k, (s.link l).state = .configured → lowestFreeSlot s = some k → P s →
    P (activateOn l k s)
  isolation : ∀ s l, (s.link l).state = .active → P s → P (isolate l s)
  resumption : ∀ s l, (s.link l).state = .isolated → P s → P (s.modLink l fun x => { x with state := .active })
  triggered : ∀ s l, P s → P (trigger l s)
  torn : ∀ s l, (s.link l).live = true → P s → P (teardown l s)
  timers : ∀ s, P s → P (countTimers s)
  offerTimer : ∀ s l (f : Timer → Timer), P s → P (s.modRenewal l fun r => { r with offer := f r.offer })
  expiry : ∀ t l s, P s → P (expire t l s)
  operation : ∀ r s, P s → P (endOperation r s)
  engine : ∀ s e, P s → P { s with engine := e }
  /- The frame store -/
  outbound : ∀ s l p tag payload d us, (s.link l).live = true → (s.link l).profile = some p →
    queueUnits s l + unitsFor payload.length ≤ p.quota →
    findRoom s false (unitsFor payload.length) = some (d, us) → P s →
    P (admitOutbound l tag payload d us s)
  dequeue : ∀ s l n, P s →
    P ((freeFrames ((s.queue l).take n) s).setQueue l ((s.queue l).drop n))
  units : ∀ s chain j bs, P s → P (s.writeUnits chain j bs)
  /- The trunk -/
  trunk : ∀ s t, t.monitorA = s.trunk.monitorA → t.monitorB = s.trunk.monitorB →
    t.receivers = s.trunk.receivers → t.transmitters = s.trunk.transmitters → P s → P { s with trunk := t }
  monitor : ∀ s p m, (m = (s.monitor p).absent ∨ ∃ good, m = (s.monitor p).mark good) → P s →
    P (s.setMonitor p m)
  reception : ∀ s l, P s → P (abandonReception l s)
  transmission : ∀ s l, P s → P (abandonTransmission l s)
  receiver : ∀ s l r, receivedFrame r = receivedFrame (s.receiver l) → P s → P (s.setReceiver l r)
  inbound : ∀ s l h d us bs, s.receiver l = .header bs →
    findRoom s true (unitsFor h.bodyLength) = some (d, us) → P s →
    P ((admitInbound l h d us s).setReceiver l (.body d 0))
  received : ∀ s l d n, s.receiver l = .body d n → P s →
    P ((s.setReceiver l .hunt).setOpenList (s.opener.waiting ++ [d]))
  transmitter : ∀ s l t, (sentFrame t).Sublist (sentFrame (s.transmitter l)) → P s → P (s.setTransmitter l t)
  transmitted : ∀ s l d n, s.transmitter l = .frame d n → P s → P ((s.freeFrame d).setTransmitter l .idle)
  /- The fault supervisor -/
  counts : ∀ s v, v.policies = s.faults.policies → v.entries = s.faults.entries → P s →
    P { s with faults := v }
  policy : ∀ s k p, PolicyInRange k p → P s → P (setPolicy k p s)
  entries : ∀ s es, (∀ e ∈ es, PersistenceFrom s e) → P s →
    P (s.modFaults fun v => { v with entries := es })

namespace EffectsKeep

variable {P : State → Prop} (h : EffectsKeep P)
include h

/-! ### The host port -/

theorem modHost (s : State) (f : HostPort → HostPort) (hf : (lineFrame (f s.host)).Sublist (lineFrame s.host))
    (hs : P s) : P (s.modHost f) :=
  h.host s _ hf hs

theorem setLine (s : State) (r : Option LineRecord) (hr : (r.bind fun x => x.frame) = none) (hs : P s) :
    P (s.setLine r) := by
  refine h.host s { s.host with line := r } ?_ hs
  rw [lineFrame, hr]
  exact List.nil_sublist _

theorem listNotice (s : State) (n : NoticeItem) (hs : P s) : P (s.listNotice n) :=
  h.modHost s _ (List.Sublist.refl _) hs

theorem eventPending (s : State) (l : LinkId) (hs : P s) : P (s.setEventPending l) := by
  rcases setEventPending_cases l s with ⟨_, e⟩ | ⟨_, e⟩ <;> rw [e]
  · exact hs
  · exact h.listNotice _ _ (h.report s l (s.link l).stats true hs)

theorem count (s : State) (l : LinkId) (c : Counter) (hs : P s) : P (s.count l c) :=
  h.report s l _ (s.link l).eventPending hs

theorem modFaults_counts (s : State) (f : Supervisor → Supervisor)
    (hp : (f s.faults).policies = s.faults.policies) (he : (f s.faults).entries = s.faults.entries)
    (hs : P s) : P (s.modFaults f) :=
  h.counts s _ hp he hs

theorem modEvents (s : State) (l : LinkId) (f : LinkEvents → LinkEvents) (hs : P s) : P (s.modEvents l f) :=
  h.modFaults_counts s _ rfl rfl hs

/-! ### Triggers and isolations -/

theorem reevaluated (s : State) (l : LinkId) (hs : P s) : P (reevaluate l s) := by
  rcases reevaluate_cases l s with e | e <;> rw [e]
  · exact hs
  · exact h.triggered s l hs

theorem autoIsolated (s : State) (l : LinkId) (hs : P s) : P (autoIsolate l s) := by
  unfold autoIsolate
  split
  · next ha => exact h.eventPending _ _ (h.isolation s l ha hs)
  · exact hs

/-! ### The effects of the commands -/

theorem configure (link : Byte) (p : Option Profile) (hp : ∀ q, p = some q → ProfileInRange q) (s : State)
    (hs : P s) : P (configure link p s).1 := by
  refine onLink_keeps link _ s hs fun l => ?_
  split
  · next hstate =>
    split
    · exact h.profile s l .configured _ hstate (.inr rfl) hp hs
    · exact hs
  · exact hs

theorem unconfigure (link : Byte) (s : State) (hs : P s) : P (unconfigure link s).1 := by
  refine onLink_keeps link _ s hs fun l => ?_
  split
  · next hstate => exact h.profile s l .idle none (.inr hstate) (.inl rfl) (fun _ hq => nomatch hq) hs
  · exact hs

theorem activate (link : Byte) (s : State) (hs : P s) : P (activate link s).1 := by
  refine onLink_keeps link _ s hs fun l => ?_
  split
  · next hstate =>
    split
    · exact hs
    · split
      · next k hk => exact h.activation s l k hstate hk hs
      · exact hs
  · exact hs

theorem isolateCommand (link : Byte) (s : State) (hs : P s) : P (isolateCommand link s).1 := by
  refine onLiveLink_keeps link _ s hs fun l _ => ?_
  split
  · next hactive => exact h.isolation s l hactive hs
  · exact hs

theorem resume (link : Byte) (s : State) (hs : P s) : P (resume link s).1 := by
  refine onLiveLink_keeps link _ s hs fun l _ => ?_
  split
  · next hisolated => exact h.reevaluated _ l (h.resumption s l hisolated hs)
  · exact hs

theorem deactivate (link : Byte) (s : State) (hs : P s) : P (deactivate link s).1 :=
  onLiveLink_keeps link _ s hs fun l hlive => h.torn s l hlive hs

theorem linkStatus (link clear : Byte) (s : State) (hs : P s) : P (linkStatus link clear s).1 := by
  refine onLink_keeps link _ s hs fun l => ?_
  split
  · exact h.report s l (Vector.replicate 14 0) (s.link l).eventPending hs
  · exact hs
  · exact hs

theorem rootLoad (link : Byte) (key : List Byte) (s : State) (hs : P s) : P (rootLoad link key s).1 := by
  refine onLink_keeps link _ s hs fun l => ?_
  split
  · exact hs
  · split
    · exact h.root s l _ hs
    · exact hs

theorem rootErase (link : Byte) (s : State) (hs : P s) : P (rootErase link s).1 := by
  refine onLink_keeps link _ s hs fun l => ?_
  split
  · exact hs
  · exact h.root s l _ hs

theorem renewCommand (link : Byte) (s : State) (hs : P s) : P (renewCommand link s).1 := by
  refine onLink_keeps link _ s hs fun l => ?_
  dsimp only
  split
  · exact hs
  · split
    · exact hs
    · split
      · exact hs
      · exact h.triggered s l hs

theorem trafficOut (tag link : Byte) (payload : List Byte) (s : State) (hs : P s) :
    P (trafficOut tag link payload s).1 := by
  unfold Machine.trafficOut
  split
  · exact hs
  · next l _ =>
    split
    · next hlive =>
      split
      · next p hp =>
        unfold admitTraffic
        dsimp only
        split
        · exact hs
        · split
          · exact hs
          · next hquota =>
            split
            · exact hs
            · next d us hroom => exact h.outbound s l p tag payload d us hlive hp (Nat.not_lt.1 hquota) hroom hs
      · exact hs
    · exact hs

theorem queueReply (l : LinkId) (s : State) (hs : P s) : P (queueReply l s).1 :=
  h.settleBlocks s hs

theorem hold (link : Byte) (s : State) (hs : P s) : P (hold link s).1 :=
  onLiveLink_keeps link _ s hs fun l _ =>
    h.queueReply l _ (h.holds s l true (s.link l).allowance (.inr (Nat.le_refl _)) hs)

theorem release (link count : Byte) (s : State) (hs : P s) : P (release link count s).1 := by
  refine onLiveLink_keeps link _ s hs fun l _ => ?_
  split
  · exact hs
  · exact h.queueReply l _ (h.holds s l (s.link l).hold count.toNat (.inl (Nat.le_of_lt_succ count.isLt)) hs)

theorem unhold (link : Byte) (s : State) (hs : P s) : P (unhold link s).1 :=
  onLiveLink_keeps link _ s hs fun l _ => h.queueReply l _ (h.holds s l false 0 (.inl (Nat.zero_le _)) hs)

theorem discard (link : Byte) (count : W16) (s : State) (hs : P s) : P (discard link count s).1 := by
  refine onLiveLink_keeps link _ s hs fun l _ => ?_
  split
  · exact hs
  · have htake : ∃ n, discarded s l count.toNat = (s.queue l).take n := by
      unfold discarded
      split
      · exact ⟨_, List.take_length.symm⟩
      · exact ⟨_, rfl⟩
    obtain ⟨n, hn⟩ := htake
    have hdrop : (s.queue l).drop ((s.queue l).take n).length = (s.queue l).drop n := by
      rw [List.length_take]
      rcases Nat.le_total n (s.queue l).length with hle | hle
      · rw [Nat.min_eq_left hle]
      · rw [Nat.min_eq_right hle, List.drop_length, List.drop_eq_nil_of_le hle]
    refine h.settleBlocks _ ?_
    rw [hn, hdrop]
    exact h.dequeue s l n hs

/-! ### The trunk -/

theorem reconcileCircuits (before s : State) (hs : P s) : P (reconcileCircuits before s) := by
  unfold Machine.reconcileCircuits
  refine List.foldlRecOn _ _ hs fun t ht l _ => ?_
  unfold reconcileCircuit
  split
  · exact h.offerTimer (abandonReception l t) l Timer.pause (h.reception t l ht)
  · exact h.offerTimer t l Timer.resume ht
  · exact ht
  · exact ht

theorem switchTo (p : Port) (s : State) (hs : P s) : P (switchTo p s) := by
  have hfold : P ((allFin 64).foldl (fun s l => abandonReception l s) s) :=
    List.foldlRecOn _ _ hs fun t ht l _ => h.reception t l ht
  unfold Machine.switchTo
  generalize (allFin 64).foldl (fun s l => abandonReception l s) s = t at hfold ⊢
  exact h.trunk _ _ rfl rfl rfl rfl (h.modFaults_counts t _ rfl rfl hfold)

theorem followMonitor (p : Port) (old : Monitor) (s : State) (hs : P s) : P (followMonitor p old s) := by
  unfold Machine.followMonitor
  split
  · split
    · split
      · exact h.switchTo _ s hs
      · exact hs
    · split
      · exact h.switchTo _ s hs
      · exact hs
  · exact hs

theorem monitorEvent (p : Port) (f : Monitor → Monitor)
    (hf : ∀ m, f m = m.absent ∨ ∃ good, f m = m.mark good) (s : State) (hs : P s) : P (monitorEvent p f s) :=
  h.reconcileCircuits _ _ (h.followMonitor p _ _ (h.monitor s p _ (hf _) hs))

theorem portMode (mode : Byte) (s : State) (hs : P s) : P (portMode mode s).1 := by
  unfold Machine.portMode
  split
  · exact hs
  · next m _ =>
    refine h.reconcileCircuits _ _ ?_
    have hm : P { s with trunk := { s.trunk with mode := m } } := h.trunk s _ rfl rfl rfl rfl hs
    have hselect : ∀ (q : Port) (t : State), P t → P (selectPort q t) := fun q t ht => by
      unfold selectPort
      split
      · exact ht
      · exact h.switchTo q t ht
    unfold applyMode
    split
    · exact hselect _ _ hm
    · exact hselect _ _ hm
    · dsimp only
      split
      · exact h.switchTo _ _ hm
      · exact hm

theorem mapSet (first count entry : Byte) (s : State) (hs : P s) : P (mapSet first count entry s).1 := by
  unfold Machine.mapSet
  split
  · split
    · exact h.trunk s _ rfl rfl rfl rfl hs
    · exact hs
  · exact hs

theorem mapCommit (s : State) (hs : P s) : P (mapCommit s).1 := by
  refine h.reconcileCircuits _ _ ?_
  refine List.foldlRecOn _ _ (h.trunk s _ rfl rfl rfl rfl hs) fun t ht l _ => ?_
  exact h.transmission _ l (h.reception t l ht)

theorem trunkStatus (clear : Byte) (s : State) (hs : P s) : P (trunkStatus clear s).1 := by
  unfold Machine.trunkStatus
  split
  · exact h.trunk s _ rfl rfl rfl rfl hs
  · exact hs
  · exact hs

/-! ### The FAULT commands -/

theorem faultPolicy (kind declare clear report : Byte) (s : State) (hs : P s) :
    P (faultPolicy kind declare clear report s).1 := by
  unfold Machine.faultPolicy
  split
  · exact hs
  · split
    · exact hs
    · next hdeclare =>
      split
      · split
        · next hrange =>
          obtain ⟨hd, hc, hc'⟩ := hrange
          have hpos : declare.toNat ≠ 0 := fun e => hdeclare (BitVec.eq_of_toNat_eq e)
          exact h.policy s _ _ ⟨⟨Nat.one_le_iff_ne_zero.2 hpos, hd⟩, .inl ⟨hc, hc'⟩⟩ hs
        · exact hs
      · exact hs

theorem faultPurge (s : State) (hs : P s) : P (faultPurge s).1 :=
  h.entries s (s.faults.entries.filter fun e => !purgeable e)
    (fun e he => .inl ⟨e, List.mem_of_mem_filter he, rfl⟩) hs

/-! ### Records -/

/-- R162: the effect of a COMMAND with any code and any fields. -/
theorem commandEffect {code : Nat} {fields : List Byte} {effect : State → State × Answer}
    (he : commandEffect code fields = some effect) (s : State) (hs : P s) : P (effect s).1 := by
  have hcode : code ∈ assignedCodes := by
    by_contra hno
    rw [commandEffect_unassigned hno] at he
    cases he
  simp only [assignedCodes, List.mem_cons, List.not_mem_nil, or_false] at hcode
  rcases hcode with rfl | rfl | rfl | rfl | rfl | rfl | rfl | rfl | rfl | rfl | rfl | rfl | rfl | rfl | rfl | rfl | rfl | rfl | rfl | rfl | rfl | rfl | rfl | rfl | rfl | rfl | rfl
  · obtain _ | ⟨_, _ | ⟨_, _ | ⟨_, _ | ⟨_, _ | ⟨_, _ | ⟨_, _ | ⟨_, _ |
      ⟨_, _ | ⟨_, _ | ⟨_, _ | ⟨_, _ | ⟨_, _ | ⟨_, _ | ⟨_, _ | ⟨_, _⟩⟩⟩⟩⟩⟩⟩⟩⟩⟩⟩⟩⟩⟩⟩ := fields <;> cases he
    exact h.configure _ _ (fun q hq => (profileInRange_of_readProfile hq).1) s hs
  · obtain _ | ⟨_, _ | ⟨_, _⟩⟩ := fields <;> cases he
    exact h.activate _ s hs
  · obtain _ | ⟨_, _ | ⟨_, _⟩⟩ := fields <;> cases he
    exact h.isolateCommand _ s hs
  · obtain _ | ⟨_, _ | ⟨_, _⟩⟩ := fields <;> cases he
    exact h.resume _ s hs
  · obtain _ | ⟨_, _ | ⟨_, _⟩⟩ := fields <;> cases he
    exact h.deactivate _ s hs
  · obtain _ | ⟨_, _ | ⟨_, _⟩⟩ := fields <;> cases he
    exact h.unconfigure _ s hs
  · obtain _ | ⟨_, _ | ⟨_, _ | ⟨_, _⟩⟩⟩ := fields <;> cases he
    exact h.linkStatus _ _ s hs
  · obtain _ | ⟨_, _⟩ := fields <;> cases he
    exact h.rootLoad _ _ s hs
  · obtain _ | ⟨_, _ | ⟨_, _⟩⟩ := fields <;> cases he
    exact h.rootErase _ s hs
  · obtain _ | ⟨_, _⟩ := fields <;> cases he
    exact hs
  · obtain _ | ⟨_, _ | ⟨_, _⟩⟩ := fields <;> cases he
    exact h.renewCommand _ s hs
  · obtain _ | ⟨_, _ | ⟨_, _⟩⟩ := fields <;> cases he
    exact h.hold _ s hs
  · obtain _ | ⟨_, _ | ⟨_, _ | ⟨_, _⟩⟩⟩ := fields <;> cases he
    exact h.release _ _ s hs
  · obtain _ | ⟨_, _ | ⟨_, _⟩⟩ := fields <;> cases he
    exact h.unhold _ s hs
  · obtain _ | ⟨_, _ | ⟨_, _ | ⟨_, _ | ⟨_, _⟩⟩⟩⟩ := fields <;> cases he
    exact h.discard _ _ s hs
  · obtain _ | ⟨_, _ | ⟨_, _⟩⟩ := fields <;> cases he
    exact h.portMode _ s hs
  · obtain _ | ⟨_, _ | ⟨_, _ | ⟨_, _ | ⟨_, _⟩⟩⟩⟩ := fields <;> cases he
    exact h.mapSet _ _ _ s hs
  · obtain _ | ⟨_, _ | ⟨_, _⟩⟩ := fields <;> cases he
    exact (mapRead_state _ s).symm ▸ hs
  · obtain _ | ⟨_, _⟩ := fields <;> cases he
    exact h.mapCommit s hs
  · obtain _ | ⟨_, _ | ⟨_, _⟩⟩ := fields <;> cases he
    exact h.trunkStatus _ s hs
  · obtain _ | ⟨_, _ | ⟨_, _ | ⟨_, _ | ⟨_, _ | ⟨_, _⟩⟩⟩⟩⟩ := fields <;> cases he
    exact h.faultPolicy _ _ _ _ s hs
  · obtain _ | ⟨_, _ | ⟨_, _⟩⟩ := fields <;> cases he
    exact (faultList_state _ s).symm ▸ hs
  · obtain _ | ⟨_, _ | ⟨_, _ | ⟨_, _⟩⟩⟩ := fields <;> cases he
    exact (faultRead_state _ _ s).symm ▸ hs
  · obtain _ | ⟨_, _⟩ := fields <;> cases he
    exact h.faultPurge s hs
  · obtain _ | ⟨_, _ | ⟨_, _ | ⟨_, _ | ⟨_, _ | ⟨_, _⟩⟩⟩⟩⟩ := fields <;> cases he
    exact h.host s { s.host with clock := _ } (List.Sublist.refl _) hs
  · obtain _ | ⟨_, _⟩ := fields <;> cases he
    exact hs
  · obtain _ | ⟨_, _⟩ := fields <;> cases he
    exact h.host s { s.host with resetPending := true } (List.Sublist.refl _) hs

theorem runCommand (body : List Byte) (s : State) (hs : P s) : P (runCommand body s).1 := by
  unfold Machine.runCommand
  split
  · exact hs
  · split
    · next he => exact h.commandEffect he s hs
    · split <;> exact hs

theorem answered (tag : Byte) (r : State × Answer) (hs : P r.1) : P (answer tag r) :=
  h.modHost _ _ (List.Sublist.refl _) hs

theorem answerRecord (x : InRecord) (s : State) (hs : P s) : P (answerRecord x s) := by
  unfold Machine.answerRecord
  split
  · exact h.answered _ _ (h.runCommand _ s hs)
  · refine h.answered _ _ ?_
    unfold runTraffic
    split
    · exact hs
    · exact h.trafficOut _ _ _ s hs
  · exact h.answered _ _ hs

theorem takeRecord (s : State) (hs : P s) : P (takeRecord s) := by
  unfold Machine.takeRecord
  split
  · exact hs
  · exact h.answerRecord _ _ (h.modHost s _ (List.Sublist.refl _) hs)

theorem receive (x : InRecord) (s : State) (hs : P s) : P (receive x s) := by
  unfold Machine.receive arrive
  split
  · exact h.answerRecord x s hs
  · split
    · exact h.modHost s _ (List.Sublist.refl _) hs
    · exact h.modFaults_counts _ _ rfl rfl (h.modHost s _ (List.Sublist.refl _) hs)

theorem startSending (s : State) (hsend : canSend s = true) (hs : P s) : P (startSending s) := by
  have hnotice : ∀ n rest, P (sendNotice n rest s) := fun n rest => by
    have hclear : P (clearPending n s) := by
      unfold clearPending
      split
      · exact hs
      · refine h.entries s _ (fun e he => ?_) hs
        obtain ⟨x, hx, rfl⟩ := List.mem_map.1 he
        exact .inl ⟨x, hx, by split <;> rfl⟩
      · exact h.report s _ (s.link _).stats false hs
    exact h.setLine _ _ rfl (h.host (clearPending n s)
      { (clearPending n s).host with notices := rest, servedLast := .notices } (List.Sublist.refl _) hclear)
  have htraffic : ∀ d rest, s.store.delivery = d :: rest → P (sendTraffic d rest s) :=
    fun d rest hd => h.traffic s d rest hsend hd hs
  unfold Machine.startSending
  split
  · next r rest _ =>
    exact h.setLine _ _ rfl (h.host s { s.host with replies := rest, recordsLost := false } (List.Sublist.refl _) hs)
  · exact hnotice _ _
  · next hd => exact htraffic _ _ hd
  · next hd =>
    split
    · exact hnotice _ _
    · exact htraffic _ _ hd
  · exact hs

/-! ### The sampling -/

theorem declarationAct (source : FaultSource) (kind : FaultKind) (s : State) (hs : P s) :
    P (declarationAct source kind s) := by
  unfold Machine.declarationAct tagFaultAction
  split
  · split
    · split
      · exact hs
      · exact h.triggered s _ hs
      · exact h.autoIsolated s _ hs
    · exact hs
  · exact hs

/-- R150: an entry that takes a sample; its persistence count comes from the table or from 0. -/
theorem stepEntry (now : W32) (c : Condition) (e : FaultEntry)
    (s : State) (he : e.persistence = 0 ∨ ∃ x ∈ s.faults.entries, e.persistence = x.persistence)
    (hs : P s) : P (stepEntry now c e s) := by
  have hreplace : ∀ pending,
      P (replaceEntry { sampledEntry (policyOf s c.kind) now c e with reportPending := pending } s) := fun pending => by
    refine h.entries s _ (fun x hx => ?_) hs
    obtain ⟨y, hy, rfl⟩ := List.mem_map.1 hx
    split
    · exact .inr (.inr ⟨c.kind, e.state, e.persistence, c.present, he, rfl⟩)
    · exact .inl ⟨y, hy, rfl⟩
  unfold Machine.stepEntry
  dsimp only
  have hjoin : ∀ (b : Bool) (t : State), P t → P (if b = true then t.listNotice (.fault c.source c.kind) else t) :=
    fun b t ht => by
      split
      · exact h.listNotice t _ ht
      · exact ht
  split
  · exact h.declarationAct _ _ _ (hjoin _ _ (hreplace _))
  · exact hjoin _ _ (hreplace _)

theorem sampleCondition (now : W32) (s : State) (c : Condition) (hs : P s) : P (sampleCondition now s c) := by
  unfold Machine.sampleCondition
  split
  · next e he => exact h.stepEntry now c e s (.inr ⟨e, List.mem_of_find?_eq_some he, rfl⟩) hs
  · split
    · unfold createEntry
      split
      · next es hroom =>
        have hsub : ∀ x ∈ es, x ∈ s.faults.entries := withRoom_subset hroom
        refine h.stepEntry now c _ _ (.inl rfl) (h.entries s (es ++ [newEntry now c]) (fun x hx => ?_) hs)
        rcases List.mem_append.1 hx with hx | hx
        · exact .inl ⟨x, hsub x hx, rfl⟩
        · rw [List.mem_singleton.1 hx]
          exact .inr (.inl rfl)
      · exact h.modFaults_counts s _ rfl rfl hs
    · exact hs

theorem sampling (s : State) (hs : P s) : P (sampling s) := by
  have hfold : P ((conditions s).foldl (Machine.sampleCondition s.host.clock) s) :=
    List.foldlRecOn _ _ hs fun t ht c _ => h.sampleCondition _ t c ht
  have hzero : ∀ u, P u → P (u.modFaults zeroCounts) := fun u hu =>
    h.counts u (zeroCounts u.faults) (by rw [zeroCounts]) (by rw [zeroCounts]) hu
  unfold Machine.sampling
  exact hzero _ (h.sampleCondition _ _ _ hfold)

/-! ### Receive and transmit cycles -/

theorem headerCollected (l : LinkId) (bs : List Byte) (s : State) {xs : List Byte}
    (hr : s.receiver l = .header xs) (hs : P s) : P (headerCollected l bs s) := by
  have hskip : ∀ (c : Counter) (f : LinkEvents → LinkEvents) (r : Receiver), receivedFrame r = [] →
      P (((s.count l c).modEvents l f).setReceiver l r) := fun c f r he =>
    h.receiver _ l r (by rw [he, State.receiver_modEvents, State.receiver_count, hr]; rfl)
      (h.modEvents _ l f (h.count s l c hs))
  unfold Machine.headerCollected
  split
  · next x _ =>
    unfold acceptHeader
    split
    · next hroom => exact h.inbound s l x _ _ xs hr hroom hs
    · exact hskip _ _ _ rfl
  · exact hskip _ _ _ (receivedFrame_replayHeader bs)

theorem bodyByte (l : LinkId) (d : DescNo) (n : Nat) (b : Byte) (s : State) (hr : s.receiver l = .body d n)
    (hs : P s) : P (bodyByte l d n b s) := by
  have hw : P (s.writeUnits (frameUnits s d) n [b]) := h.units s _ _ _ hs
  unfold Machine.bodyByte
  dsimp only
  split
  · exact h.settleBlocks _ (h.received _ l d n hr hw)
  · exact h.receiver _ l _ (by rw [State.receiver_writeUnits, hr]; rfl) hw

theorem receiverByte (l : LinkId) (b : Byte) (s : State) (hs : P s) : P (receiverByte l b s) := by
  unfold Machine.receiverByte
  split
  · next hr => exact h.receiver s l _ (by rw [hr]; unfold huntByte; dsimp only; split <;> rfl) hs
  · next hr =>
    split
    · exact h.receiver s l _ (by rw [hr]; rfl) hs
    · exact h.headerCollected l _ s hr hs
  · next hr => exact h.bodyByte l _ _ b s hr hs
  · next hr => exact h.receiver s l _ (by rw [hr]; split <;> rfl) hs

theorem feedCycle (bytes : Vector Byte 96) (s : State) (hs : P s) : P (feedCycle bytes s) := by
  refine List.foldlRecOn _ _ hs fun t ht i _ => ?_
  unfold feedSlot
  split
  · split
    · exact h.receiverByte _ _ t ht
    · exact ht
  · exact ht

theorem linkSlotByte (l : LinkId) (s : State) (hs : P s) : P (linkSlotByte l s).2 := by
  unfold Machine.linkSlotByte
  split
  · split
    · exact hs
    · next d n ht =>
      unfold sendFrameByte
      split
      · dsimp only
        split
        · exact h.transmitted s l d n ht hs
        · exact h.transmitter s l _ (by rw [ht]; exact List.Sublist.refl _) hs
      · exact h.transmitter s l _ (List.nil_sublist _) hs
    · refine h.transmitter s l _ ?_ hs
      split <;> exact List.nil_sublist _
  · exact hs

theorem transmitCycle (s : State) (hs : P s) : P (transmitCycle s) := by
  have hfold : P ((allFin 96).foldl transmitSlot ([], s)).2 := by
    refine List.foldlRecOn (motive := fun r : List Byte × State => P r.2) _ _ hs fun r hr i _ => ?_
    unfold transmitSlot
    split
    · exact hr
    · exact h.linkSlotByte _ _ hr
  unfold Machine.transmitCycle
  generalize (allFin 96).foldl transmitSlot ([], s) = r at hfold ⊢
  exact h.trunk r.2 _ rfl rfl rfl rfl hfold

theorem freeUnit (s : State) (hs : P s) : P (freeUnit s) := by
  have hidle := h.engine s { s.engine with unit := none } hs
  unfold Machine.freeUnit grant
  split
  · exact hidle
  · split
    · exact h.engine _ _ hidle
    · exact hidle

end EffectsKeep

end Sys2Proof.Machine
end

section
/-! The induction over commands and events, for a law that the operations keep and a second law that holds
whenever the blocks have come to rest. -/

namespace Sys2Proof.Machine

/-- `P` is kept by the operations; `Q` holds of the blocks at rest, and is of the blocks alone. -/
structure RestKeeps (P Q : State → Prop) : Prop extends EffectsKeep P where
  rest : ∀ s, P s → Q (settleBlocks s)
  sending : ∀ s, P s → Q s → Q (startSending s)
  port : ∀ s h, Q s → Q { s with host := h }
  commands : ∀ s q, Q s → Q { s with pending := q }
  afterReset : ∀ cause input s, Q (resetPart cause input s)

/-- A tick's order of its items is one of them. -/
theorem drawItem_lt {items : List TickItem} (h : items ≠ []) (s : State) : drawItem items s < items.length := by
  have hpos := List.length_pos_iff.2 h
  unfold drawItem
  split
  · exact hpos
  · exact Nat.mod_lt _ hpos

namespace RestKeeps

variable {P Q : State → Prop} (h : RestKeeps P Q)
include h

theorem settledBlocks (s : State) (hs : P s) : P (settleBlocks s) ∧ Q (settleBlocks s) :=
  ⟨h.settleBlocks s hs, h.rest s hs⟩

theorem settledHostFor : ∀ (n : Nat) (s : State), P s ∧ Q s → P (settleHostFor n s) ∧ Q (settleHostFor n s) := by
  intro n
  induction n with
  | zero => exact fun s hs => hs
  | succ n ih =>
    intro s ⟨hp, hq⟩
    simp only [settleHostFor]
    split
    · exact ih _ (h.settledBlocks _ (h.takeRecord s hp))
    · split
      · next hsend => exact ih _ ⟨h.startSending s hsend hp, h.sending s hp hq⟩
      · exact ⟨hp, hq⟩

theorem settled (s : State) (hs : P s) : P (settle s) ∧ Q (settle s) :=
  h.settledHostFor _ _ (h.settledBlocks s hs)

theorem attentionShown (s : State) (hs : P s ∧ Q s) : P (showAttention s) ∧ Q (showAttention s) :=
  ⟨h.host s { s.host with attention := attentionOutput s } (List.Sublist.refl _) hs.1, h.port s _ hs.2⟩

theorem finished (s : State) (hs : P s) : P (finish s) ∧ Q (finish s) :=
  have ⟨hp, hq⟩ := h.settled s hs
  h.attentionShown _ ⟨hp, hq⟩

/-! ### Arrivals -/

theorem startWaiting (s : State) (hs : P s ∧ Q s) : P (startWaiting s) ∧ Q (startWaiting s) := by
  unfold Machine.startWaiting
  split
  · exact h.finished s hs.1
  · exact hs

theorem byteArrives (s : State) (b : Byte) (hs : P s ∧ Q s) : P (byteArrives s b) ∧ Q (byteArrives s b) := by
  have hset : ∀ (r : RecordReceiver) (t : State), P t → P (t.setRecordReceiver r) := fun r t ht =>
    h.modHost t _ (List.Sublist.refl _) ht
  obtain ⟨hp, hq⟩ := h.startWaiting s hs
  unfold Machine.byteArrives takeByte
  split
  · exact ⟨hset _ _ hp, h.port _ _ hq⟩
  · exact h.finished _ (h.receive _ _ (hset _ _ hp))

theorem bytesArrive (bs : List Byte) (s : State) (hs : P s ∧ Q s) :
    P (bytesArrive bs s) ∧ Q (bytesArrive bs s) := by
  unfold Machine.bytesArrive
  split
  · exact hs
  · exact List.foldlRecOn (motive := fun t => P t ∧ Q t) _ _ hs fun t ht b _ => h.byteArrives t b ht

theorem commandArrives {kind : RecordKind} {tag : Byte} {body : List Byte} {effect : State → State × Answer}
    (he : ∀ s, answer tag (effect s) = answerRecord (.record kind tag body) s) (s : State) (hs : P s ∧ Q s) :
    P (commandArrives kind tag body effect s) ∧ Q (commandArrives kind tag body effect s) := by
  rw [commandArrives_eq_receive he]
  split
  · exact hs
  · split
    · exact h.finished _ (h.receive _ _ (h.startWaiting s hs).1)
    · exact h.bytesArrive _ s hs

theorem endSending (s : State) (hs : P s ∧ Q s) : P (endSending s) ∧ Q (endSending s) := by
  unfold Machine.endSending
  split
  · exact hs
  · next r hr =>
    split
    · exact ⟨h.reset _ _ s hs.1, h.afterReset _ _ s⟩
    · split
      · next d hd => exact h.finished _ (h.sent s r d hr hd hs.1)
      · exact h.finished _ (h.setLine s none rfl hs.1)

/-! ### Ticks, operations and cycles -/

theorem takeItem (i : TickItem) (s : State) (hs : P s) : P (takeItem i s) := by
  cases i with
  | sampling => exact h.sampling s hs
  | expiry t l =>
    simp only [Machine.takeItem]
    split
    · exact h.expiry t l s hs
    · exact hs

/-- The part has come to rest once one item of a tick has been taken. -/
theorem runAgenda : ∀ (n : Nat) (items : List TickItem) (s : State), P s → Q s ∨ n ≠ 0 ∧ items ≠ [] →
    P (runAgenda n items s) ∧ Q (runAgenda n items s) := by
  intro n
  induction n with
  | zero => exact fun items s hp hq => ⟨hp, hq.resolve_right fun ⟨hn, _⟩ => hn rfl⟩
  | succ n ih =>
    intro items s hp hq
    simp only [Machine.runAgenda]
    split
    · have hspent : P (spendDraw items s) := by
        unfold spendDraw
        split
        · exact hp
        · exact h.draw _ _ hp
      obtain ⟨hp', hq'⟩ := h.settled _ (h.takeItem _ _ hspent)
      exact ih _ _ hp' (.inl hq')
    · next hnone =>
      refine ⟨hp, hq.resolve_right fun ⟨_, hitems⟩ => ?_⟩
      exact absurd (drawItem_lt hitems s) (Nat.not_lt.2 (List.getElem?_eq_none_iff.1 hnone))

theorem tickPart (s : State) (hs : P s ∧ Q s) : P (tickPart s) ∧ Q (tickPart s) := by
  have hclock : P (advanceClock s) := h.modHost s _ (List.Sublist.refl _) hs.1
  unfold Machine.tickPart
  split
  · exact ⟨hclock, h.port _ _ hs.2⟩
  · obtain ⟨hp, hq⟩ := h.runAgenda (TickItem.sampling :: dueExpiries (countTimers (advanceClock s))).length
      _ _ (h.timers _ hclock) (.inr ⟨Nat.succ_ne_zero _, List.cons_ne_nil _ _⟩)
    exact h.attentionShown _ ⟨hp, hq⟩

theorem expiryEvent (t : TimerName) (l : LinkId) (s : State) (hs : P s ∧ Q s) :
    P (expiryEvent t l s) ∧ Q (expiryEvent t l s) := by
  unfold Machine.expiryEvent
  split
  · exact h.finished _ (h.expiry t l s hs.1)
  · exact hs

theorem operationEnds (r : Requester) (s : State) (hs : P s) : P (operationEnds r s) ∧ Q (operationEnds r s) :=
  h.finished _ (h.freeUnit _ (h.settleBlocks _ (h.operation r s hs)))

theorem receiveCycle (port : Port) (good : Bool) (bytes : Vector Byte 96) (s : State) (hs : P s ∧ Q s) :
    P (receiveCycle port good bytes s) ∧ Q (receiveCycle port good bytes s) := by
  unfold Machine.receiveCycle
  split
  · exact hs
  · have hmarked := h.monitorEvent port (fun m => m.mark good) (fun m => .inr ⟨good, rfl⟩) s hs.1
    refine h.finished _ ?_
    split
    · exact h.feedCycle bytes _ hmarked
    · exact hmarked

/-! ### Every command and event -/

theorem exec (c : Instr) (s : State) (hs : P s ∧ Q s) : ∃ t, exec c s = .next t ∧ P t ∧ Q t := by
  have hwhen : ∀ (b : Bool) (t : State), (b = true → P t ∧ Q t) →
      P (if b then t else s) ∧ Q (if b then t else s) := by
    intro b t ht
    split
    · next hb => exact ht hb
    · exact hs
  cases c with
  | linkConfigure =>
    exact ⟨_, rfl, h.commandArrives (fun s => by simp only [Machine.answerRecord, runCommand_linkConfigure]) s hs⟩
  | linkActivate => exact ⟨_, rfl, h.commandArrives (fun _ => rfl) s hs⟩
  | linkIsolate => exact ⟨_, rfl, h.commandArrives (fun _ => rfl) s hs⟩
  | linkResume => exact ⟨_, rfl, h.commandArrives (fun _ => rfl) s hs⟩
  | linkDeactivate => exact ⟨_, rfl, h.commandArrives (fun _ => rfl) s hs⟩
  | linkUnconfigure => exact ⟨_, rfl, h.commandArrives (fun _ => rfl) s hs⟩
  | linkStatus => exact ⟨_, rfl, h.commandArrives (fun _ => rfl) s hs⟩
  | rootLoad => exact ⟨_, rfl, h.commandArrives (fun _ => rfl) s hs⟩
  | rootErase => exact ⟨_, rfl, h.commandArrives (fun _ => rfl) s hs⟩
  | storeStatus => exact ⟨_, rfl, h.commandArrives (fun _ => rfl) s hs⟩
  | renew => exact ⟨_, rfl, h.commandArrives (fun _ => rfl) s hs⟩
  | trafficOut => exact ⟨_, rfl, h.commandArrives (fun _ => rfl) s hs⟩
  | queueHold => exact ⟨_, rfl, h.commandArrives (fun _ => rfl) s hs⟩
  | queueRelease => exact ⟨_, rfl, h.commandArrives (fun _ => rfl) s hs⟩
  | queueUnhold => exact ⟨_, rfl, h.commandArrives (fun _ => rfl) s hs⟩
  | queueDiscard =>
    exact ⟨_, rfl, h.commandArrives (fun s => by simp only [Machine.answerRecord, runCommand_queueDiscard]) s hs⟩
  | portMode => exact ⟨_, rfl, h.commandArrives (fun _ => rfl) s hs⟩
  | mapSet => exact ⟨_, rfl, h.commandArrives (fun _ => rfl) s hs⟩
  | mapRead => exact ⟨_, rfl, h.commandArrives (fun _ => rfl) s hs⟩
  | mapCommit => exact ⟨_, rfl, h.commandArrives (fun _ => rfl) s hs⟩
  | trunkStatus => exact ⟨_, rfl, h.commandArrives (fun _ => rfl) s hs⟩
  | faultPolicy => exact ⟨_, rfl, h.commandArrives (fun _ => rfl) s hs⟩
  | faultList => exact ⟨_, rfl, h.commandArrives (fun _ => rfl) s hs⟩
  | faultRead => exact ⟨_, rfl, h.commandArrives (fun _ => rfl) s hs⟩
  | faultPurge => exact ⟨_, rfl, h.commandArrives (fun _ => rfl) s hs⟩
  | setClock =>
    exact ⟨_, rfl, h.commandArrives (fun s => by simp only [Machine.answerRecord, runCommand_setClock]) s hs⟩
  | identify => exact ⟨_, rfl, h.commandArrives (fun _ => rfl) s hs⟩
  | reset => exact ⟨_, rfl, h.commandArrives (fun _ => rfl) s hs⟩
  | recordArrival => exact ⟨_, rfl, h.bytesArrive _ s hs⟩
  | malformedRecord => exact ⟨_, rfl, h.bytesArrive _ s hs⟩
  | takeRecord => exact ⟨_, rfl, hwhen _ _ fun _ => h.finished _ (h.takeRecord s hs.1)⟩
  | sendStart => exact ⟨_, rfl, hwhen _ _ fun hsend => h.finished _ (h.startSending s hsend hs.1)⟩
  | sendEnd => exact ⟨_, rfl, h.endSending s hs⟩
  | powerOn => exact ⟨_, rfl, h.reset _ _ s hs.1, h.afterReset _ _ s⟩
  | resetLineAssert =>
    refine ⟨_, rfl, ?_⟩
    split
    · exact hs
    · exact ⟨h.reset _ _ s hs.1, h.afterReset _ _ s⟩
  | resetLineRelease =>
    exact ⟨_, rfl, hwhen _ _ fun _ => h.finished _ (h.modHost s _ (List.Sublist.refl _) hs.1)⟩
  | tick => exact ⟨_, rfl, h.tickPart s hs⟩
  | intervalTimerExpiry l => exact ⟨_, rfl, h.expiryEvent .interval l s hs⟩
  | offerTimerExpiry l => exact ⟨_, rfl, h.expiryEvent .offer l s hs⟩
  | graceTimerExpiry l => exact ⟨_, rfl, h.expiryEvent .grace l s hs⟩
  | backoffTimerExpiry l => exact ⟨_, rfl, h.expiryEvent .backoff l s hs⟩
  | sealingStart =>
    refine ⟨_, rfl, hwhen _ _ fun hready => h.finished _ ?_⟩
    exact h.sealing _ hready (refreshRequests_eligible s) (h.refresh s hs.1)
  | blockOperationEnd =>
    refine ⟨_, rfl, ?_⟩
    split
    · exact h.operationEnds _ s hs.1
    · exact hs
  | sealingCompletion =>
    refine ⟨_, rfl, ?_⟩
    split
    · exact h.operationEnds _ s hs.1
    · exact hs
  | openingStart => exact ⟨_, rfl, hwhen _ _ fun hready => h.finished _ (h.opening s hready hs.1)⟩
  | openingCompletion =>
    refine ⟨_, rfl, ?_⟩
    split
    · exact h.operationEnds _ s hs.1
    · exact hs
  | derivationBegin => exact ⟨_, rfl, hwhen _ _ fun hready => h.finished _ (h.derivation s hready hs.1)⟩
  | derivationCompletion =>
    refine ⟨_, rfl, ?_⟩
    split
    · exact h.operationEnds _ s hs.1
    · exact hs
  | receiveCycle port good bytes => exact ⟨_, rfl, h.receiveCycle port good bytes s hs⟩
  | signalAbsence port =>
    exact ⟨_, rfl, h.finished _ (h.monitorEvent port _ (fun _ => .inl rfl) s hs.1)⟩
  | transmitCycleRequest => exact ⟨_, rfl, h.finished _ (h.transmitCycle s hs.1)⟩

theorem step {s t : State} (hs : P s ∧ Q s) (ht : step s = .next t) : P t ∧ Q t := by
  unfold Machine.step at ht
  split at ht
  · cases ht
    exact hs
  · next c rest _ =>
    obtain ⟨t', he, hkept⟩ := h.exec c { s with pending := rest } ⟨h.queue s rest hs.1, h.commands s rest hs.2⟩
    rw [he] at ht
    cases ht
    exact hkept

end RestKeeps

/-- A law that the operations keep, every step keeps. -/
theorem EffectsKeep.step {P : State → Prop} (h : EffectsKeep P) {s t : State} (hs : P s)
    (ht : step s = .next t) : P t :=
  have hrest : RestKeeps P fun _ => True :=
    { h with
      rest := fun _ _ => trivial
      sending := fun _ _ _ => trivial
      port := fun _ _ _ => trivial
      commands := fun _ _ _ => trivial
      afterReset := fun _ _ _ => trivial }
  (hrest.step ⟨hs, trivial⟩ ht).1

end Sys2Proof.Machine
end

section
/-! The numbers that the part keeps stay in range: one rule per shared operation, then the operations one by
one. -/

namespace Sys2Proof.Machine

/-- The numbers of a link context in range: its profile, its release allowance and its attempts. -/
def LinkInRange (x : Link) : Prop :=
  (∀ p, x.profile = some p → ProfileInRange p) ∧ x.allowance ≤ 255 ∧ x.renewal.attempts ≤ 7

/-- What the range law looks at. -/
def rangeView (s : State) :=
  (s.links, s.keys.slots, s.trunk.monitorA, s.trunk.monitorB, s.faults.policies, s.faults.entries)

theorem State.link_countTimers (s : State) (l : LinkId) :
    (countTimers s).link l = { s.link l with renewal := (s.link l).renewal.advance } := by
  simp [countTimers, State.link, tget]

theorem hardLimitOf_le {p : Profile} (h : ProfileInRange p) : hardLimitOf p.budgetClass ≤ 2 ^ 28 := by
  obtain ⟨_, hclass, _⟩ := h
  exact Nat.pow_le_pow_right (by omega) (by omega)

theorem FaultKind.index_inj {k kind : FaultKind} (h : k.index = kind.index) : k = kind := by
  have hall : ∀ k : FaultKind, allKinds[k.index.val]? = some k := fun k => by cases k <;> rfl
  exact Option.some.inj ((hall k).symm.trans ((congrArg (fun i : Fin 14 => allKinds[i.val]?) h).trans (hall kind)))

/-- R121: a mark or an absence leaves a monitor's counts in range. -/
theorem Monitor.mark_ok {m : Monitor} (h : MonitorOk m) (good : Bool) : MonitorOk (m.mark good) := by
  obtain ⟨hgood, hbad, hseeking, haligned⟩ := h
  unfold Monitor.mark
  split
  · simp [MonitorOk]
  · exact ⟨hgood, hbad, hseeking, haligned⟩
  · next hstate =>
    have hbad' : m.bad = 0 := haligned (by simp [hstate])
    split
    · simp [MonitorOk]
    · exact ⟨by dsimp only; omega, hbad, fun h => absurd hstate h, fun _ => hbad'⟩
  · simp [MonitorOk]
  · exact ⟨hgood, by simp, hseeking, fun _ => rfl⟩
  · next hstate =>
    have hgood' : m.good = 0 := hseeking (by simp [hstate])
    split
    · simp [MonitorOk]
    · exact ⟨hgood, by dsimp only; omega, fun _ => hgood', fun h => absurd hstate h⟩

/-- R150: a persistence count stays below the clear and declare counts that it is compared with. -/
theorem nextEntryState_persistence {kind : FaultKind} {p : Policy} (hp : PolicyInRange kind p) (st : EntryState)
    {n : Nat} (hn : n ≤ 59) (present : Bool) : (nextEntryState p st n present).2 ≤ 59 := by
  obtain ⟨⟨_, hdeclare⟩, hclear⟩ := hp
  have hclear' : p.clear ≤ 60 := by
    rcases hclear with ⟨_, h⟩ | h
    · omega
    · rw [h]
      cases kind <;> decide
  unfold nextEntryState
  split
  · split <;> simp
  · exact hn
  · split
    · simp
    · dsimp only; omega
  · simp
  · exact hn
  · split <;> simp
  · split
    · simp
    · dsimp only; omega
  · simp

/-! ### The end of an operation, said once -/

/-- A block operation of a sealing writes bytes of units or of the control buffer, and nothing else. -/
theorem sealingOperation_eq (r : Sealing) (i : Nat) (s : State) : ∃ mem control,
    (sealingOperation r i s).1 =
      { s with store := { s.store with mem := mem }, sealer := { s.sealer with control := control } } := by
  unfold sealingOperation
  dsimp only
  split
  · exact ⟨_, _, rfl⟩
  · split
    · unfold writeSealing
      split
      · exact ⟨_, s.sealer.control, rfl⟩
      · exact ⟨s.store.mem, _, rfl⟩
    · exact ⟨_, _, rfl⟩

/-- A block operation of an opening writes bytes of units, and nothing else. -/
theorem openingOperation_eq (r : Opening) (i : Nat) (s : State) : ∃ mem,
    (openingOperation r i s).1 = { s with store := { s.store with mem := mem } } := by
  unfold openingOperation
  dsimp only
  split
  · exact ⟨_, rfl⟩
  · split <;> exact ⟨_, rfl⟩

/-- A property kept where an operation ends: by the bytes that it writes, by its count, and by the completion of
its sequence. -/
structure EngineKeep (P : State → Prop) : Prop where
  written : ∀ s mem control, P s →
    P { s with store := { s.store with mem := mem }, sealer := { s.sealer with control := control } }
  sealing : ∀ s r left chain, s.sealer.current = some r → P s →
    P (s.setSealing (some { r with left := left, tagChain := chain }))
  sealed : ∀ s r left chain, s.sealer.current = some r → P s →
    P (completeSealing { r with left := left, tagChain := chain } s)
  opening : ∀ s r left chain, s.opener.current = some r → P s →
    P (s.setOpening (some { r with left := left, tagChain := chain }))
  opened : ∀ s r left chain, s.opener.current = some r → P s →
    P (completeOpening { r with left := left, tagChain := chain } s)
  derivation : ∀ s d left results, s.keys.derivation = some d → P s →
    P (s.setDerivation (some { d with left := left, results := results }))
  derived : ∀ s d left results, s.keys.derivation = some d → P s →
    P (completeDerivation { d with left := left, results := results } s)

theorem EngineKeep.endOperation {P : State → Prop} (h : EngineKeep P) (q : Requester) (s : State) (hs : P s) :
    P (endOperation q s) := by
  cases q with
  | sealer =>
    change P (endSealerOperation s)
    unfold endSealerOperation
    split
    · next r hr =>
      obtain ⟨mem, control, e⟩ := sealingOperation_eq r (cost r.length - r.left) s
      have hw : P (sealingOperation r (cost r.length - r.left) s).1 := e ▸ h.written s mem control hs
      have hr' : (sealingOperation r (cost r.length - r.left) s).1.sealer.current = some r := by rw [e]; exact hr
      dsimp only
      split
      · exact h.sealed _ r _ _ hr' hw
      · exact h.sealing _ r _ _ hr' hw
    · exact hs
  | opener =>
    change P (endOpenerOperation s)
    unfold endOpenerOperation
    split
    · next r hr =>
      obtain ⟨mem, e⟩ := openingOperation_eq r (cost r.length - r.left) s
      have hw : P (openingOperation r (cost r.length - r.left) s).1 := e ▸ h.written s mem s.sealer.control hs
      have hr' : (openingOperation r (cost r.length - r.left) s).1.opener.current = some r := by rw [e]; exact hr
      dsimp only
      split
      · exact h.opened _ r _ _ hr' hw
      · exact h.opening _ r _ _ hr' hw
    · exact hs
  | deriver =>
    change P (endDeriverOperation s)
    unfold endDeriverOperation
    split
    · next d hd =>
      dsimp only
      split
      · exact h.derived s d _ _ hd hs
      · exact h.derivation s d _ _ hd hs
    · exact hs

namespace RangeLaw

variable {s : State} (h : RangeLaw s)
include h

theorem of_view {t : State} (ht : rangeView t = rangeView s) : RangeLaw t := by
  obtain ⟨hprofile, hlink, hslot, hmonitor, hpolicy, hentry⟩ := h
  simp only [rangeView, Prod.mk.injEq] at ht
  obtain ⟨elinks, eslots, ea, eb, epolicies, eentries⟩ := ht
  have elink : ∀ l, t.link l = s.link l := fun l => by rw [State.link, State.link, elinks]
  refine ⟨fun l p hp => hprofile l p (elink l ▸ hp), fun l => elink l ▸ hlink l, fun k => ?_, fun port => ?_,
    fun kind => ?_, eentries ▸ hentry⟩
  · rw [State.slot, eslots]
    exact hslot k
  · have e : t.monitor port = s.monitor port := by cases port <;> assumption
    exact e ▸ hmonitor port
  · rw [policyOf, epolicies]
    exact hpolicy kind

theorem linkInRange (l : LinkId) : LinkInRange (s.link l) := by
  obtain ⟨hprofile, hlink, _⟩ := h
  exact ⟨hprofile l, hlink l⟩

theorem used_le (k : SlotNo) : (s.slot k).used ≤ 2 ^ 28 + 1024 := by
  obtain ⟨_, _, hslot, _⟩ := h
  exact hslot k

theorem hardLimit_le (l : LinkId) : hardLimit s l ≤ 2 ^ 28 := by
  unfold hardLimit
  split
  · next p hp => exact hardLimitOf_le ((h.linkInRange l).1 p hp)
  · exact Nat.zero_le _

/-! ### What the law does not look at -/

theorem setWaitList (w : List LinkId) : RangeLaw (s.setWaitList w) := h.of_view rfl
theorem setRequests (r : List DerivationRequest) : RangeLaw (s.setRequests r) := h.of_view rfl
theorem setDerivation (d : Option Derivation) : RangeLaw (s.setDerivation d) := h.of_view rfl
theorem setSealRequests (r : List LinkId) : RangeLaw (s.setSealRequests r) := h.of_view rfl
theorem setSealing (r : Option Sealing) : RangeLaw (s.setSealing r) := h.of_view rfl
theorem setOpening (r : Option Opening) : RangeLaw (s.setOpening r) := h.of_view rfl
theorem setOpenList (w : List DescNo) : RangeLaw (s.setOpenList w) := h.of_view rfl
theorem setReceiver (l : LinkId) (r : Receiver) : RangeLaw (s.setReceiver l r) := h.of_view rfl
theorem setTransmitter (l : LinkId) (t : Transmitter) : RangeLaw (s.setTransmitter l t) := h.of_view rfl
theorem freeFrame (d : DescNo) : RangeLaw (s.freeFrame d) := h.of_view rfl
theorem modDesc (d : DescNo) (f : Descriptor → Descriptor) : RangeLaw (s.modDesc d f) := h.of_view rfl
theorem setDelivery (q : List DescNo) : RangeLaw (s.setDelivery q) := h.of_view rfl
theorem setQueue (l : LinkId) (q : List DescNo) : RangeLaw (s.setQueue l q) := h.of_view rfl
theorem listNotice (n : NoticeItem) : RangeLaw (s.listNotice n) := h.of_view rfl
theorem modEvents (l : LinkId) (f : LinkEvents → LinkEvents) : RangeLaw (s.modEvents l f) := h.of_view rfl

/-! ### Links and slots -/

theorem of_links {t : State} (ht : t = { s with links := t.links }) (hl : ∀ l, LinkInRange (t.link l)) :
    RangeLaw t := by
  obtain ⟨_, _, hslot, hmonitor, hpolicy, hentry⟩ := h
  rw [ht]
  rw [ht] at hl
  exact ⟨fun l => (hl l).1, fun l => (hl l).2, hslot, hmonitor, hpolicy, hentry⟩

theorem modLink {l : LinkId} {f : Link → Link} (hf : LinkInRange (f (s.link l))) : RangeLaw (s.modLink l f) := by
  refine h.of_links rfl fun j => ?_
  rw [State.link_modLink]
  split
  · exact hf
  · exact h.linkInRange j

/-- A change of a link that leaves its profile, allowance and attempts. -/
theorem modLink_same {l : LinkId} {f : Link → Link}
    (hf : ∀ x, (f x).profile = x.profile ∧ (f x).allowance = x.allowance ∧
      (f x).renewal.attempts = x.renewal.attempts := by exact fun _ => ⟨rfl, rfl, rfl⟩) :
    RangeLaw (s.modLink l f) := by
  obtain ⟨hp, ha, ht⟩ := hf (s.link l)
  refine h.modLink ?_
  unfold LinkInRange
  rw [hp, ha, ht]
  exact h.linkInRange l

theorem modRenewal_same {l : LinkId} {f : Renewal → Renewal}
    (hf : ∀ r, (f r).attempts = r.attempts := by exact fun _ => rfl) :
    RangeLaw (s.modRenewal l f) :=
  h.modLink_same (f := fun x => { x with renewal := f x.renewal }) fun _ => ⟨rfl, rfl, hf _⟩

theorem modSlot {k : SlotNo} {f : KeySlot → KeySlot} (hf : (f (s.slot k)).used ≤ 2 ^ 28 + 1024) :
    RangeLaw (s.modSlot k f) := by
  have hslots : ∀ i, ((s.modSlot k f).slot i).used ≤ 2 ^ 28 + 1024 := fun i => by
    rw [State.slot_modSlot]
    split
    · exact hf
    · exact h.used_le i
  obtain ⟨hprofile, hlink, _, hmonitor, hpolicy, hentry⟩ := h
  exact ⟨hprofile, hlink, hslots, hmonitor, hpolicy, hentry⟩

theorem modSlot_same {k : SlotNo} {f : KeySlot → KeySlot}
    (hf : ∀ x, (f x).used = x.used := by exact fun _ => rfl) :
    RangeLaw (s.modSlot k f) :=
  h.modSlot (by rw [hf]; exact h.used_le k)

theorem count (l : LinkId) (c : Counter) : RangeLaw (s.count l c) :=
  h.modLink_same

theorem eventPending (l : LinkId) : RangeLaw (s.setEventPending l) := by
  rcases setEventPending_cases l s with ⟨_, e⟩ | ⟨_, e⟩ <;> rw [e]
  · exact h
  · exact listNotice (modLink_same h) _

/-! ### Starts of renewals, releases and triggers -/

theorem startRenewal (l : LinkId) (k : SlotNo) : RangeLaw (startRenewal l k s) := by
  rcases startRenewal_cases l k s with e | ⟨c, f, _, hf, e⟩ <;> rw [e]
  · exact h
  · have hdrawn : RangeLaw { s with draws := { s.draws with nonces := s.draws.nonces + 1 } } := h.of_view rfl
    have hslot : RangeLaw (allocateSlot k l ((s.slot c).epoch + 1)
        { s with draws := { s.draws with nonces := s.draws.nonces + 1 } }) := by
      rw [allocateSlot_eq]
      exact hdrawn.modSlot (Nat.zero_le _)
    obtain ⟨_, _, _, hprofile, _, hallowance, _, _, _, _, _, hattempts, _⟩ := hf (s.link l)
    refine hslot.modLink ?_
    have hlink : (allocateSlot k l ((s.slot c).epoch + 1)
        { s with draws := { s.draws with nonces := s.draws.nonces + 1 } }).link l = s.link l := rfl
    rw [hlink, LinkInRange, hprofile, hallowance, hattempts]
    obtain ⟨hp, ha, _⟩ := h.linkInRange l
    exact ⟨hp, ha, by omega⟩

theorem handOver : RangeLaw (handOver s) :=
  handOver_keeps (P := RangeLaw) (fun _ l rest _ ht k _ => (ht.setWaitList rest).startRenewal l k) s h

theorem releaseSlots (ks : List SlotNo) : RangeLaw (releaseSlots ks s) := by
  refine List.foldlRecOn _ _ h fun t ht k _ => ?_
  refine modSlot (ht.setRequests _) ?_
  split
  · exact Nat.zero_le _
  · exact ht.used_le k

theorem trigger (l : LinkId) : RangeLaw (trigger l s) := by
  rcases trigger_cases l s with e | ⟨_, k, _, e⟩ | ⟨_, _, e⟩ <;> rw [e]
  · exact h
  · exact h.startRenewal l k
  · exact setWaitList (modRenewal_same h) _

theorem reevaluate (l : LinkId) : RangeLaw (reevaluate l s) := by
  rcases reevaluate_cases l s with e | e <;> rw [e]
  · exact h
  · exact h.trigger l

theorem raiseInFlight (k : SlotNo) : RangeLaw (raiseInFlight k s) := modSlot_same h

theorem lowerInFlight (k : SlotNo) : RangeLaw (lowerInFlight k s) := by
  rcases lowerInFlight_cases k s with ⟨_, _, e⟩ | ⟨_, e⟩ <;> rw [e]
  · exact (h.modSlot (Nat.zero_le _)).handOver
  · exact modSlot_same h

theorem isolate (l : LinkId) : RangeLaw (isolate l s) := by
  unfold Machine.isolate abortRenewal
  refine handOver (releaseSlots (setWaitList ?_ _) _)
  exact modLink_same (modLink_same h)

theorem autoIsolate (l : LinkId) : RangeLaw (autoIsolate l s) := by
  unfold Machine.autoIsolate
  split
  · exact (h.isolate l).eventPending l
  · exact h

theorem failRenewal (l : LinkId) : RangeLaw (failRenewal l s) := by
  have hdetached := h.modLink_same (l := l) (f := fun x => { x with next := none, lane := none })
  have hreleased := (hdetached.releaseSlots (s.link l).next.toList).handOver
  have hfailed := hreleased.modRenewal_same (l := l)
    (f := fun r => { r with offer := .stopped, failureMark := true })
  unfold Machine.failRenewal
  dsimp only
  split
  · exact autoIsolate hfailed l
  · exact modRenewal_same hfailed

theorem retire (l : LinkId) : RangeLaw (retire l s) := by
  unfold Machine.retire
  refine reevaluate (modRenewal_same (handOver (releaseSlots ?_ _))) l
  exact modLink_same h

theorem cutover (l : LinkId) : RangeLaw (cutover l s) := by
  unfold Machine.cutover
  exact eventPending (handOver (releaseSlots (modLink_same h) _)) l

/-! ### Charges -/

theorem chargeSlot {k : SlotNo} {n : Nat} (hn : (s.slot k).used + n ≤ 2 ^ 28 + 1024) (l : LinkId) :
    RangeLaw (chargeSlot k l n s) := by
  unfold Machine.chargeSlot
  dsimp only
  split
  · exact (h.modSlot hn).trigger l
  · exact h.modSlot hn

theorem grant : RangeLaw (grant s) := by
  unfold Machine.grant
  split
  · exact h
  · split
    · exact h.of_view rfl
    · exact h

theorem admitSealing {l : LinkId} {kind : FrameKind} {k : SlotNo} {seq p : Nat} {desc : Option DescNo}
    {payload : List Byte} (hn : (s.slot k).used + cost p ≤ 2 ^ 28 + 1024) :
    RangeLaw (admitSealing l kind k seq p desc payload s) := by
  have hnext : RangeLaw (s.modSlot k fun x => { x with next := seqAfter seq }) := modSlot_same h
  have hcharged :=
    (hnext.chargeSlot (k := k) (n := cost p) (by rw [State.slot_modSlot_self]; exact hn) l).raiseInFlight k
  unfold Machine.admitSealing
  dsimp only
  refine grant (setSealing ?_ _)
  split
  · exact modDesc hcharged _ _
  · exact hcharged.of_view rfl

theorem startTraffic (l : LinkId) : RangeLaw (startTraffic l s) := by
  unfold Machine.startTraffic
  split
  · next k d rest _ _ =>
    split
    · next x _ =>
      split
      · next seq hseq =>
        have hused : (s.slot k).used + cost x.length ≤ hardLimit s l := by
          unfold trafficAdmission at hseq
          split at hseq
          · split at hseq
            · next hcost => exact hcost.1
            · cases hseq
          · cases hseq
        have hlink : RangeLaw ((s.setQueue l rest).modLink l spendAllowance) := by
          refine modLink (h.setQueue l rest) ?_
          obtain ⟨hp, ha, ht⟩ := h.linkInRange l
          have hsame : (s.setQueue l rest).link l = s.link l := rfl
          rw [hsame]
          unfold spendAllowance
          split
          · exact ⟨hp, by dsimp only; omega, ht⟩
          · exact ⟨hp, ha, ht⟩
        exact hlink.admitSealing (Nat.le_trans hused (Nat.le_trans (h.hardLimit_le l) (Nat.le_add_right _ _)))
      · exact trigger (modLink_same h) l
    · exact h
  · exact h

theorem used_of_controlAdmission {l : LinkId} {k : SlotNo} {p seq : Nat}
    (hseq : controlAdmission s l k p = some seq) : (s.slot k).used + cost p ≤ 2 ^ 28 + 1024 := by
  unfold controlAdmission at hseq
  split at hseq
  · split at hseq
    · next hcost => exact Nat.le_trans hcost.1 (Nat.add_le_add_right (h.hardLimit_le l) _)
    · cases hseq
  · cases hseq

theorem startControl (l : LinkId) (m : LaneMsg) : RangeLaw (startControl l m s) := by
  unfold Machine.startControl
  split
  · split
    · split
      · next hseq => exact h.admitSealing (h.used_of_controlAdmission hseq)
      · exact h.failRenewal l
    · exact h
  · have hcut := h.cutover l
    dsimp only
    split
    · split
      · next hseq => exact hcut.admitSealing (hcut.used_of_controlAdmission hseq)
      · exact hcut
    · exact hcut

theorem startSealing : RangeLaw (startSealing s) := by
  unfold Machine.startSealing
  split
  · next l rest _ _ =>
    have hlisted := h.setSealRequests rest
    dsimp only
    split
    · exact startControl (modLink_same hlisted) l _
    · exact hlisted.startTraffic l
  · exact h

theorem used_of_preCheck {x : Descriptor} {k : SlotNo} (hcheck : preCheck s x = .ok k) :
    (s.slot k).used + cost x.length ≤ 2 ^ 28 + 1024 := by
  have hlimit : openingLimit s x.link x.kind ≤ 2 ^ 28 + 1024 := by
    have := h.hardLimit_le x.link
    unfold openingLimit
    split
    · omega
    · exact Nat.add_le_add_right this _
  unfold preCheck at hcheck
  split at hcheck
  · cases hcheck
  · split at hcheck
    · cases hcheck
    · split at hcheck
      · next hcost =>
        cases hcheck
        exact Nat.le_trans hcost hlimit
      · cases hcheck

theorem startOpening : RangeLaw (startOpening s) := by
  unfold Machine.startOpening
  split
  · next d rest _ _ =>
    have hlisted := h.setOpenList rest
    dsimp only
    split
    · next x _ =>
      split
      · next k hcheck =>
        have hused := hlisted.used_of_preCheck hcheck
        exact grant (setOpening (raiseInFlight (chargeSlot hlisted hused x.link) k) _)
      · have hcounted := (hlisted.freeFrame d).count x.link
        unfold rejectFrame countEpochEvent
        split
        · exact (hcounted _).modEvents _ _
        · exact hcounted _
    · exact hlisted
  · exact h

theorem beginDerivation : RangeLaw (beginDerivation s) := by
  unfold Machine.beginDerivation
  split
  · exact grant (setDerivation (raiseInFlight (h.setRequests _) _) _)
  · exact h

/-! ### Ends of operations -/

theorem freeSealed (r : Sealing) : RangeLaw (freeSealed r s) := by
  unfold Machine.freeSealed
  split
  · exact h.freeFrame _
  · exact h

theorem reportSealed (r : Sealing) : RangeLaw (reportSealed r s) := by
  unfold Machine.reportSealed
  split
  · unfold reportOffer
    split
    · exact modRenewal_same h
    · exact h
  · unfold reportCutover
    split
    · exact modRenewal_same h
    · exact h
  · exact h
  · exact h
  · exact h

theorem completeSealing (r : Sealing) : RangeLaw (completeSealing r s) := by
  have htagged : RangeLaw (writeTag r (tagOf r.tagChain) (s.setSealing none)) := by
    rcases writeTag_cases r (tagOf r.tagChain) (s.setSealing none) with ⟨_, e⟩ | ⟨d, _, e⟩ <;> rw [e] <;>
      exact h.of_view rfl
  have hlowered := htagged.lowerInFlight r.slot
  unfold Machine.completeSealing
  dsimp only
  split
  · exact hlowered.freeSealed r
  · split
    · refine reportSealed ?_ r
      unfold handToTransmitter
      split <;> exact setTransmitter (hlowered.count r.link _) _ _
    · exact (((hlowered.count r.link _).count r.link _).freeSealed r).reportSealed r

theorem handAccept (l : LinkId) (epoch : Nat) (echo ns : Nonce) : RangeLaw (handAccept l epoch echo ns s) := by
  unfold Machine.handAccept
  dsimp only
  split
  · have hlink := h.modLink_same (l := l) (f := fun x =>
      { x with
        lane := withoutOffer x.lane
        renewal := { x.renewal with state := .derivingNext, shopNonce := ns, offer := .stopped } })
    split
    · exact setRequests hlink _
    · exact hlink
  · exact h.count l _

theorem disposeGood (r : Opening) : RangeLaw (disposeGood r s) := by
  unfold Machine.disposeGood
  dsimp only
  split
  · split
    · exact (h.setDelivery _).count r.link _
    · exact (h.freeFrame _).count r.link _
  · exact (h.handAccept _ _ _ _).freeFrame _
  · exact (h.trigger r.link).freeFrame _
  · exact (h.freeFrame _).count r.link _
  · exact (h.freeFrame _).count r.link _

theorem reportEpoch (l : LinkId) (epoch : Nat) : RangeLaw (reportEpoch l epoch s) := by
  unfold Machine.reportEpoch
  split
  · split
    · exact h.retire l
    · exact h
  · exact h

theorem completeOpening (r : Opening) : RangeLaw (completeOpening r s) := by
  have hopened := h.setOpening none
  unfold Machine.completeOpening
  dsimp only
  split
  · exact lowerInFlight (hopened.freeFrame _) r.slot
  · split
    · refine disposeGood (reportEpoch (lowerInFlight (modSlot_same hopened fun x => ?_) _) _ _) _
      unfold enterWindow
      split <;> rfl
    · exact lowerInFlight (modEvents (count (hopened.freeFrame _) _ _) _ _) r.slot

theorem completeDerivation (d : Derivation) : RangeLaw (completeDerivation d s) := by
  have hcleared := h.setDerivation none
  unfold Machine.completeDerivation
  dsimp only
  split
  · have hready := hcleared.modSlot_same (k := d.request.slot) (f := fun x =>
      { x with
        state := .ready, cipherKey := cipherKeyOf d.results, integrityKey := integrityKeyOf d.results,
        inFlight := x.inFlight - 1 })
    split
    · exact modLink_same hready
    · exact hready
  · exact hcleared.lowerInFlight _

/-! ### Expiries, teardowns and activations -/

theorem expireOffer (l : LinkId) : RangeLaw (expireOffer l s) := by
  have hstopped : RangeLaw (s.modRenewal l fun r => { r with offer := .stopped }) := modRenewal_same h
  unfold Machine.expireOffer
  dsimp only
  split
  · split
    · next hleft =>
      refine modLink hstopped ?_
      obtain ⟨hp, ha, _⟩ := h.linkInRange l
      rw [State.link_modRenewal_self]
      refine ⟨hp, ha, ?_⟩
      unfold offerAttempts at hleft
      split at hleft
      · next p hprofile =>
        obtain ⟨_, _, _, _, ⟨_, hattempts⟩, _⟩ := hp p hprofile
        dsimp only
        omega
      · omega
    · exact hstopped.failRenewal l
  · exact hstopped

theorem expire (t : TimerName) (l : LinkId) : RangeLaw (expire t l s) := by
  cases t with
  | interval => exact trigger (modRenewal_same h) l
  | offer => exact h.expireOffer l
  | grace =>
    unfold Machine.expire expireGrace
    dsimp only
    split
    · exact retire (modRenewal_same h) l
    · exact modRenewal_same h
  | backoff =>
    unfold Machine.expire expireBackoff
    dsimp only
    split
    · exact reevaluate (modRenewal_same (modRenewal_same h)) l
    · exact modRenewal_same h

theorem teardown (l : LinkId) : RangeLaw (teardown l s) := by
  obtain ⟨descs, waiting, e, _⟩ := disposeFrames_eq l s
  have hdisposed : RangeLaw (disposeFrames l s) := by
    rw [e]
    refine RangeLaw.of_view (s := s.modLink l fun x => { x with stats := _ }) (modLink_same h) rfl
  unfold Machine.teardown
  generalize disposeFrames l s = t at hdisposed ⊢
  refine handOver (releaseSlots (setSealRequests (modLink (setWaitList hdisposed _) ?_) _) _)
  obtain ⟨hp, _⟩ := (hdisposed.setWaitList (t.keys.waitList.filter fun x => x ≠ l)).linkInRange l
  exact ⟨hp, Nat.zero_le _, Nat.zero_le _⟩

theorem activateOn (l : LinkId) (k : SlotNo) : RangeLaw (activateOn l k s) := by
  have hroot : RangeLaw (s.setRoot l { s.root l with state := .used }) := h.of_view rfl
  have hslot : RangeLaw (allocateSlot k l 0 (s.setRoot l { s.root l with state := .used })) :=
    hroot.modSlot (Nat.zero_le _)
  obtain ⟨hp, ha, ht⟩ := h.linkInRange l
  refine setTransmitter (setReceiver (modLink (setRequests hslot _) ?_) _ _) _ _
  exact ⟨hp, Nat.zero_le _, Nat.zero_le _⟩

theorem countTimers : RangeLaw (countTimers s) := by
  refine h.of_links rfl fun l => ?_
  rw [State.link_countTimers]
  exact h.linkInRange l

end RangeLaw

theorem resetPart_inRange (cause : ResetCause) (input : Bool) (s : State) : RangeLaw (resetPart cause input s) := by
  have hlink : ∀ l, (resetPart cause input s).link l = {} := fun l => by
    simp [resetPart, State.afterReset, State.link, tget]
  have hslot : ∀ k, (resetPart cause input s).slot k = {} := fun k => by
    simp [resetPart, State.afterReset, KeyStore.reset, State.slot, tget]
  refine ⟨fun l p hp => ?_, fun l => ?_, fun k => ?_, fun port => ?_, fun kind => ?_, fun e he => ?_⟩
  · rw [hlink] at hp
    cases hp
  · rw [hlink]
    exact ⟨Nat.zero_le _, Nat.zero_le _⟩
  · rw [hslot]
    exact Nat.zero_le _
  · cases port <;> simp [resetPart, State.afterReset, Trunk.reset, State.monitor, MonitorOk]
  · change PolicyInRange kind (tget defaultPolicies kind.index)
    unfold PolicyInRange
    cases kind <;> decide
  · exact nomatch (he : e ∈ ([] : List FaultEntry))

theorem rangeLaw_engine : EngineKeep RangeLaw where
  written _ _ _ h := h.of_view rfl
  sealing _ _ _ _ _ h := h.setSealing _
  sealed _ _ _ _ _ h := h.completeSealing _
  opening _ _ _ _ _ h := h.setOpening _
  opened _ _ _ _ _ h := h.completeOpening _
  derivation _ _ _ _ _ h := h.setDerivation _
  derived _ _ _ _ _ h := h.completeDerivation _

theorem rangeLaw_effects : EffectsKeep RangeLaw where
  refresh _ h := h.of_view rfl
  draw _ _ h := h.of_view rfl
  sealing _ _ _ h := h.startSealing
  opening _ _ h := h.startOpening
  derivation _ _ h := h.beginDerivation
  queue _ _ h := h.of_view rfl
  host _ _ _ h := h.of_view rfl
  traffic _ _ _ _ _ h := h.of_view rfl
  sent _ _ _ _ _ h := h.of_view rfl
  reset cause input s _ := resetPart_inRange cause input s
  report _ _ _ _ h := h.modLink_same
  holds s l hold allowance ha h := by
    obtain ⟨hp, ha', ht⟩ := h.linkInRange l
    exact h.modLink ⟨hp, by dsimp only; omega, ht⟩
  profile s l st p _ _ hp h := by
    obtain ⟨_, ha, ht⟩ := h.linkInRange l
    exact h.modLink ⟨hp, ha, ht⟩
  root _ _ _ h := h.of_view rfl
  activation _ l k _ _ h := h.activateOn l k
  isolation _ l _ h := h.isolate l
  resumption _ _ _ h := h.modLink_same
  triggered _ l h := h.trigger l
  torn _ l _ h := h.teardown l
  timers _ h := h.countTimers
  offerTimer _ _ _ h := h.modRenewal_same
  expiry t l _ h := h.expire t l
  operation r s h := rangeLaw_engine.endOperation r s h
  engine _ _ h := h.of_view rfl
  outbound _ _ _ _ _ _ _ _ _ _ _ h := h.of_view rfl
  dequeue s l n h := by
    obtain ⟨descs, e, _⟩ := freeFrames_eq ((s.queue l).take n) s
    rw [e]
    exact h.of_view rfl
  units _ _ _ _ h := h.of_view rfl
  trunk _ t ha hb _ _ h := h.of_view (by simp only [rangeView, ha, hb])
  monitor s p m hm h := by
    have hok : MonitorOk m := by
      rcases hm with rfl | ⟨good, rfl⟩
      · simp [MonitorOk, Monitor.absent]
      · obtain ⟨_, _, _, hmonitor, _⟩ := h
        exact Monitor.mark_ok (hmonitor p) good
    obtain ⟨hprofile, hlink, hslot, hmonitor, hpolicy, hentry⟩ := h
    have hmonitors : ∀ q, MonitorOk ((s.setMonitor p m).monitor q) := fun q => by
      cases p <;> cases q
      · exact hok
      · exact hmonitor .b
      · exact hmonitor .a
      · exact hok
    cases p <;> exact ⟨hprofile, hlink, hslot, hmonitors, hpolicy, hentry⟩
  reception s l h := by
    obtain ⟨receivers, descs, e⟩ := abandonReception_eq l s
    rw [e]
    exact h.of_view rfl
  transmission s l h := by
    obtain ⟨descs, e, _⟩ := abandonTransmission_eq l s
    rw [e]
    exact (h.modLink_same (l := l) (f := fun x => { x with stats := _ })).of_view rfl
  receiver _ _ _ _ h := h.of_view rfl
  inbound _ _ _ _ _ _ _ _ h := h.of_view rfl
  received _ _ _ _ _ h := h.of_view rfl
  transmitter _ _ _ _ h := h.of_view rfl
  transmitted _ _ _ _ _ h := h.of_view rfl
  counts _ _ hp he h := h.of_view (by simp only [rangeView, hp, he])
  policy s k p hp h := by
    obtain ⟨hprofile, hlink, hslot, hmonitor, hpolicy, hentry⟩ := h
    refine ⟨hprofile, hlink, hslot, hmonitor, fun kind => ?_, hentry⟩
    by_cases hk : k.index = kind.index
    · obtain rfl := FaultKind.index_inj hk
      have e : policyOf (setPolicy k p s) k = p := tget_tput_self _ _ _
      rw [← e] at hp
      exact hp
    · have e : policyOf (setPolicy k p s) kind = policyOf s kind := tget_tput_of_ne _ _ hk
      exact e ▸ hpolicy kind
  entries s es hes h := by
    obtain ⟨hprofile, hlink, hslot, hmonitor, hpolicy, hentry⟩ := h
    refine ⟨hprofile, hlink, hslot, hmonitor, hpolicy, fun e he => ?_⟩
    rcases hes e he with ⟨x, hx, e'⟩ | e' | ⟨kind, st, n, present, hn, e'⟩ <;> rw [e']
    · exact hentry x hx
    · exact Nat.zero_le _
    · refine nextEntryState_persistence (hpolicy kind) st ?_ present
      rcases hn with rfl | ⟨x, hx, rfl⟩
      · exact Nat.zero_le _
      · exact hentry x hx

end Sys2Proof.Machine

namespace Sys2Proof.Proofs

open Sys2Proof Sys2Proof.Machine

/-- Settles O8: every operation keeps the numbers in range, and so every step does. -/
theorem stepKeepsRangeLaw : Obligations.StepKeepsRangeLaw := by
  unfold Obligations.StepKeepsRangeLaw
  exact fun _ _ hs ht => rangeLaw_effects.step hs ht

end Sys2Proof.Proofs
end

section
/-! The key wait list: the links on it, and what keeps them QUIET. -/

namespace Sys2Proof.Machine

/-- R75: a link that is not live is QUIET; and in QUIET, CUTTING and BACKOFF it has no next slot and an empty
lane. -/
def QuietTable (x : Link) : Prop :=
  (x.live = false → x.renewal.state = .quiet) ∧
    (x.renewal.state ∈ [RenewalState.quiet, .cutting, .backoff] → x.lane = none ∧ x.next = none)

/-- R31: what is kept of one link: of one that waits, that it is ACTIVE with a pending trigger; and, where `b`
asks for it, that it is QUIET, and the table of every link. -/
def LinkWaits (b : Bool) (waits : Prop) (x : Link) : Prop :=
  (waits → x.state = .active ∧ x.renewal.pendingTrigger = true ∧ (b = true → x.renewal.state = .quiet)) ∧
    (b = true → QuietTable x)

/-- R31: the law of the key wait list but for the FREE slots. -/
def Waiters (b : Bool) (s : State) : Prop :=
  s.keys.waitList.Nodup ∧ ∀ l, LinkWaits b (l ∈ s.keys.waitList) (s.link l)

/-- R31: links wait only while no key slot is FREE. -/
def WaitersServed (s : State) : Prop := s.keys.waitList = [] ∨ ∀ k, (s.slot k).state ≠ .free

/-- R31: the law of the key wait list, alone or with what keeps its links QUIET. -/
def WaitLaw (b : Bool) (s : State) : Prop := Waiters b s ∧ WaitersServed s

theorem waitLaw_false (s : State) : WaitLaw false s ↔ WaitListLaw s := by
  simp only [WaitLaw, Waiters, WaitersServed, LinkWaits, WaitListLaw, Bool.false_eq_true, false_implies, and_true,
    and_assoc]

theorem waitLaw_true (s : State) : WaitLaw true s ↔ WaitersLaw s := by
  simp only [WaitLaw, Waiters, WaitersServed, LinkWaits, WaitersLaw, WaitListLaw, QuietTable, true_implies]
  constructor
  · rintro ⟨⟨hnodup, hlink⟩, hserved⟩
    exact ⟨⟨hnodup, fun l hl => ⟨((hlink l).1 hl).1, ((hlink l).1 hl).2.1⟩, hserved⟩,
      fun l hl => ((hlink l).1 hl).2.2, fun l => (hlink l).2⟩
  · rintro ⟨⟨hnodup, hlisted, hserved⟩, hquiet, htable⟩
    exact ⟨⟨hnodup, fun l => ⟨fun hl => ⟨(hlisted l hl).1, (hlisted l hl).2, hquiet l hl⟩, htable l⟩⟩, hserved⟩

namespace Waiters

variable {b : Bool} {s : State} (h : Waiters b s)
include h

theorem waits {l : LinkId} (hl : l ∈ s.keys.waitList) : (s.link l).state = .active ∧
    (s.link l).renewal.pendingTrigger = true ∧ (b = true → (s.link l).renewal.state = .quiet) := (h.2 l).1 hl

theorem table (hb : b = true) (l : LinkId) : QuietTable (s.link l) := (h.2 l).2 hb

theorem notMem_of_not_active {l : LinkId} (hl : (s.link l).state ≠ .active) : l ∉ s.keys.waitList :=
  fun hm => hl (h.waits hm).1

theorem notMem_of_not_quiet (hb : b = true) {l : LinkId} (hl : (s.link l).renewal.state ≠ .quiet) :
    l ∉ s.keys.waitList :=
  fun hm => hl ((h.waits hm).2.2 hb)

theorem live_of_not_quiet (hb : b = true) {l : LinkId} (hl : (s.link l).renewal.state ≠ .quiet) :
    (s.link l).live = true := by
  by_contra hlive
  exact hl ((h.table hb l).1 (by simpa using hlive))

theorem of_same {t : State} (hl : t.links = s.links) (hw : t.keys.waitList = s.keys.waitList) : Waiters b t := by
  have hlink : ∀ l, t.link l = s.link l := fun l => by rw [State.link, State.link, hl]
  refine ⟨hw ▸ h.1, fun l => ?_⟩
  rw [hw, hlink]
  exact h.2 l

theorem modLink {l : LinkId} {f : Link → Link} (hf : LinkWaits b (l ∈ s.keys.waitList) (f (s.link l))) :
    Waiters b (s.modLink l f) := by
  refine ⟨h.1, fun j => ?_⟩
  rw [State.link_modLink, State.modLink_keys]
  split
  · next e =>
    subst e
    exact hf
  · exact h.2 j

/-- A change of a link that leaves its state, its pending trigger, its renewal state, its lane and its next slot. -/
theorem modLink_same {l : LinkId} {f : Link → Link}
    (hf : ∀ x, (f x).state = x.state ∧ (f x).renewal.pendingTrigger = x.renewal.pendingTrigger ∧
      (f x).renewal.state = x.renewal.state ∧ (f x).lane = x.lane ∧ (f x).next = x.next := by
        exact fun _ => ⟨rfl, rfl, rfl, rfl, rfl⟩) :
    Waiters b (s.modLink l f) := by
  obtain ⟨hstate, hpending, hrenewal, hlane, hnext⟩ := hf (s.link l)
  refine h.modLink ?_
  unfold LinkWaits QuietTable Link.live
  rw [hstate, hpending, hrenewal, hlane, hnext]
  exact h.2 l

theorem leave (l : LinkId) : Waiters b (leaveWaitList l s) := by
  refine ⟨h.1.filter _, fun j => ⟨fun hj => h.waits (List.mem_of_mem_filter hj), (h.2 j).2⟩⟩

/-- R81: the start of a renewal for an ACTIVE link that waits no longer. -/
theorem startRenewal {l : LinkId} (hactive : (s.link l).state = .active) (hl : l ∉ s.keys.waitList) (k : SlotNo) :
    Waiters b (startRenewal l k s) := by
  cases hc : (s.link l).current with
  | none => exact (startRenewal_of_none hc k).symm ▸ h
  | some c =>
    rw [startRenewal_of_some hc]
    have hdrawn : Waiters b ({ s with draws := { s.draws with nonces := s.draws.nonces + 1 } }.modSlot k fun _ =>
        allocatedSlot l ((s.slot c).epoch + 1)) := h.of_same rfl rfl
    refine modLink hdrawn ⟨fun hm => absurd hm hl, fun _ => ⟨fun hlive => ?_, fun hstate => ?_⟩⟩
    · have hlive' : (s.link l).live = false := hlive
      rw [Link.live_eq_true.2 (.inl hactive)] at hlive'
      cases hlive'
    · exact absurd hstate (by simp [startedLink])

/-- R32: whatever slots have become FREE, the hand-over serves the links that wait. -/
theorem handOver : WaitLaw b (handOver s) := by
  constructor
  · refine handOver_keeps (P := Waiters b) (fun t l rest hw ht k _ => ?_) s h
    have hnodup : (l :: rest).Nodup := hw ▸ ht.1
    have hrest : Waiters b (t.setWaitList rest) := by
      refine ⟨hnodup.of_cons, fun j => ⟨fun hj => ht.waits ?_, (ht.2 j).2⟩⟩
      rw [hw]
      exact List.mem_cons_of_mem _ hj
    exact hrest.startRenewal (ht.waits (by rw [hw]; exact List.mem_cons_self)).1 (List.nodup_cons.1 hnodup).1 k
  · exact (handOver_serves s).imp_right lowestFreeSlot_eq_none.1

theorem releaseSlots (ks : List SlotNo) : Waiters b (releaseSlots ks s) := by
  rw [releaseSlots_eq_released]
  exact h.of_same (released_links _ _) (released_keys_waitList _ _)

theorem isolate (l : LinkId) : WaitLaw b (isolate l s) := by
  rw [isolate_eq_isolated, isolated_eq, ← releaseSlots_eq_released]
  refine handOver (releaseSlots ?_ _)
  have hleft := h.leave l
  have hl : l ∉ (leaveWaitList l s).keys.waitList := by simp [leaveWaitList]
  exact hleft.modLink ⟨fun hm => absurd hm hl, fun _ => ⟨fun _ => rfl, fun _ => ⟨rfl, rfl⟩⟩⟩

theorem count (l : LinkId) (c : Counter) : Waiters b (s.count l c) := h.modLink_same

end Waiters

namespace WaitLaw

variable {b : Bool} {s : State} (h : WaitLaw b s)
include h

theorem of_same {t : State} (hl : t.links = s.links) (hw : t.keys.waitList = s.keys.waitList)
    (hs : t.keys.slots = s.keys.slots) : WaitLaw b t := by
  refine ⟨h.1.of_same hl hw, ?_⟩
  have hslot : ∀ k, t.slot k = s.slot k := fun k => by rw [State.slot, State.slot, hs]
  unfold WaitersServed
  simp only [hw, hslot]
  exact h.2

theorem setRequests (r : List DerivationRequest) : WaitLaw b (s.setRequests r) := h.of_same rfl rfl rfl
theorem setDerivation (d : Option Derivation) : WaitLaw b (s.setDerivation d) := h.of_same rfl rfl rfl
theorem setSealRequests (r : List LinkId) : WaitLaw b (s.setSealRequests r) := h.of_same rfl rfl rfl
theorem setSealing (r : Option Sealing) : WaitLaw b (s.setSealing r) := h.of_same rfl rfl rfl
theorem setOpening (r : Option Opening) : WaitLaw b (s.setOpening r) := h.of_same rfl rfl rfl
theorem setOpenList (w : List DescNo) : WaitLaw b (s.setOpenList w) := h.of_same rfl rfl rfl
theorem setTransmitter (l : LinkId) (t : Transmitter) : WaitLaw b (s.setTransmitter l t) := h.of_same rfl rfl rfl
theorem freeFrame (d : DescNo) : WaitLaw b (s.freeFrame d) := h.of_same rfl rfl rfl
theorem modDesc (d : DescNo) (f : Descriptor → Descriptor) : WaitLaw b (s.modDesc d f) := h.of_same rfl rfl rfl
theorem setDelivery (q : List DescNo) : WaitLaw b (s.setDelivery q) := h.of_same rfl rfl rfl
theorem setQueue (l : LinkId) (q : List DescNo) : WaitLaw b (s.setQueue l q) := h.of_same rfl rfl rfl
theorem listNotice (n : NoticeItem) : WaitLaw b (s.listNotice n) := h.of_same rfl rfl rfl
theorem modEvents (l : LinkId) (f : LinkEvents → LinkEvents) : WaitLaw b (s.modEvents l f) := h.of_same rfl rfl rfl

theorem modLink {l : LinkId} {f : Link → Link} (hf : LinkWaits b (l ∈ s.keys.waitList) (f (s.link l))) :
    WaitLaw b (s.modLink l f) :=
  ⟨h.1.modLink hf, h.2⟩

theorem modLink_same {l : LinkId} {f : Link → Link}
    (hf : ∀ x, (f x).state = x.state ∧ (f x).renewal.pendingTrigger = x.renewal.pendingTrigger ∧
      (f x).renewal.state = x.renewal.state ∧ (f x).lane = x.lane ∧ (f x).next = x.next := by
        exact fun _ => ⟨rfl, rfl, rfl, rfl, rfl⟩) :
    WaitLaw b (s.modLink l f) :=
  ⟨h.1.modLink_same hf, h.2⟩

theorem modRenewal_same {l : LinkId} {f : Renewal → Renewal}
    (hf : ∀ r, (f r).pendingTrigger = r.pendingTrigger ∧ (f r).state = r.state := by exact fun _ => ⟨rfl, rfl⟩) :
    WaitLaw b (s.modRenewal l f) :=
  h.modLink_same (f := fun x => { x with renewal := f x.renewal }) fun _ => ⟨rfl, (hf _).1, (hf _).2, rfl, rfl⟩

/-- A change of a key slot that makes none FREE. -/
theorem modSlot {k : SlotNo} {f : KeySlot → KeySlot} (hf : (f (s.slot k)).state = .free → (s.slot k).state = .free) :
    WaitLaw b (s.modSlot k f) := by
  refine ⟨h.1.of_same rfl rfl, h.2.imp_right fun hfree i => ?_⟩
  rw [State.slot_modSlot]
  split
  · exact fun e => hfree k (hf e)
  · exact hfree i

theorem modSlot_same {k : SlotNo} {f : KeySlot → KeySlot}
    (hf : ∀ x, (f x).state = x.state := by exact fun _ => rfl) : WaitLaw b (s.modSlot k f) :=
  h.modSlot fun e => (hf _).symm.trans e

theorem count (l : LinkId) (c : Counter) : WaitLaw b (s.count l c) := h.modLink_same

theorem eventPending (l : LinkId) : WaitLaw b (s.setEventPending l) := by
  rcases setEventPending_cases l s with ⟨_, e⟩ | ⟨_, e⟩ <;> rw [e]
  · exact h
  · exact listNotice (modLink_same h) _

theorem grant : WaitLaw b (grant s) := by
  unfold Machine.grant
  split
  · exact h
  · split
    · exact h.of_same rfl rfl rfl
    · exact h

/-! ### Triggers, failures, cutovers and retirements -/

theorem trigger (l : LinkId) : WaitLaw b (trigger l s) := by
  rcases trigger_cases l s with e | ⟨hact, k, hk, e⟩ | ⟨hact, hk, e⟩ <;> rw [e]
  · exact h
  · obtain ⟨hactive, -, hpending⟩ := (mayAct_iff _).1 hact
    have hnil : s.keys.waitList = [] := h.2.resolve_right fun hno => hno k (lowestFreeSlot_eq_some hk)
    refine ⟨h.1.startRenewal hactive (by simp [hnil]) k, .inl ?_⟩
    rw [startRenewal_waitList, hnil]
  · obtain ⟨hactive, hquiet, hpending⟩ := (mayAct_iff _).1 hact
    have hl : l ∉ s.keys.waitList := fun hm => by
      rw [(h.1.waits hm).2.1] at hpending
      cases hpending
    refine ⟨⟨List.nodup_append.2 ⟨h.1.1, List.nodup_singleton l, ?_⟩, fun j => ?_⟩,
      .inr (lowestFreeSlot_eq_none.1 hk)⟩
    · rintro j hj _ hm rfl
      exact hl (List.mem_singleton.1 hm ▸ hj)
    · rw [State.link_setWaitList, State.link_modRenewal]
      split
      · next e' =>
        subst e'
        exact ⟨fun _ => ⟨hactive, rfl, fun _ => hquiet⟩, (h.1.2 l).2⟩
      · next hne =>
        refine ⟨fun hm => h.1.waits ?_, (h.1.2 j).2⟩
        exact (List.mem_append.1 hm).resolve_right fun hm => hne (List.mem_singleton.1 hm).symm

theorem reevaluate (l : LinkId) : WaitLaw b (reevaluate l s) := by
  rcases reevaluate_cases l s with e | e <;> rw [e]
  · exact h
  · exact h.trigger l

theorem raiseInFlight (k : SlotNo) : WaitLaw b (raiseInFlight k s) := modSlot_same h

theorem lowerInFlight (k : SlotNo) : WaitLaw b (lowerInFlight k s) := by
  rcases lowerInFlight_cases k s with ⟨_, _, e⟩ | ⟨_, e⟩ <;> rw [e]
  · have herased : Waiters b (s.modSlot k fun _ => {}) := h.1.of_same rfl rfl
    exact herased.handOver
  · exact modSlot_same h

theorem autoIsolate (l : LinkId) : WaitLaw b (autoIsolate l s) := by
  unfold Machine.autoIsolate
  split
  · exact (h.1.isolate l).eventPending l
  · exact h

/-- The link of a renewal that is released and handed over stays as it is, since it does not wait. -/
theorem link_releasedHandOver (hb : b = true) {l : LinkId} {f : Link → Link}
    (hl : (s.link l).renewal.state ≠ .quiet) (ks : List SlotNo) :
    (Machine.handOver (Machine.releaseSlots ks (s.modLink l f))).link l = f (s.link l) ∧
      l ∉ (Machine.handOver (Machine.releaseSlots ks (s.modLink l f))).keys.waitList := by
  have hout : l ∉ (released ks (s.modLink l f)).keys.waitList := by
    rw [released_keys_waitList]
    exact h.1.notMem_of_not_quiet hb hl
  rw [releaseSlots_eq_released]
  obtain ⟨hframe, hsuffix⟩ := handOver_frame (released ks (s.modLink l f))
  refine ⟨?_, fun hm => hout (hsuffix.subset hm)⟩
  rw [hframe.link l hout, released_link, State.link_modLink_self]

/-- R85: a renewal fails only where one is under way. -/
theorem failRenewal {l : LinkId} (hl : b = true → (s.link l).renewal.state ≠ .quiet) :
    WaitLaw b (failRenewal l s) := by
  have hemptied : Waiters b (s.modLink l fun x => { x with next := none, lane := none }) := by
    refine Waiters.modLink h.1 ⟨(h.1.2 l).1, fun hb => ⟨(h.1.table hb l).1, fun _ => ⟨rfl, rfl⟩⟩⟩
  have hreleased : WaitLaw b (handOver (releaseSlots (s.link l).next.toList
      (s.modLink l fun x => { x with next := none, lane := none }))) := (hemptied.releaseSlots _).handOver
  have hlink := fun hb => h.link_releasedHandOver (f := fun x => { x with next := none, lane := none }) hb (hl hb)
    (s.link l).next.toList
  unfold Machine.failRenewal
  dsimp only
  generalize handOver (releaseSlots _ _) = t at hreleased hlink ⊢
  have hmarked : WaitLaw b (t.modRenewal l fun r => { r with offer := .stopped, failureMark := true }) :=
    modRenewal_same hreleased
  split
  · exact hmarked.autoIsolate l
  · rw [State.modRenewal_eq_modLink, State.modRenewal_eq_modLink, State.modLink_modLink]
    refine modLink hreleased ⟨fun hm => ?_, fun hb => ⟨fun hlive => ?_, fun _ => ?_⟩⟩
    · obtain ⟨hactive, hpending, _⟩ := hreleased.1.waits hm
      exact ⟨hactive, hpending, fun hb => absurd hm (hlink hb).2⟩
    · have hlive' : (t.link l).live = false := hlive
      rw [(hlink hb).1] at hlive'
      exact absurd (hlive'.symm.trans (h.1.live_of_not_quiet hb (hl hb))) (by simp)
    · rw [(hlink hb).1]
      exact ⟨rfl, rfl⟩

/-- R93: a previous slot is retired only in CUTTING. -/
theorem retire {l : LinkId} (hl : (s.link l).renewal.state = .cutting) : WaitLaw b (retire l s) := by
  have hne : (s.link l).renewal.state ≠ .quiet := by simp [hl]
  have hdetached : Waiters b (s.modLink l fun x => { x with previous := none }) := h.1.modLink_same
  have hreleased : WaitLaw b (handOver (releaseSlots (s.link l).previous.toList
      (s.modLink l fun x => { x with previous := none }))) := (hdetached.releaseSlots _).handOver
  have hlink := fun hb => h.link_releasedHandOver (f := fun x => { x with previous := none }) hb hne
    (s.link l).previous.toList
  unfold Machine.retire
  dsimp only
  generalize handOver (releaseSlots _ _) = t at hreleased hlink ⊢
  refine reevaluate (modLink hreleased ⟨fun hm => ?_, fun hb => ⟨fun _ => rfl, fun _ => ?_⟩⟩) l
  · obtain ⟨hactive, hpending, _⟩ := hreleased.1.waits hm
    exact ⟨hactive, hpending, fun _ => rfl⟩
  · rw [(hlink hb).1]
    exact (h.1.table hb l).2 (by simp [hl])

/-- R91: a cutover comes while the renewal is under way, its lane taken. -/
theorem cutover {l : LinkId} (hl : b = true → (s.link l).renewal.state ≠ .quiet ∧ (s.link l).lane = none) :
    WaitLaw b (cutover l s) := by
  unfold Machine.cutover
  refine eventPending (Waiters.handOver (Waiters.releaseSlots (Waiters.modLink h.1 ?_) _)) l
  refine ⟨fun hm => ?_, fun hb => ⟨fun hlive => ?_, fun _ => ⟨(hl hb).2, rfl⟩⟩⟩
  · obtain ⟨hactive, hpending, _⟩ := h.1.waits hm
    exact ⟨hactive, hpending, fun hb => absurd hm (h.1.notMem_of_not_quiet hb (hl hb).1)⟩
  · have hlive' : (s.link l).live = false := hlive
    exact absurd (hlive'.symm.trans (h.1.live_of_not_quiet hb (hl hb).1)) (by simp)

/-! ### Starts -/

theorem chargeSlot (k : SlotNo) (l : LinkId) (n : Nat) : WaitLaw b (chargeSlot k l n s) := by
  unfold Machine.chargeSlot
  dsimp only
  split
  · exact trigger (modSlot_same h) l
  · exact modSlot_same h

theorem admitSealing (l : LinkId) (kind : FrameKind) (k : SlotNo) (seq p : Nat) (desc : Option DescNo)
    (payload : List Byte) : WaitLaw b (admitSealing l kind k seq p desc payload s) := by
  have hcharged : WaitLaw b (Machine.raiseInFlight k (Machine.chargeSlot k l (cost p)
      (s.modSlot k fun x => { x with next := seqAfter seq }))) := raiseInFlight (chargeSlot (modSlot_same h) _ _ _) _
  unfold Machine.admitSealing
  dsimp only
  refine grant (setSealing ?_ _)
  split
  · exact modDesc hcharged _ _
  · exact hcharged.of_same rfl rfl rfl

theorem startTraffic (l : LinkId) : WaitLaw b (startTraffic l s) := by
  unfold Machine.startTraffic
  split
  · split
    · split
      · refine admitSealing (modLink_same (h.setQueue _ _) fun x => ?_) _ _ _ _ _ _ _
        unfold spendAllowance
        split <;> exact ⟨rfl, rfl, rfl, rfl, rfl⟩
      · exact trigger (modLink_same h) l
    · exact h
  · exact h

theorem startControl {l : LinkId} (m : LaneMsg)
    (hl : b = true → (s.link l).renewal.state ≠ .quiet ∧ (s.link l).lane = none) : WaitLaw b (startControl l m s) := by
  unfold Machine.startControl
  split
  · split
    · split
      · exact h.admitSealing _ _ _ _ _ _ _
      · exact h.failRenewal fun hb => (hl hb).1
    · exact h
  · have hcut := h.cutover hl
    dsimp only
    split
    · split
      · exact hcut.admitSealing _ _ _ _ _ _ _
      · exact hcut
    · exact hcut

theorem startSealing : WaitLaw b (startSealing s) := by
  unfold Machine.startSealing
  split
  · next l rest _ _ =>
    have hlisted := h.setSealRequests rest
    dsimp only
    split
    · next m hm =>
      have htable := hlisted.1.2 l
      refine startControl (modLink hlisted ⟨htable.1, fun hb => ?_⟩) m fun hb => ?_
      · obtain ⟨hlive, hempty⟩ := htable.2 hb
        exact ⟨hlive, fun hstate => ⟨rfl, (hempty hstate).2⟩⟩
      · rw [State.link_modLink_self]
        refine ⟨fun hquiet => ?_, rfl⟩
        obtain ⟨_, hempty⟩ := htable.2 hb
        have hmem : ((s.setSealRequests rest).link l).renewal.state ∈ [RenewalState.quiet, .cutting, .backoff] :=
          List.mem_cons.2 (.inl hquiet)
        rw [(hempty hmem).1] at hm
        cases hm
    · exact hlisted.startTraffic l
  · exact h

theorem startOpening : WaitLaw b (startOpening s) := by
  unfold Machine.startOpening
  split
  · next d rest _ _ =>
    have hlisted := h.setOpenList rest
    dsimp only
    split
    · split
      · exact grant (setOpening (raiseInFlight (chargeSlot hlisted _ _ _) _) _)
      · have hcounted := (hlisted.freeFrame d).count
        unfold rejectFrame countEpochEvent
        split
        · exact (hcounted _ _).modEvents _ _
        · exact hcounted _ _
    · exact hlisted
  · exact h

theorem beginDerivation : WaitLaw b (beginDerivation s) := by
  unfold Machine.beginDerivation
  split
  · exact grant (setDerivation (raiseInFlight (h.setRequests _) _) _)
  · exact h

/-! ### Ends of operations -/

theorem freeSealed (r : Sealing) : WaitLaw b (freeSealed r s) := by
  unfold Machine.freeSealed
  split
  · exact h.freeFrame _
  · exact h

theorem reportSealed (r : Sealing) : WaitLaw b (reportSealed r s) := by
  unfold Machine.reportSealed
  split
  · unfold reportOffer
    split
    · exact modRenewal_same h
    · exact h
  · unfold reportCutover
    split
    · exact modRenewal_same h
    · exact h
  · exact h
  · exact h
  · exact h

theorem completeSealing (r : Sealing) : WaitLaw b (completeSealing r s) := by
  have htagged : WaitLaw b (writeTag r (tagOf r.tagChain) (s.setSealing none)) := by
    rcases writeTag_cases r (tagOf r.tagChain) (s.setSealing none) with ⟨_, e⟩ | ⟨d, _, e⟩ <;> rw [e] <;>
      exact h.of_same rfl rfl rfl
  have hlowered := htagged.lowerInFlight r.slot
  unfold Machine.completeSealing
  dsimp only
  split
  · exact hlowered.freeSealed r
  · split
    · refine reportSealed ?_ r
      unfold handToTransmitter
      split <;> exact setTransmitter (hlowered.count r.link _) _ _
    · exact (((hlowered.count r.link _).count r.link _).freeSealed r).reportSealed r

theorem handAccept (l : LinkId) (epoch : Nat) (echo ns : Nonce) : WaitLaw b (handAccept l epoch echo ns s) := by
  unfold Machine.handAccept
  dsimp only
  split
  · next hvalid =>
    obtain ⟨⟨⟨hactive, hoffering⟩, -⟩, -⟩ : (((s.link l).state = .active ∧ (s.link l).renewal.state = .offering) ∧
        (s.link l).renewal.offeredEpoch = epoch) ∧ (s.link l).renewal.headNonce = echo := by
      simpa [acceptValid] using hvalid
    have hlink : WaitLaw b (s.modLink l fun x =>
        { x with
          lane := withoutOffer x.lane
          renewal := { x.renewal with state := .derivingNext, shopNonce := ns, offer := .stopped } }) := by
      refine modLink h ⟨fun hm => ?_, fun _ => ⟨fun hlive => ?_, fun hstate => ?_⟩⟩
      · obtain ⟨_, hpending, hquiet⟩ := h.1.waits hm
        exact ⟨hactive, hpending, fun hb => absurd ((hquiet hb).symm.trans hoffering) (by simp)⟩
      · have hlive' : (s.link l).live = false := hlive
        exact absurd (hlive'.symm.trans (Link.live_eq_true.2 (.inl hactive))) (by simp)
      · simp at hstate
    split
    · exact setRequests hlink _
    · exact hlink
  · exact h.count l _

theorem disposeGood (r : Opening) : WaitLaw b (disposeGood r s) := by
  unfold Machine.disposeGood
  dsimp only
  split
  · split
    · exact (h.setDelivery _).count r.link _
    · exact (h.freeFrame _).count r.link _
  · exact (h.handAccept _ _ _ _).freeFrame _
  · exact (h.trigger r.link).freeFrame _
  · exact (h.freeFrame _).count r.link _
  · exact (h.freeFrame _).count r.link _

theorem reportEpoch (l : LinkId) (epoch : Nat) : WaitLaw b (reportEpoch l epoch s) := by
  unfold Machine.reportEpoch
  split
  · split
    · next hcutting => exact h.retire hcutting.1
    · exact h
  · exact h

theorem completeOpening (r : Opening) : WaitLaw b (completeOpening r s) := by
  have hopened := h.setOpening none
  unfold Machine.completeOpening
  dsimp only
  split
  · exact lowerInFlight (hopened.freeFrame _) r.slot
  · split
    · refine disposeGood (reportEpoch (lowerInFlight (modSlot_same hopened fun x => ?_) _) _ _) _
      unfold enterWindow
      split <;> rfl
    · exact lowerInFlight (modEvents (count (hopened.freeFrame _) _ _) _ _) r.slot

theorem completeDerivation (d : Derivation) : WaitLaw b (completeDerivation d s) := by
  have hcleared := h.setDerivation none
  unfold Machine.completeDerivation
  dsimp only
  split
  · have hready : WaitLaw b ((s.setDerivation none).modSlot d.request.slot fun x =>
        { x with
          state := .ready, cipherKey := cipherKeyOf d.results, integrityKey := integrityKeyOf d.results,
          inFlight := x.inFlight - 1 }) := modSlot hcleared fun e => nomatch e
    split
    · next hnext =>
      refine modLink hready ⟨(hready.1.2 _).1, fun hb => ⟨(hready.1.table hb _).1, fun hstate => ?_⟩⟩
      rw [((hready.1.table hb _).2 hstate).2] at hnext
      cases hnext
    · exact hready
  · exact hcleared.lowerInFlight _

/-! ### Expiries, teardowns and activations -/

theorem expireOffer (l : LinkId) : WaitLaw b (expireOffer l s) := by
  have hstopped : WaitLaw b (s.modRenewal l fun r => { r with offer := .stopped }) := modRenewal_same h
  unfold Machine.expireOffer
  dsimp only
  split
  · next hoffering =>
    split
    · refine modLink hstopped ⟨(hstopped.1.2 l).1, fun hb => ⟨(hstopped.1.table hb l).1, fun hstate => ?_⟩⟩
      have hstate' : (s.link l).renewal.state ∈ [RenewalState.quiet, .cutting, .backoff] := by
        rw [State.link_modRenewal_self] at hstate
        exact hstate
      simp [hoffering] at hstate'
    · refine hstopped.failRenewal fun _ => ?_
      rw [State.link_modRenewal_self]
      exact fun hquiet => absurd (hquiet.symm.trans hoffering) (by simp)
  · exact hstopped

theorem expire (t : TimerName) (l : LinkId) : WaitLaw b (expire t l s) := by
  cases t with
  | interval => exact trigger (modRenewal_same h) l
  | offer => exact h.expireOffer l
  | grace =>
    unfold Machine.expire expireGrace
    dsimp only
    split
    · next hcutting => exact retire (modRenewal_same h) (by rw [State.link_modRenewal_self]; exact hcutting)
    · exact modRenewal_same h
  | backoff =>
    unfold Machine.expire expireBackoff
    dsimp only
    split
    · next hbackoff =>
      rw [State.modRenewal_eq_modLink, State.modRenewal_eq_modLink, State.modLink_modLink]
      refine reevaluate (modLink h ⟨fun hm => ?_, fun hb => ⟨fun _ => rfl, fun _ => ?_⟩⟩) l
      · obtain ⟨hactive, hpending, _⟩ := h.1.waits hm
        exact ⟨hactive, hpending, fun _ => rfl⟩
      · exact (h.1.table hb l).2 (by simp [hbackoff])
    · exact modRenewal_same h

theorem teardown (l : LinkId) : WaitLaw b (teardown l s) := by
  obtain ⟨descs, waiting, e, _⟩ := disposeFrames_eq l s
  have hdisposed : Waiters b (disposeFrames l s) := by
    rw [e]
    exact Waiters.of_same (s := s.modLink l fun x => { x with stats := _ }) h.1.modLink_same rfl rfl
  unfold Machine.teardown
  generalize disposeFrames l s = t at hdisposed ⊢
  refine Waiters.handOver (Waiters.releaseSlots (Waiters.of_same ?_ rfl rfl) _)
  refine Waiters.modLink (hdisposed.leave l) ?_
  have hl : l ∉ (leaveWaitList l t).keys.waitList := by simp [leaveWaitList]
  exact ⟨fun hm => absurd hm hl, fun _ => ⟨fun _ => rfl, fun _ => ⟨rfl, rfl⟩⟩⟩

theorem activateOn {l : LinkId} (hl : (s.link l).state = .configured) (k : SlotNo) : WaitLaw b (activateOn l k s) := by
  have hroot : WaitLaw b (s.setRoot l { s.root l with state := .used }) := h.of_same rfl rfl rfl
  have hallocated : WaitLaw b (allocateSlot k l 0 (s.setRoot l { s.root l with state := .used })) := by
    rw [allocateSlot_eq]
    exact hroot.modSlot fun e => nomatch (e : KeyState.derivingKeys = .free)
  have hdead : (s.link l).live = false := by simp [Link.live, hl]
  have hout : l ∉ s.keys.waitList := h.1.notMem_of_not_active (by simp [hl])
  refine of_same (s := _) (modLink (setRequests hallocated _) (l := l) (f := fun x =>
    { x with
      state := .active, current := some k, allowance := 0, budgetHeld := false
      hold := match x.profile with | some p => p.startHeld | none => false
      renewal := { x.renewal with
        state := .quiet, attempts := 0, pendingTrigger := false, interval := startedInterval x } }) ?_) rfl rfl rfl
  refine ⟨fun hm => absurd hm hout, fun hb => ⟨fun _ => rfl, fun _ => ?_⟩⟩
  obtain ⟨hquiet, hempty⟩ := h.1.table hb l
  exact hempty (by simp [hquiet hdead])

theorem countTimers : WaitLaw b (countTimers s) := by
  refine ⟨⟨h.1.1, fun l => ?_⟩, h.2⟩
  rw [State.link_countTimers]
  exact h.1.2 l

end WaitLaw

theorem resetPart_link (cause : ResetCause) (input : Bool) (s : State) (l : LinkId) :
    (resetPart cause input s).link l = {} := by
  simp [resetPart, State.afterReset, State.link, tget]

theorem waitLaw_engine (b : Bool) : EngineKeep (WaitLaw b) where
  written _ _ _ h := h.of_same rfl rfl rfl
  sealing _ _ _ _ _ h := h.setSealing _
  sealed _ _ _ _ _ h := h.completeSealing _
  opening _ _ _ _ _ h := h.setOpening _
  opened _ _ _ _ _ h := h.completeOpening _
  derivation _ _ _ _ _ h := h.setDerivation _
  derived _ _ _ _ _ h := h.completeDerivation _

theorem waitLaw_effects (b : Bool) : EffectsKeep (WaitLaw b) where
  refresh _ h := h.of_same rfl rfl rfl
  draw _ _ h := h.of_same rfl rfl rfl
  sealing _ _ _ h := h.startSealing
  opening _ _ h := h.startOpening
  derivation _ _ h := h.beginDerivation
  queue _ _ h := h.of_same rfl rfl rfl
  host _ _ _ h := h.of_same rfl rfl rfl
  traffic _ _ _ _ _ h := h.of_same rfl rfl rfl
  sent _ _ _ _ _ h := h.of_same rfl rfl rfl
  reset cause input s _ := by
    have hnil : (resetPart cause input s).keys.waitList = [] := rfl
    refine ⟨⟨List.nodup_nil, fun l => ?_⟩, .inl hnil⟩
    rw [resetPart_link, hnil]
    exact ⟨fun hm => absurd hm List.not_mem_nil, fun _ => ⟨fun _ => rfl, fun _ => ⟨rfl, rfl⟩⟩⟩
  report _ _ _ _ h := h.modLink_same
  holds _ _ _ _ _ h := h.modLink_same
  profile s l st p hold hnew _ h := by
    have hdead : (s.link l).live = false := by rcases hold with e | e <;> simp [Link.live, e]
    have hout : l ∉ s.keys.waitList := h.1.notMem_of_not_active (by rcases hold with e | e <;> simp [e])
    exact h.modLink ⟨fun hm => absurd hm hout, fun hb => ⟨fun _ => (h.1.table hb l).1 hdead, (h.1.table hb l).2⟩⟩
  root _ _ _ h := h.of_same rfl rfl rfl
  activation _ _ k hl _ h := h.activateOn hl k
  isolation _ l _ h := h.1.isolate l
  resumption s l hl h := by
    have hout : l ∉ s.keys.waitList := h.1.notMem_of_not_active (by simp [hl])
    have hlive : ∀ x : Link, ({ x with state := .active } : Link).live = true := fun _ => Link.live_eq_true.2 (.inl rfl)
    exact h.modLink ⟨fun hm => absurd hm hout,
      fun hb => ⟨fun hdead => absurd ((hlive _).symm.trans hdead) (by simp), (h.1.table hb l).2⟩⟩
  triggered _ l h := h.trigger l
  torn _ l _ h := h.teardown l
  timers _ h := h.countTimers
  offerTimer _ _ _ h := h.modRenewal_same
  expiry t l _ h := h.expire t l
  operation r s h := (waitLaw_engine b).endOperation r s h
  engine _ _ h := h.of_same rfl rfl rfl
  outbound _ _ _ _ _ _ _ _ _ _ _ h := h.of_same rfl rfl rfl
  dequeue s l n h := by
    obtain ⟨descs, e, _⟩ := freeFrames_eq ((s.queue l).take n) s
    rw [e]
    exact h.of_same rfl rfl rfl
  units _ _ _ _ h := h.of_same rfl rfl rfl
  trunk _ _ _ _ _ _ h := h.of_same rfl rfl rfl
  monitor _ p _ _ h := by cases p <;> exact h.of_same rfl rfl rfl
  reception s l h := by
    obtain ⟨receivers, descs, e⟩ := abandonReception_eq l s
    rw [e]
    exact h.of_same rfl rfl rfl
  transmission s l h := by
    obtain ⟨descs, e, _⟩ := abandonTransmission_eq l s
    rw [e]
    exact WaitLaw.of_same (s := s.modLink l fun x => { x with stats := _ }) h.modLink_same rfl rfl rfl
  receiver _ _ _ _ h := h.of_same rfl rfl rfl
  inbound _ _ _ _ _ _ _ _ h := h.of_same rfl rfl rfl
  received _ _ _ _ _ h := h.of_same rfl rfl rfl
  transmitter _ _ _ _ h := h.of_same rfl rfl rfl
  transmitted _ _ _ _ _ h := h.of_same rfl rfl rfl
  counts _ _ _ _ h := h.of_same rfl rfl rfl
  policy _ _ _ _ h := h.of_same rfl rfl rfl
  entries _ _ _ h := h.of_same rfl rfl rfl

/-- R31: every step keeps the law of the key wait list, alone and with what keeps its links QUIET. -/
theorem step_waitLaw (b : Bool) {s t : State} (hs : WaitLaw b s) (ht : step s = .next t) : WaitLaw b t :=
  (waitLaw_effects b).step hs ht

end Sys2Proof.Machine
end

section
/-! The frames of the frame store: no frame stands in two places, and every place names a frame that is held; and
the sealer's request list, which holds no link twice. -/

namespace Sys2Proof.Machine

/-! ### How often a frame stands in a place -/

/-- R105: how often the outbound queues name a descriptor. -/
def queuedCount (queues : Vector (List DescNo) 64) (d : DescNo) : Nat := ∑ i : Fin 64, (tget queues i).count d

/-- R134: how many transmitters send the frame of a descriptor. -/
def sentCount (transmitters : Vector Transmitter 64) (d : DescNo) : Nat :=
  ∑ i : Fin 64, (sentFrame (tget transmitters i)).count d

/-- R136: how many receivers take a frame into a descriptor. -/
def receivedCount (receivers : Vector Receiver 64) (d : DescNo) : Nat :=
  ∑ i : Fin 64, (receivedFrame (tget receivers i)).count d

/-- R105, R116, R134: how many places name a descriptor. -/
def placeCount (s : State) (d : DescNo) : Nat :=
  queuedCount s.store.queues d + sentCount s.trunk.transmitters d + receivedCount s.trunk.receivers d +
  ((s.sealer.current.bind fun r => r.desc).toList.count d + s.opener.waiting.count d +
    (s.opener.current.map fun r => r.desc).toList.count d + s.store.delivery.count d + (lineFrame s.host).count d)

theorem count_flatMap_allFin {α : Type} [BEq α] (f : LinkId → List α) (a : α) :
    ((allFin 64).flatMap f).count a = ∑ i : Fin 64, (f i).count a := by
  rw [List.count_flatMap, Fin.sum_univ_def]
  rfl

theorem count_framePlaces (s : State) (d : DescNo) : (framePlaces s).count d = placeCount s d := by
  simp only [framePlaces, placeCount, lineFrame, List.count_append, count_flatMap_allFin, queuedCount, sentCount,
    receivedCount, State.queue, State.transmitter, State.receiver]
  omega

/-- A table's entries summed up, with one of them replaced. -/
theorem sum_tput {α : Type} {n : Nat} (v : Vector α n) (i : Fin n) (x : α) (f : α → Nat) :
    (∑ j : Fin n, f (tget (tput v i x) j)) + f (tget v i) = (∑ j : Fin n, f (tget v j)) + f x := by
  have hsplit : ∀ w : Vector α n, (∑ j : Fin n, f (tget w j)) =
      f (tget w i) + ∑ j ∈ Finset.univ.erase i, f (tget w j) := fun w =>
    (Finset.add_sum_erase Finset.univ (fun j => f (tget w j)) (Finset.mem_univ i)).symm
  have hrest : (∑ j ∈ Finset.univ.erase i, f (tget (tput v i x) j)) = ∑ j ∈ Finset.univ.erase i, f (tget v j) :=
    Finset.sum_congr rfl fun j hj => by rw [tget_tput_of_ne _ _ (Finset.ne_of_mem_erase hj).symm]
  rw [hsplit (tput v i x), hsplit v, tget_tput_self, hrest]
  omega

/-! ### The law, with frames in hand -/

/-- What the law of the frames looks at. -/
def framesView (s : State) :=
  (s.sealer.requests, s.sealer.current.bind fun r => r.desc, s.opener.waiting,
    s.opener.current.map fun r => r.desc, s.store.descs, s.store.queues, s.store.delivery, s.trunk.receivers,
    s.trunk.transmitters, lineFrame s.host)

/-- R103 to R105: the request list holds no link twice; and, where `b` asks for it, no frame stands in two places or
stands in a place while it is in hand, and every frame in a place or in hand is held. -/
structure FramesLaw (b : Bool) (hand : List DescNo) (s : State) : Prop where
  requests : s.sealer.requests.Nodup
  places : b = true → ∀ d, placeCount s d + hand.count d ≤ if (s.desc d).isSome then 1 else 0

theorem framesLaw_of_storeLaw {s : State} (hr : s.sealer.requests.Nodup) (h : StoreLaw s) : FramesLaw true [] s := by
  obtain ⟨hnodup, hheld, _⟩ := h
  refine ⟨hr, fun _ d => ?_⟩
  rw [← count_framePlaces]
  split
  · simpa using List.nodup_iff_count_le_one.1 hnodup d
  · next hfree => simpa using List.count_eq_zero.2 fun hm => hfree ((hheld d).1 hm)

/-! ### What does not touch the frames -/

section

variable (s : State)

@[simp] theorem framesView_modLink (l : LinkId) (f : Link → Link) : framesView (s.modLink l f) = framesView s := rfl
@[simp] theorem framesView_modRenewal (l : LinkId) (f : Renewal → Renewal) :
    framesView (s.modRenewal l f) = framesView s := rfl
@[simp] theorem framesView_count (l : LinkId) (c : Counter) : framesView (s.count l c) = framesView s := rfl
@[simp] theorem framesView_modEvents (l : LinkId) (f : LinkEvents → LinkEvents) :
    framesView (s.modEvents l f) = framesView s := rfl
@[simp] theorem framesView_modSlot (k : SlotNo) (f : KeySlot → KeySlot) :
    framesView (s.modSlot k f) = framesView s := rfl
@[simp] theorem framesView_setRoot (l : LinkId) (r : RootRecord) : framesView (s.setRoot l r) = framesView s := rfl
@[simp] theorem framesView_setRequests (r : List DerivationRequest) :
    framesView (s.setRequests r) = framesView s := rfl
@[simp] theorem framesView_setDerivation (d : Option Derivation) :
    framesView (s.setDerivation d) = framesView s := rfl
@[simp] theorem framesView_setWaitList (w : List LinkId) : framesView (s.setWaitList w) = framesView s := rfl
@[simp] theorem framesView_listNotice (n : NoticeItem) : framesView (s.listNotice n) = framesView s := rfl
@[simp] theorem framesView_leaveWaitList (l : LinkId) : framesView (leaveWaitList l s) = framesView s := rfl
@[simp] theorem framesView_raiseInFlight (k : SlotNo) : framesView (raiseInFlight k s) = framesView s := rfl
@[simp] theorem framesView_allocateSlot (k : SlotNo) (l : LinkId) (epoch : Nat) :
    framesView (allocateSlot k l epoch s) = framesView s := rfl

@[simp] theorem framesView_grant : framesView (grant s) = framesView s := by
  unfold grant
  split
  · rfl
  · split <;> rfl

@[simp] theorem framesView_setEventPending (l : LinkId) : framesView (s.setEventPending l) = framesView s := by
  rcases setEventPending_cases l s with ⟨_, e⟩ | ⟨_, e⟩ <;> rw [e]
  rfl

@[simp] theorem framesView_handOver : framesView (handOver s) = framesView s := by
  rw [(handOver_frame s).1.rest]
  rfl

@[simp] theorem framesView_releaseSlots (ks : List SlotNo) : framesView (releaseSlots ks s) = framesView s := by
  simp [framesView, releaseSlots_eq_released]

@[simp] theorem framesView_trigger (l : LinkId) : framesView (trigger l s) = framesView s := by
  rw [(trigger_frame l s).rest]
  rfl

@[simp] theorem framesView_reevaluate (l : LinkId) : framesView (reevaluate l s) = framesView s := by
  rw [(reevaluate_frame l s).rest]
  rfl

@[simp] theorem framesView_lowerInFlight (k : SlotNo) : framesView (lowerInFlight k s) = framesView s := by
  rcases lowerInFlight_cases k s with ⟨_, _, e⟩ | ⟨_, e⟩ <;> rw [e]
  · rw [framesView_handOver, framesView_modSlot]
  · rfl

@[simp] theorem framesView_isolate (l : LinkId) : framesView (isolate l s) = framesView s := by
  simp [isolate, abortRenewal]

@[simp] theorem framesView_autoIsolate (l : LinkId) : framesView (autoIsolate l s) = framesView s := by
  unfold autoIsolate
  split <;> simp

@[simp] theorem framesView_failRenewal (l : LinkId) : framesView (failRenewal l s) = framesView s := by
  unfold failRenewal
  dsimp only
  split <;> simp

@[simp] theorem framesView_retire (l : LinkId) : framesView (retire l s) = framesView s := by simp [retire]

@[simp] theorem framesView_cutover (l : LinkId) : framesView (cutover l s) = framesView s := by simp [cutover]

@[simp] theorem framesView_reportEpoch (l : LinkId) (epoch : Nat) :
    framesView (reportEpoch l epoch s) = framesView s := by
  unfold reportEpoch
  split
  · split <;> simp
  · rfl

@[simp] theorem framesView_handAccept (l : LinkId) (epoch : Nat) (echo ns : Nonce) :
    framesView (handAccept l epoch echo ns s) = framesView s := by
  unfold handAccept
  dsimp only
  split
  · split <;> simp
  · simp

@[simp] theorem framesView_chargeSlot (k : SlotNo) (l : LinkId) (n : Nat) :
    framesView (chargeSlot k l n s) = framesView s := by
  unfold chargeSlot
  dsimp only
  split <;> simp

@[simp] theorem framesView_reportSealed (r : Sealing) : framesView (reportSealed r s) = framesView s := by
  unfold reportSealed reportOffer reportCutover
  split
  · split <;> simp
  · split <;> simp
  · rfl
  · rfl
  · rfl

@[simp] theorem framesView_expire (t : TimerName) (l : LinkId) : framesView (expire t l s) = framesView s := by
  unfold expire
  split
  · simp [expireInterval]
  · unfold expireOffer
    dsimp only
    split
    · split <;> simp
    · rfl
  · unfold expireGrace
    dsimp only
    split <;> simp
  · unfold expireBackoff
    dsimp only
    split <;> simp

@[simp] theorem framesView_completeDerivation (d : Derivation) :
    framesView (completeDerivation d s) = framesView s := by
  unfold completeDerivation queueCutover
  dsimp only
  split
  · split <;> simp
  · simp

@[simp] theorem framesView_beginDerivation : framesView (beginDerivation s) = framesView s := by
  unfold beginDerivation
  split <;> simp

end

namespace FramesLaw

variable {b : Bool} {hand : List DescNo} {s : State} (h : FramesLaw b hand s)
include h

theorem of_view {t : State} (ht : framesView t = framesView s) : FramesLaw b hand t := by
  simp only [framesView, Prod.mk.injEq] at ht
  obtain ⟨erequests, esealing, ewaiting, eopening, edescs, equeues, edelivery, ereceivers, etransmitters, eline⟩ := ht
  refine ⟨erequests ▸ h.requests, fun hb d => ?_⟩
  have e : placeCount t d = placeCount s d := by
    simp only [placeCount, esealing, ewaiting, eopening, equeues, edelivery, ereceivers, etransmitters, eline]
  rw [e, State.desc, edescs]
  exact h.places hb d

/-- Frames that move between places and hand. -/
theorem exchange {t : State} {hand' : List DescNo} (hr : t.sealer.requests.Nodup)
    (hd : t.store.descs = s.store.descs)
    (hc : ∀ d, placeCount t d + hand'.count d ≤ placeCount s d + hand.count d) : FramesLaw b hand' t :=
  ⟨hr, fun hb d => (hc d).trans (by rw [State.desc, hd]; exact h.places hb d)⟩

/-- A frame in hand let go of without being freed. -/
theorem drop {hand' : List DescNo} (hh : ∀ d, hand'.count d ≤ hand.count d) : FramesLaw b hand' s :=
  h.exchange h.requests rfl fun d => Nat.add_le_add_left (hh d) _

theorem setRequests {r : List LinkId} (hr : r.Nodup) : FramesLaw b hand (s.setSealRequests r) :=
  h.exchange hr rfl fun _ => Nat.le_refl _

theorem setQueue {hand' : List DescNo} {l : LinkId} {q : List DescNo}
    (hc : ∀ d, q.count d + hand'.count d ≤ (s.queue l).count d + hand.count d) :
    FramesLaw b hand' (s.setQueue l q) := by
  refine h.exchange h.requests rfl fun d => ?_
  have hsum := sum_tput s.store.queues l q fun q => q.count d
  have := hc d
  simp only [placeCount, queuedCount, State.setQueue, State.queue] at *
  omega

theorem setTransmitter {hand' : List DescNo} {l : LinkId} {t : Transmitter}
    (hc : ∀ d, (sentFrame t).count d + hand'.count d ≤ (sentFrame (s.transmitter l)).count d + hand.count d) :
    FramesLaw b hand' (s.setTransmitter l t) := by
  refine h.exchange h.requests rfl fun d => ?_
  have hsum := sum_tput s.trunk.transmitters l t fun t => (sentFrame t).count d
  have := hc d
  simp only [placeCount, sentCount, State.setTransmitter, State.transmitter] at *
  omega

theorem setReceiver {hand' : List DescNo} {l : LinkId} {r : Receiver}
    (hc : ∀ d, (receivedFrame r).count d + hand'.count d ≤
      (receivedFrame (s.receiver l)).count d + hand.count d) :
    FramesLaw b hand' (s.setReceiver l r) := by
  refine h.exchange h.requests rfl fun d => ?_
  have hsum := sum_tput s.trunk.receivers l r fun r => (receivedFrame r).count d
  have := hc d
  simp only [placeCount, receivedCount, State.setReceiver, State.receiver] at *
  omega

theorem setOpenList {hand' w : List DescNo}
    (hc : ∀ d, w.count d + hand'.count d ≤ s.opener.waiting.count d + hand.count d) :
    FramesLaw b hand' (s.setOpenList w) := by
  refine h.exchange h.requests rfl fun d => ?_
  have := hc d
  simp only [placeCount, State.setOpenList] at *
  omega

theorem setDelivery {hand' q : List DescNo}
    (hc : ∀ d, q.count d + hand'.count d ≤ s.store.delivery.count d + hand.count d) :
    FramesLaw b hand' (s.setDelivery q) := by
  refine h.exchange h.requests rfl fun d => ?_
  have := hc d
  simp only [placeCount, State.setDelivery] at *
  omega

theorem setSealing {hand' : List DescNo} {r : Option Sealing}
    (hc : ∀ d, (r.bind fun r => r.desc).toList.count d + hand'.count d ≤
      (s.sealer.current.bind fun r => r.desc).toList.count d + hand.count d) :
    FramesLaw b hand' (s.setSealing r) := by
  refine h.exchange h.requests rfl fun d => ?_
  have := hc d
  simp only [placeCount, State.setSealing] at *
  omega

theorem setOpening {hand' : List DescNo} {r : Option Opening}
    (hc : ∀ d, (r.map fun r => r.desc).toList.count d + hand'.count d ≤
      (s.opener.current.map fun r => r.desc).toList.count d + hand.count d) :
    FramesLaw b hand' (s.setOpening r) := by
  refine h.exchange h.requests rfl fun d => ?_
  have := hc d
  simp only [placeCount, State.setOpening] at *
  omega

theorem setHost {hand' : List DescNo} {p : HostPort}
    (hc : ∀ d, (lineFrame p).count d + hand'.count d ≤ (lineFrame s.host).count d + hand.count d) :
    FramesLaw b hand' { s with host := p } := by
  refine h.exchange h.requests rfl fun d => ?_
  have := hc d
  simp only [placeCount] at *
  omega

/-- R104: a free descriptor taken. -/
theorem take {d : DescNo} (hd : s.desc d = none) (x : Descriptor) :
    FramesLaw b (d :: hand) (s.setDesc d (some x)) := by
  refine ⟨h.requests, fun hb e => ?_⟩
  have he := h.places hb e
  have hsame : placeCount (s.setDesc d (some x)) e = placeCount s e := rfl
  rw [hsame, State.desc_setDesc, List.count_cons]
  by_cases hde : d = e
  · subst hde
    rw [hd] at he
    simp at he ⊢
    omega
  · simpa [hde] using he

/-- R104: a frame in hand freed. -/
theorem free {d : DescNo} {hand' : List DescNo} (hh : ∀ e, hand.count e = (d :: hand').count e) :
    FramesLaw b hand' (s.freeFrame d) := by
  refine ⟨h.requests, fun hb e => ?_⟩
  have he := h.places hb e
  have hsame : placeCount (s.freeFrame d) e = placeCount s e := rfl
  rw [hh, List.count_cons] at he
  rw [hsame, State.desc_freeFrame]
  by_cases hde : d = e
  · subst hde
    have hone : (if (s.desc d).isSome = true then 1 else 0) ≤ 1 := by split <;> omega
    simp at he ⊢
    omega
  · simpa [hde] using he

theorem modDesc (d : DescNo) (f : Descriptor → Descriptor) : FramesLaw b hand (s.modDesc d f) := by
  refine ⟨h.requests, fun hb e => ?_⟩
  have he := h.places hb e
  have hsame : placeCount (s.modDesc d f) e = placeCount s e := rfl
  rw [hsame, State.modDesc, State.desc_setDesc]
  split
  · next hde =>
    subst hde
    simpa using he
  · exact he

/-- R104: frames in hand freed. -/
theorem freeAll {ds hand' : List DescNo} (hh : ∀ e, hand.count e = (ds ++ hand').count e) :
    FramesLaw b hand' (freeFrames ds s) := by
  induction ds generalizing hand s with
  | nil => exact h.drop fun e => (hh e).ge
  | cons d ds ih => exact ih (h.free (hand' := ds ++ hand') hh) fun _ => rfl

/-! ### What may happen with frames in hand -/

theorem refresh : FramesLaw b hand (refreshRequests s) := by
  refine h.setRequests (List.nodup_append.2 ⟨h.requests.filter _, (List.nodup_finRange 64).filter _, ?_⟩)
  rintro j hj _ hm rfl
  obtain ⟨_, hout⟩ := List.mem_filter.1 hm
  simp only [Bool.and_eq_true, Bool.not_eq_true', List.contains_eq_mem, decide_eq_false_iff_not] at hout
  exact hout.1 hj

theorem abandonTransmission (l : LinkId) : FramesLaw b hand (abandonTransmission l s) := by
  unfold Machine.abandonTransmission
  split
  · exact h
  · next d n ht =>
    have hidle : FramesLaw b (d :: hand) (s.setTransmitter l .idle) := h.setTransmitter fun e => by
      simp [ht, sentFrame, List.count_cons]
      omega
    exact of_view (hidle.free fun _ => rfl) rfl
  · exact of_view (h.setTransmitter fun e => by simp [sentFrame]) (framesView_count _ _ _)

theorem abandonReception (l : LinkId) : FramesLaw b hand (abandonReception l s) := by
  unfold Machine.abandonReception
  split
  · next d n hr =>
    have hhunt : FramesLaw b (d :: hand) (s.setReceiver l .hunt) := h.setReceiver fun e => by
      simp [hr, receivedFrame, List.count_cons]
      omega
    exact of_view (hhunt.free fun _ => rfl) rfl
  · exact h
  · exact h.setReceiver fun e => by simp [receivedFrame]
  · exact h.setReceiver fun e => by simp [receivedFrame]

theorem setReceiver_hunt (l : LinkId) : FramesLaw b hand (s.setReceiver l .hunt) :=
  h.setReceiver fun _ => by simp [receivedFrame]

theorem setTransmitter_idle (l : LinkId) : FramesLaw b hand (s.setTransmitter l .idle) :=
  h.setTransmitter fun _ => by simp [sentFrame]

theorem disposeGood {r : Opening} (hr : hand = [r.desc]) : FramesLaw b [] (disposeGood r s) := by
  have hfree : ∀ {u : State}, FramesLaw b [r.desc] u → FramesLaw b [] (u.freeFrame r.desc) :=
    fun hu => hu.free fun _ => rfl
  subst hr
  unfold Machine.disposeGood
  dsimp only
  split
  · split
    · refine of_view ?_ (framesView_count _ _ _)
      exact h.setDelivery fun d => by simp
    · exact of_view (hfree h) (framesView_count _ _ _)
  · exact hfree (of_view h (framesView_handAccept _ _ _ _ _))
  · exact hfree (of_view h (framesView_trigger _ _))
  · exact of_view (hfree h) (framesView_count _ _ _)
  · exact of_view (hfree h) (framesView_count _ _ _)

theorem admitSealing {l : LinkId} {kind : FrameKind} {k : SlotNo} {seq p : Nat} {desc : Option DescNo}
    {payload : List Byte} (hh : ∀ d, desc.toList.count d ≤ hand.count d) :
    FramesLaw b [] (admitSealing l kind k seq p desc payload s) := by
  have hcharged : FramesLaw b hand (Machine.raiseInFlight k (Machine.chargeSlot k l (cost p)
      (s.modSlot k fun x => { x with next := seqAfter seq }))) := h.of_view (by simp)
  unfold Machine.admitSealing
  dsimp only
  refine of_view ?_ (framesView_grant _)
  have hput : ∀ {u : State} (r : Sealing), r.desc = desc → FramesLaw b hand u →
      FramesLaw b [] (u.setSealing (some r)) :=
    fun r hr hu => hu.setSealing fun d => by
      have := hh d
      simp only [Option.bind_some, hr, List.count_nil]
      omega
  refine hput _ rfl ?_
  split
  · exact modDesc hcharged _ _
  · exact hcharged.of_view rfl

end FramesLaw

/-! ### Starts -/

namespace FramesLaw

variable {b : Bool} {s : State} (h : FramesLaw b [] s)
include h

theorem startTraffic (l : LinkId) : FramesLaw b [] (startTraffic l s) := by
  unfold Machine.startTraffic
  split
  · next k d rest _ hq =>
    split
    · split
      · have htaken : FramesLaw b [d] (s.setQueue l rest) := h.setQueue fun e => by
          rw [hq, List.count_cons, List.count_cons]
          omega
        exact admitSealing (of_view htaken (framesView_modLink _ l spendAllowance)) fun _ => Nat.le_refl _
      · exact h.of_view (by simp)
    · exact h
  · exact h

theorem startControl (l : LinkId) (m : LaneMsg) : FramesLaw b [] (startControl l m s) := by
  unfold Machine.startControl
  split
  · split
    · split
      · exact h.admitSealing fun _ => Nat.le_refl _
      · exact h.of_view (by simp)
    · exact h
  · have hcut : FramesLaw b [] (cutover l s) := h.of_view (by simp)
    dsimp only
    split
    · split
      · exact hcut.admitSealing fun _ => Nat.le_refl _
      · exact hcut
    · exact hcut

theorem startSealing : FramesLaw b [] (startSealing s) := by
  unfold Machine.startSealing
  split
  · next l rest _ hr =>
    have hlisted : FramesLaw b [] (s.setSealRequests rest) := h.setRequests (List.Nodup.of_cons (hr ▸ h.requests))
    dsimp only
    split
    · exact startControl (of_view hlisted (framesView_modLink _ _ _)) l _
    · exact hlisted.startTraffic l
  · exact h

theorem startOpening : FramesLaw b [] (startOpening s) := by
  unfold Machine.startOpening
  split
  · next d rest _ hw =>
    have hlisted : FramesLaw b [d] (s.setOpenList rest) := h.setOpenList fun e => by
      rw [hw, List.count_cons, List.count_cons]
      omega
    dsimp only
    split
    · next x _ =>
      split
      · next k _ =>
        have hcharged : FramesLaw b [d] (Machine.raiseInFlight k (Machine.chargeSlot k x.link (cost x.length)
            (s.setOpenList rest))) := hlisted.of_view (by simp)
        refine of_view ?_ (framesView_grant _)
        exact hcharged.setOpening fun e => by simp [List.count_singleton]
      · have hcounted := of_view (hlisted.free (hand' := []) fun _ => rfl)
          (framesView_count ((s.setOpenList rest).freeFrame d) x.link ?_)
        unfold rejectFrame countEpochEvent
        split
        · exact of_view hcounted (framesView_modEvents _ _ _)
        · exact hcounted
    · exact hlisted.drop fun _ => Nat.zero_le _
  · exact h

/-! ### Ends of operations -/

theorem completeSealing {r : Sealing}
    (hr : (s.sealer.current.bind fun r => r.desc) = r.desc) : FramesLaw b [] (completeSealing r s) := by
  have hcleared : FramesLaw b r.desc.toList (s.setSealing none) := h.setSealing fun d => by simp [hr]
  have htagged : FramesLaw b r.desc.toList (writeTag r (tagOf r.tagChain) (s.setSealing none)) := by
    rcases writeTag_cases r (tagOf r.tagChain) (s.setSealing none) with ⟨_, e⟩ | ⟨d, _, e⟩ <;> rw [e]
    · exact hcleared.of_view rfl
    · exact hcleared.modDesc _ _
  have hlowered : FramesLaw b r.desc.toList
      (lowerInFlight r.slot (writeTag r (tagOf r.tagChain) (s.setSealing none))) := htagged.of_view (by simp)
  have hfree : ∀ {u : State}, FramesLaw b r.desc.toList u → FramesLaw b [] (freeSealed r u) := fun hu => by
    unfold freeSealed
    split
    · next d hd => exact hu.free fun _ => by rw [hd]; rfl
    · exact hu.drop fun _ => Nat.zero_le _
  unfold Machine.completeSealing
  dsimp only
  split
  · exact hfree hlowered
  · have hcounted := of_view hlowered (framesView_count _ r.link .framesSealed)
    split
    · refine of_view ?_ (framesView_reportSealed _ _)
      unfold handToTransmitter
      split
      · next d hd => exact hcounted.setTransmitter fun e => by simp [sentFrame, hd]
      · exact hcounted.setTransmitter fun e => by simp [sentFrame]
    · exact of_view (hfree (of_view hcounted (framesView_count _ _ _))) (framesView_reportSealed _ _)

theorem completeOpening {r : Opening}
    (hr : (s.opener.current.map fun r => r.desc) = some r.desc) : FramesLaw b [] (completeOpening r s) := by
  have hcleared : FramesLaw b [r.desc] (s.setOpening none) := h.setOpening fun d => by simp [hr]
  have hfreed : FramesLaw b [] ((s.setOpening none).freeFrame r.desc) := hcleared.free fun _ => rfl
  unfold Machine.completeOpening
  dsimp only
  split
  · exact of_view hfreed (framesView_lowerInFlight _ _)
  · split
    · exact disposeGood (of_view hcleared (by simp)) rfl
    · exact hfreed.of_view (by simp)

/-! ### Teardown and activation -/

/-- R18: frames at the front of a queue leave it and are freed. -/
theorem dequeue (l : LinkId) (n : Nat) :
    FramesLaw b [] ((freeFrames ((s.queue l).take n) s).setQueue l ((s.queue l).drop n)) := by
  have htaken : FramesLaw b ((s.queue l).take n) (s.setQueue l ((s.queue l).drop n)) := h.setQueue fun d => by
    have : ((s.queue l).take n ++ (s.queue l).drop n).count d = (s.queue l).count d := by rw [List.take_append_drop]
    rw [List.count_append] at this
    simp only [List.count_nil]
    omega
  have hfreed := htaken.freeAll (ds := (s.queue l).take n) (hand' := []) fun _ => by simp
  obtain ⟨descs, e, hdescs⟩ := freeFrames_eq ((s.queue l).take n) s
  obtain ⟨descs', e', hdescs'⟩ := freeFrames_eq ((s.queue l).take n) (s.setQueue l ((s.queue l).drop n))
  have hsame : descs = descs' := Vector.ext fun i hi => by
    have hi' := (hdescs ⟨i, hi⟩).trans (hdescs' ⟨i, hi⟩).symm
    exact hi'
  rw [e'] at hfreed
  rw [e, hsame]
  exact hfreed

theorem discardOpenList (l : LinkId) : FramesLaw b [] (discardOpenList l s) := by
  have hsplit : ∀ d, (s.opener.waiting.filter fun d => !frameOf s l d).count d +
      (s.opener.waiting.filter (frameOf s l)).count d ≤ s.opener.waiting.count d := fun d => by
    generalize s.opener.waiting = w
    induction w with
    | nil => simp
    | cons e w ih =>
      cases hf : frameOf s l e <;> simp [hf, List.count_cons] <;> omega
  have htaken : FramesLaw b (s.opener.waiting.filter (frameOf s l))
      (s.setOpenList (s.opener.waiting.filter fun d => !frameOf s l d)) := h.setOpenList fun d => by
    have := hsplit d
    simp only [List.count_nil]
    omega
  exact htaken.freeAll fun _ => by simp

theorem disposeFrames (l : LinkId) : FramesLaw b [] (disposeFrames l s) := by
  have hmarked : FramesLaw b [] (markOpening l (markSealing l s)) := by
    refine h.of_view ?_
    rw [markOpening_eq, markSealing_eq]
    unfold framesView State.setSealing State.setOpening markedSealing markedOpening
    cases s.sealer.current <;> cases s.opener.current <;> dsimp only [Option.map, Option.bind]
    all_goals split_ifs <;> rfl
  have hpath := discardOpenList (abandonReception (hmarked.abandonTransmission l) l) l
  have hdequeued := hpath.dequeue l ((Machine.discardOpenList l (Machine.abandonReception l
    (Machine.abandonTransmission l (markOpening l (markSealing l s))))).queue l).length
  rw [List.take_length, List.drop_length] at hdequeued
  exact hdequeued

theorem teardown (l : LinkId) : FramesLaw b [] (teardown l s) := by
  have hdisposed := h.disposeFrames l
  unfold Machine.teardown
  generalize Machine.disposeFrames l s = t at hdisposed ⊢
  have htorn : FramesLaw b [] ((leaveWaitList l t).modLink l tornDown) := hdisposed.of_view rfl
  have hlisted := htorn.setRequests (hdisposed.requests.filter fun x => decide (x ≠ l))
  exact hlisted.of_view ((framesView_handOver _).trans (framesView_releaseSlots _ _))

theorem activateOn (l : LinkId) (k : SlotNo) : FramesLaw b [] (activateOn l k s) := by
  unfold Machine.activateOn
  dsimp only
  refine setTransmitter_idle (setReceiver_hunt ?_ l) l
  exact h.of_view rfl

end FramesLaw

theorem framesLaw_reset (b : Bool) (cause : ResetCause) (input : Bool) (s : State) :
    FramesLaw b [] (resetPart cause input s) := by
  refine ⟨List.nodup_nil, fun _ d => ?_⟩
  have hzero : placeCount (resetPart cause input s) d = 0 := by
    simp [placeCount, queuedCount, sentCount, receivedCount, resetPart, State.afterReset, FrameStore.reset, Trunk.reset,
      Sealer.reset, Opener.reset, HostPort.reset, lineFrame, sentFrame, receivedFrame, tget]
  rw [hzero]
  exact Nat.zero_le _

/-- R104: the room found has a free descriptor. -/
theorem findRoom_free {s : State} {inbound : Bool} {n : Nat} {d : DescNo} {us : List UnitNo}
    (h : findRoom s inbound n = some (d, us)) : s.desc d = none := by
  unfold findRoom at h
  split at h
  · next e he =>
    dsimp only at h
    split at h
    · cases h
      simpa [lowestFreeDesc] using List.find?_some he
    · cases h
  · cases h

theorem framesLaw_engine (b : Bool) : EngineKeep (FramesLaw b []) where
  written _ _ _ h := h.of_view rfl
  sealing s r _ _ hr h := h.of_view (by simp [framesView, State.setSealing, hr])
  sealed s r _ _ hr h := h.completeSealing (by rw [hr]; rfl)
  opening s r _ _ hr h := h.of_view (by simp [framesView, State.setOpening, hr])
  opened s r _ _ hr h := h.completeOpening (by rw [hr]; rfl)
  derivation _ _ _ _ _ h := h.of_view rfl
  derived _ _ _ _ _ h := h.of_view (framesView_completeDerivation _ _)

theorem framesLaw_effects (b : Bool) : EffectsKeep (FramesLaw b []) where
  refresh _ h := h.refresh
  draw _ _ h := h.of_view rfl
  sealing _ _ _ h := h.startSealing
  opening _ _ h := h.startOpening
  derivation _ _ h := h.of_view (framesView_beginDerivation _)
  queue _ _ h := h.of_view rfl
  host s p hp h := h.setHost fun d => Nat.add_le_add_right (hp.count_le d) _
  traffic s d rest _ hd h := by
    have htaken : FramesLaw b [d] (s.setDelivery rest) := h.setDelivery fun e => by
      rw [hd, List.count_cons, List.count_cons]
      omega
    exact htaken.setHost fun e => by simp [lineFrame]
  sent s r d hr hd h := by
    have hcleared : FramesLaw b [d] (s.setLine none) := h.setHost fun e => by simp [lineFrame, hr, hd]
    exact hcleared.free fun _ => rfl
  reset cause input s _ := framesLaw_reset b cause input s
  report _ _ _ _ h := h.of_view rfl
  holds _ _ _ _ _ h := h.of_view rfl
  profile _ _ _ _ _ _ _ h := h.of_view rfl
  root _ _ _ h := h.of_view rfl
  activation _ l k _ _ h := h.activateOn l k
  isolation _ _ _ h := h.of_view (framesView_isolate _ _)
  resumption _ _ _ h := h.of_view rfl
  triggered _ _ h := h.of_view (framesView_trigger _ _)
  torn _ l _ h := h.teardown l
  timers _ h := h.of_view rfl
  offerTimer _ _ _ h := h.of_view rfl
  expiry _ _ _ h := h.of_view (framesView_expire _ _ _)
  operation r s h := (framesLaw_engine b).endOperation r s h
  engine _ _ h := h.of_view rfl
  outbound s l p tag payload d us _ _ _ hroom h := by
    have htaken := h.take (findRoom_free hroom)
      ⟨l, false, .traffic, none, none, payload.length, us, some tag, none, none⟩
    have hqueued := htaken.setQueue (l := l) (q := s.queue l ++ [d]) (hand' := []) fun e => by
      rw [List.count_append]
      exact (Nat.add_zero _).le
    exact hqueued.of_view rfl
  dequeue _ l n h := h.dequeue l n
  units _ _ _ _ h := h.of_view rfl
  trunk _ _ _ _ hr ht h := h.of_view (by simp only [framesView, hr, ht])
  monitor _ p _ _ h := by cases p <;> exact h.of_view rfl
  reception _ l h := h.abandonReception l
  transmission _ l h := h.abandonTransmission l
  receiver _ _ _ hr h := h.setReceiver fun d => by rw [hr]
  inbound s l x d us bs _ hroom h := by
    have htaken := h.take (findRoom_free hroom)
      ⟨l, true, x.kind, some x.epoch, some x.seq, x.bodyLength - 8, us, none, none, none⟩
    exact htaken.setReceiver fun e => by simp [receivedFrame]
  received s l d n hr h := by
    have hhunt : FramesLaw b [d] (s.setReceiver l .hunt) := h.setReceiver fun e => by simp [hr, receivedFrame]
    exact hhunt.setOpenList fun e => by simp
  transmitter _ _ _ ht h := h.setTransmitter fun d => Nat.add_le_add_right (ht.count_le d) _
  transmitted s l d n ht h := by
    have hidle : FramesLaw b [d] (s.setTransmitter l .idle) := h.setTransmitter fun e => by simp [ht, sentFrame]
    exact (hidle.free (hand' := []) fun _ => rfl).of_view rfl
  counts _ _ _ _ h := h.of_view rfl
  policy _ _ _ _ h := h.of_view rfl
  entries _ _ _ h := h.of_view rfl

/-! ### The request list -/

/-- R43: a request list that has been refreshed follows its conditions. -/
theorem requestLaw_refreshRequests {s : State} (h : s.sealer.requests.Nodup) : RequestLaw (refreshRequests s) := by
  rw [requestLaw_iff]
  have hlaw : FramesLaw false [] s := ⟨h, fun hb => nomatch hb⟩
  refine ⟨hlaw.refresh.requests, fun l => ⟨refreshRequests_eligible s l, fun hl => ?_⟩⟩
  have hl' : sealEligible s l = true := hl
  change l ∈ s.sealer.requests.filter (sealEligible s) ++
    (allFin 64).filter fun l => !(s.sealer.requests.filter (sealEligible s)).contains l && sealEligible s l
  by_cases hm : l ∈ s.sealer.requests
  · exact List.mem_append_left _ (List.mem_filter.2 ⟨hm, hl'⟩)
  · refine List.mem_append_right _ (List.mem_filter.2 ⟨List.mem_finRange l, ?_⟩)
    simp [hl', hm]

/-- The blocks come to rest with a request list that has just been refreshed. -/
theorem settleBlocks_refreshed {P : State → Prop} (h : StartsKeep P) {s : State} (hs : P s) :
    ∃ u, P u ∧ settleBlocks s = refreshRequests u := by
  have all : ∀ (n : Nat) (s : State), P s → ∃ u, P u ∧ settleBlocksFor n s = refreshRequests u := by
    intro n
    induction n with
    | zero => exact fun s hs => ⟨s, hs, rfl⟩
    | succ n ih =>
      intro s hs
      simp only [settleBlocksFor]
      split
      · next hc => exact ih _ (h.start hc hs)
      · exact ⟨s, hs, rfl⟩
  exact all _ s hs

/-- R164: a send start leaves the blocks and the circuits, and of a link all but its link-event pending flag. -/
theorem startSending_keeps (s : State) :
    (startSending s).sealer = s.sealer ∧ (startSending s).opener = s.opener ∧ (startSending s).keys = s.keys ∧
    (startSending s).trunk = s.trunk ∧ (startSending s).store.queues = s.store.queues ∧
    ∀ l, ∃ p, (startSending s).link l = { s.link l with eventPending := p } := by
  have hnotice : ∀ n rest, (sendNotice n rest s).sealer = s.sealer ∧ (sendNotice n rest s).opener = s.opener ∧
      (sendNotice n rest s).keys = s.keys ∧ (sendNotice n rest s).trunk = s.trunk ∧
      (sendNotice n rest s).store.queues = s.store.queues ∧
      ∀ l, ∃ p, (sendNotice n rest s).link l = { s.link l with eventPending := p } := by
    intro n rest
    cases n with
    | ready => exact ⟨rfl, rfl, rfl, rfl, rfl, fun _ => ⟨_, rfl⟩⟩
    | fault source kind => exact ⟨rfl, rfl, rfl, rfl, rfl, fun _ => ⟨_, rfl⟩⟩
    | link j =>
      refine ⟨rfl, rfl, rfl, rfl, rfl, fun l => ?_⟩
      change ∃ p, (s.modLink j fun k => { k with eventPending := false }).link l = _
      rw [State.link_modLink]
      split
      · next e => exact ⟨false, by rw [e]⟩
      · exact ⟨_, rfl⟩
  have htraffic : ∀ d rest, (sendTraffic d rest s).sealer = s.sealer ∧ (sendTraffic d rest s).opener = s.opener ∧
      (sendTraffic d rest s).keys = s.keys ∧ (sendTraffic d rest s).trunk = s.trunk ∧
      (sendTraffic d rest s).store.queues = s.store.queues ∧
      ∀ l, ∃ p, (sendTraffic d rest s).link l = { s.link l with eventPending := p } :=
    fun _ _ => ⟨rfl, rfl, rfl, rfl, rfl, fun _ => ⟨_, rfl⟩⟩
  unfold startSending
  split
  · exact ⟨rfl, rfl, rfl, rfl, rfl, fun _ => ⟨_, rfl⟩⟩
  · exact hnotice _ _
  · exact htraffic _ _
  · split
    · exact hnotice _ _
    · exact htraffic _ _
  · exact ⟨rfl, rfl, rfl, rfl, rfl, fun _ => ⟨_, rfl⟩⟩

theorem requestLaw_rest : RestKeeps (FramesLaw false []) RequestLaw where
  toEffectsKeep := framesLaw_effects false
  rest s hs := by
    obtain ⟨u, hu, e⟩ := settleBlocks_refreshed (framesLaw_effects false).toStartsKeep hs
    rw [e]
    exact requestLaw_refreshRequests hu.requests
  sending s _ hs := by
    obtain ⟨esealer, _, ekeys, etrunk, equeues, elink⟩ := startSending_keeps s
    have hmay : ∀ l, MaySeal (startSending s) l ↔ MaySeal s l := fun l => by
      obtain ⟨p, e⟩ := elink l
      simp only [MaySeal, State.transmitter, State.slot, State.queue, e, esealer, ekeys, etrunk, equeues]
    refine ⟨esealer ▸ hs.1, fun l => ?_⟩
    rw [hmay, esealer]
    exact hs.2 l
  port _ _ hs := hs
  commands _ _ hs := hs
  afterReset cause input s := by
    refine ⟨List.nodup_nil, fun l => ⟨fun hm => absurd hm List.not_mem_nil, fun hm => ?_⟩⟩
    obtain ⟨_, ⟨i, hi⟩, _⟩ := hm
    have hnone : tget (resetPart cause input s).trunk.live i = none := by
      simp [resetPart, State.afterReset, Trunk.reset, tget]
    rw [hnone] at hi
    cases hi

/-- R43: every step keeps the law of the sealer's request list. -/
theorem step_requestLaw {s t : State} (hs : RequestLaw s) (ht : step s = .next t) : RequestLaw t :=
  (requestLaw_rest.step ⟨⟨hs.1, fun hb => nomatch hb⟩, hs⟩ ht).2

end Sys2Proof.Machine
end

section
/-! The laws of the key roles, restated link by link and slot by slot; and what a change of one link, of one slot or
of an operation in flight leaves of them. -/

namespace Sys2Proof.Machine

/-! ### The law of one link's roles -/

/-- R2, R75: the law of a link's roles, read from its context and from the key slots. -/
structure RolesOk (s : State) (x : Link) : Prop where
  current : x.current.isSome ↔ x.live = true
  next : x.next.isSome ↔ x.renewal.state = .offering ∨ x.renewal.state = .derivingNext
  previous : x.previous.isSome ↔ x.renewal.state = .cutting
  active : x.renewal.state ≠ .quiet ∨ x.renewal.pendingTrigger = true → x.state = .active
  epochBefore : ∀ c p, x.current = some c → x.previous = some p → (s.slot p).epoch + 1 = (s.slot c).epoch
  epochAfter : ∀ c n, x.current = some c → x.next = some n →
    (s.slot n).epoch = (s.slot c).epoch + 1 ∧ (s.slot n).epoch = x.renewal.offeredEpoch
  previousReady : ∀ p, x.previous = some p → (s.slot p).state = .ready
  currentReady : ∀ c, x.current = some c → x.renewal.state = .derivingNext ∨ x.renewal.state = .cutting →
    (s.slot c).state = .ready
  offered : ∀ n, x.next = some n → x.renewal.state = .offering →
    (s.slot n).state = .derivingKeys ∧ (∀ r ∈ s.keys.requests, r.slot ≠ n) ∧ (s.slot n).inFlight = 0

theorem linkRoles_iff (s : State) (l : LinkId) : LinkRoles s l ↔ RolesOk s (s.link l) :=
  ⟨fun ⟨h1, h2, h3, h4, h5, h6, h7, h8, h9⟩ => ⟨h1, h2, h3, h4, h5, h6, h7, h8, h9⟩,
    fun ⟨h1, h2, h3, h4, h5, h6, h7, h8, h9⟩ => ⟨h1, h2, h3, h4, h5, h6, h7, h8, h9⟩⟩

theorem mem_rolesOf {x : Link} {k : SlotNo} :
    k ∈ rolesOf x ↔ x.previous = some k ∨ x.current = some k ∨ x.next = some k := by
  simp [rolesOf]

/-- The slot fills a role. -/
def FillsRole (x : KeySlot) : Prop := x.state = .derivingKeys ∨ x.state = .ready

/-- What the laws of the key roles read from a link. -/
def roleView (x : Link) :=
  (x.state, x.previous, x.current, x.next, x.lane, x.renewal.state, x.renewal.pendingTrigger,
    x.renewal.offeredEpoch, x.renewal.headNonce, x.renewal.shopNonce)

/-- What the laws of the key roles read from a slot, its in-flight count apart. -/
def slotView (x : KeySlot) := (x.state, x.owner, x.epoch)

theorem rolesOf_of_view {x y : Link} (h : roleView y = roleView x) : rolesOf y = rolesOf x := by
  simp only [roleView, Prod.mk.injEq] at h
  simp only [rolesOf, h]

/-- A link's roles stay in order where their epochs stay, where what is READY stays so, where the slot that an OFFER
is out for stays as it is, and where no derivation is requested for it. -/
theorem RolesOk.advance {s t : State} {x y : Link} (h : RolesOk s x) (hx : roleView y = roleView x)
    (hs : ∀ k ∈ rolesOf x, (t.slot k).epoch = (s.slot k).epoch ∧
      ((s.slot k).state = .ready → (t.slot k).state = .ready) ∧
      (x.next = some k → x.renewal.state = .offering → (t.slot k).state = (s.slot k).state ∧
        ((s.slot k).inFlight = 0 → (t.slot k).inFlight = 0)))
    (hr : ∀ r ∈ t.keys.requests, r ∈ s.keys.requests ∨ (x.next = some r.slot → x.renewal.state ≠ .offering)) :
    RolesOk t y := by
  simp only [roleView, Prod.mk.injEq] at hx
  obtain ⟨estate, eprevious, ecurrent, enext, -, erenewal, epending, eoffered, -, -⟩ := hx
  have hp : ∀ {p}, x.previous = some p → p ∈ rolesOf x := fun e => mem_rolesOf.2 (.inl e)
  have hc : ∀ {c}, x.current = some c → c ∈ rolesOf x := fun e => mem_rolesOf.2 (.inr (.inl e))
  have hn : ∀ {n}, x.next = some n → n ∈ rolesOf x := fun e => mem_rolesOf.2 (.inr (.inr e))
  have hepoch : ∀ {k}, k ∈ rolesOf x → (t.slot k).epoch = (s.slot k).epoch := fun hk => (hs _ hk).1
  refine ⟨?_, ?_, ?_, ?_, ?_, ?_, ?_, ?_, ?_⟩
  · rw [ecurrent, Link.live, estate]
    exact h.current
  · rw [enext, erenewal]
    exact h.next
  · rw [eprevious, erenewal]
    exact h.previous
  · rw [erenewal, epending, estate]
    exact h.active
  · rw [ecurrent, eprevious]
    intro c p ec ep
    rw [hepoch (hp ep), hepoch (hc ec)]
    exact h.epochBefore c p ec ep
  · rw [ecurrent, enext, eoffered]
    intro c n ec en
    rw [hepoch (hn en), hepoch (hc ec)]
    exact h.epochAfter c n ec en
  · rw [eprevious]
    exact fun p ep => (hs p (hp ep)).2.1 (h.previousReady p ep)
  · rw [ecurrent, erenewal]
    exact fun c ec hst => (hs c (hc ec)).2.1 (h.currentReady c ec hst)
  · rw [enext, erenewal]
    intro n en hst
    obtain ⟨hderiving, hnone, hzero⟩ := h.offered n en hst
    obtain ⟨hsame, hflight⟩ := (hs n (hn en)).2.2 en hst
    refine ⟨hsame.trans hderiving, fun r hm e => ?_, hflight hzero⟩
    rcases hr r hm with hm | hm
    · exact hnone r hm e
    · exact hm (e ▸ en) hst

/-- A link's roles stay in order where its slots do, but for in-flight counts, and where no derivation is requested
for a role. -/
theorem RolesOk.mono {s t : State} {x y : Link} (h : RolesOk s x) (hx : roleView y = roleView x)
    (hs : ∀ k ∈ rolesOf x, slotView (t.slot k) = slotView (s.slot k) ∧
      (x.next = some k → x.renewal.state = .offering → (s.slot k).inFlight = 0 → (t.slot k).inFlight = 0))
    (hr : ∀ r ∈ t.keys.requests, r ∈ s.keys.requests ∨ r.slot ∉ rolesOf x) : RolesOk t y := by
  refine h.advance hx (fun k hk => ?_) fun r hm => (hr r hm).imp_right fun hn e =>
    absurd (mem_rolesOf.2 (.inr (.inr e))) hn
  obtain ⟨hview, hflight⟩ := hs k hk
  have hstate : (t.slot k).state = (s.slot k).state := congrArg Prod.fst hview
  exact ⟨congrArg (fun v => v.2.2) hview, hstate.trans, fun hn hst => ⟨hstate, hflight hn hst⟩⟩

/-- A lane stays in order where a READY next slot stays so. -/
theorem LaneTable.advance {s t : State} {x y : Link} (h : LaneTable s x) (hx : roleView y = roleView x)
    (hs : ∀ n, x.next = some n → (s.slot n).state = .ready → (t.slot n).state = .ready) : LaneTable t y := by
  simp only [roleView, Prod.mk.injEq] at hx
  obtain ⟨-, -, -, enext, elane, erenewal, -, eoffered, ehead, eshop⟩ := hx
  unfold LaneTable at h ⊢
  rw [elane]
  rcases hl : x.lane with _ | m
  · trivial
  · rw [hl] at h
    cases m with
    | offer epoch nonce attempt =>
      simp only [erenewal, eoffered, ehead]
      exact h
    | cutover epoch head shop =>
      obtain ⟨hstate, hepoch, hhead, hshop, hready⟩ := h
      simp only [erenewal, eoffered, ehead, eshop, enext]
      exact ⟨hstate, hepoch, hhead, hshop, fun n en => hs n en (hready n en)⟩

/-- A lane stays in order where its link's slots do. -/
theorem LaneTable.mono {s t : State} {x y : Link} (h : LaneTable s x) (hx : roleView y = roleView x)
    (hs : ∀ k ∈ rolesOf x, slotView (t.slot k) = slotView (s.slot k)) : LaneTable t y :=
  h.advance hx fun n hn => (congrArg Prod.fst (hs n (mem_rolesOf.2 (.inr (.inr hn))))).trans

/-! ### The law of the whole -/

/-- The laws of the key roles, but that links may wait while a slot is FREE, and that an operation may have begun on
one slot more than the blocks have records of. -/
structure RoleCore (extra : Option SlotNo) (s : State) : Prop where
  roles : ∀ l, RolesOk s (s.link l)
  lane : ∀ l, LaneTable s (s.link l)
  free : ∀ k, (s.slot k).state = .free → s.slot k = {}
  fills : ∀ k, FillsRole (s.slot k) → (rolesOf (s.link (s.slot k).owner)).count k = 1
  role : ∀ l, ∀ k ∈ rolesOf (s.link l), (s.slot k).owner = l ∧ FillsRole (s.slot k)
  drains : ∀ k, (s.slot k).state = .draining → (s.slot k).inFlight ≠ 0
  inFlight : ∀ k, (s.slot k).inFlight = operationsOn s k + if extra = some k then 1 else 0
  epoch : ∀ k, (s.slot k).epoch ≤ 65535
  derivations : Derivations s
  frames : FramesUnderKeys s
  waitNodup : s.keys.waitList.Nodup
  waits : ∀ l, l ∈ s.keys.waitList ↔ (s.link l).renewal.pendingTrigger = true
  waitQuiet : ∀ l, (s.link l).renewal.pendingTrigger = true → (s.link l).renewal.state = .quiet ∧
    ∀ c, (s.link l).current = some c → (s.slot c).epoch ≠ 65535

theorem roleLaw_iff (s : State) : RoleLaw s ↔ RoleCore none s ∧ WaitersServed s := by
  constructor
  · rintro ⟨hroles, hlane, ⟨hfree, hfills, hrole, hdrains, hinFlight, hepoch⟩, hderivations, hframes, hnodup, hwaits,
      hquiet, hserved⟩
    refine ⟨⟨fun l => (linkRoles_iff s l).1 (hroles l), hlane, hfree, hfills, hrole, hdrains, hinFlight, hepoch,
      hderivations, hframes, hnodup, hwaits, fun l hl => (hquiet l ((hwaits l).2 hl)).2⟩, hserved⟩
  · rintro ⟨h, hserved⟩
    refine ⟨fun l => (linkRoles_iff s l).2 (h.roles l), h.lane,
      ⟨h.free, h.fills, h.role, h.drains, h.inFlight, h.epoch⟩, h.derivations, h.frames, h.waitNodup, h.waits, fun l hl => ?_, hserved⟩
    have hp := (h.waits l).1 hl
    exact ⟨(h.roles l).active (.inr hp), h.waitQuiet l hp⟩

namespace RoleCore

variable {extra : Option SlotNo} {s : State} (h : RoleCore extra s)
include h

/-- A slot that fills a role is a role of its owner alone. -/
theorem mem_rolesOf_iff {l : LinkId} {k : SlotNo} :
    k ∈ rolesOf (s.link l) ↔ (s.slot k).owner = l ∧ FillsRole (s.slot k) := by
  refine ⟨h.role l k, fun ⟨hl, hk⟩ => ?_⟩
  have := h.fills k hk
  rw [hl] at this
  exact List.count_pos_iff.1 (by omega)

theorem count_rolesOf {l : LinkId} {k : SlotNo} (hk : k ∈ rolesOf (s.link l)) :
    (rolesOf (s.link l)).count k = 1 := by
  obtain ⟨hl, hfills⟩ := h.role l k hk
  exact hl ▸ h.fills k hfills

/-- R28: an operation in flight is counted. -/
theorem inFlight_pos {k : SlotNo} (hk : operationsOn s k ≠ 0) : (s.slot k).inFlight ≠ 0 := by
  have := h.inFlight k
  omega

end RoleCore

theorem operationsOn_eq (s : State) (k : SlotNo) : operationsOn s k =
    (if s.sealer.current.map (fun r => r.slot) = some k then 1 else 0) +
    (if s.opener.current.map (fun r => r.slot) = some k then 1 else 0) +
    (if s.keys.derivation.map (fun d => d.request.slot) = some k then 1 else 0) := by
  have hone : ∀ {α : Type} (o : Option α) (f : α → SlotNo),
      (o.toList.filter fun x => f x = k).length = if o.map f = some k then 1 else 0 := fun o f => by
    cases o with
    | none => rfl
    | some x => by_cases hx : f x = k <;> simp [hx]
  rw [operationsOn, hone _ fun r : Sealing => r.slot, hone _ fun r : Opening => r.slot,
    hone _ fun d : Derivation => d.request.slot]

theorem operationsOn_sealing {s : State} {r : Sealing} (hr : s.sealer.current = some r) :
    operationsOn s r.slot ≠ 0 := by
  simp [operationsOn, hr]

theorem operationsOn_opening {s : State} {r : Opening} (hr : s.opener.current = some r) :
    operationsOn s r.slot ≠ 0 := by
  simp [operationsOn, hr]

theorem operationsOn_derivation {s : State} {d : Derivation} (hd : s.keys.derivation = some d) :
    operationsOn s d.request.slot ≠ 0 := by
  simp [operationsOn, hd]

/-- What the laws of the key roles read from the operations in flight and from the lists of the key store. -/
def operationsView (s : State) :=
  (s.sealer.current.map fun r => (r.link, r.slot, r.discard), s.opener.current.map fun r => (r.link, r.slot, r.discard),
    s.keys.derivation.map fun d => d.request, s.keys.requests, s.keys.waitList)

theorem operationsOn_of_view {s t : State} (h : operationsView t = operationsView s) (k : SlotNo) :
    operationsOn t k = operationsOn s k := by
  simp only [operationsView, Prod.mk.injEq] at h
  obtain ⟨hsealing, hopening, hderivation, -, -⟩ := h
  have e1 := congrArg (Option.map fun v : LinkId × SlotNo × Bool => v.2.1) hsealing
  have e2 := congrArg (Option.map fun v : LinkId × SlotNo × Bool => v.2.1) hopening
  have e3 := congrArg (Option.map fun r : DerivationRequest => r.slot) hderivation
  simp only [Option.map_map] at e1 e2 e3
  rw [operationsOn_eq, operationsOn_eq]
  exact congrArg₂ (· + ·) (congrArg₂ (· + ·) (congrArg (fun o => if o = some k then 1 else 0) e1)
    (congrArg (fun o => if o = some k then 1 else 0) e2)) (congrArg (fun o => if o = some k then 1 else 0) e3)

/-- R56, R57: what holds of a frame in sealing. -/
def SealingOk (s : State) (l : LinkId) (k : SlotNo) (discard : Bool) : Prop :=
  if discard then (s.slot k).state = .draining
  else (s.link l).current = some k ∧ (s.slot k).state = .ready

/-- R68, R73: what holds of a frame in opening. -/
def OpeningOk (s : State) (l : LinkId) (k : SlotNo) (discard : Bool) : Prop :=
  if discard then (s.slot k).state = .draining
  else roleReady s (s.link l).current = true ∧
    ((s.slot k).state = .draining ∨ ((s.slot k).state = .ready ∧ (s.slot k).owner = l))

theorem roleReady_of_some {s : State} {role : Option SlotNo} {k : SlotNo} (hr : role = some k)
    (hk : (s.slot k).state = .ready) : roleReady s role = true :=
  (roleReady_iff s role).2 ⟨k, hr, hk⟩

/-- R68: a frame in opening stays under its key where the slots that it reads stay READY, or drain. -/
theorem OpeningOk.mono {s t : State} {l : LinkId} {k : SlotNo} {discard : Bool} (h : OpeningOk s l k discard)
    (hk : slotView (t.slot k) = slotView (s.slot k) ∨ (t.slot k).state = .draining)
    (hc : roleReady s (s.link l).current = true → roleReady t (t.link l).current = true) :
    OpeningOk t l k discard := by
  unfold OpeningOk at h ⊢
  cases discard with
  | true =>
    simp only [if_true] at h ⊢
    exact hk.elim (fun e => (congrArg Prod.fst e).trans h) id
  | false =>
    simp only [Bool.false_eq_true, if_false] at h ⊢
    refine ⟨hc h.1, hk.elim (fun e => ?_) .inl⟩
    have estate : (t.slot k).state = (s.slot k).state := congrArg Prod.fst e
    have eowner : (t.slot k).owner = (s.slot k).owner := congrArg (fun v => v.2.1) e
    rw [estate, eowner]
    exact h.2

namespace RoleCore

variable {extra : Option SlotNo} {s : State} (h : RoleCore extra s)
include h

/-- R56: the slot of a frame in sealing is READY or DRAINING. -/
theorem sealing_ok {r : Sealing} (hr : s.sealer.current = some r) : SealingOk s r.link r.slot r.discard :=
  h.frames.1 r hr

theorem opening_ok {r : Opening} (hr : s.opener.current = some r) : OpeningOk s r.link r.slot r.discard :=
  h.frames.2 r hr

/-- A link whose context, roles and requests stay is in order. -/
theorem roles_of_same {t : State} {j : LinkId} (hl : roleView (t.link j) = roleView (s.link j))
    (hs : ∀ k ∈ rolesOf (s.link j), slotView (t.slot k) = slotView (s.slot k) ∧
      ((s.link j).next = some k → (s.link j).renewal.state = .offering → (s.slot k).inFlight = 0 →
        (t.slot k).inFlight = 0))
    (hr : ∀ r ∈ t.keys.requests, r ∈ s.keys.requests ∨ r.slot ∉ rolesOf (s.link j)) :
    RolesOk t (t.link j) ∧ LaneTable t (t.link j) :=
  ⟨(h.roles j).mono hl hs hr, LaneTable.mono (h.lane j) hl fun k hk => (hs k hk).1⟩

/-- The laws do not look at what is outside the views. -/
theorem of_views {t : State} (hl : ∀ l, roleView (t.link l) = roleView (s.link l))
    (hs : ∀ k, t.slot k = s.slot k ∨ (s.slot k).state ≠ .free ∧ slotView (t.slot k) = slotView (s.slot k) ∧
      (t.slot k).inFlight = (s.slot k).inFlight)
    (ho : operationsView t = operationsView s) : RoleCore extra t := by
  have hview : ∀ k, slotView (t.slot k) = slotView (s.slot k) ∧ (t.slot k).inFlight = (s.slot k).inFlight := fun k =>
    (hs k).elim (fun e => ⟨by rw [e], by rw [e]⟩) fun e => e.2
  have estate : ∀ k, (t.slot k).state = (s.slot k).state := fun k => congrArg Prod.fst (hview k).1
  have eowner : ∀ k, (t.slot k).owner = (s.slot k).owner := fun k => congrArg (fun v => v.2.1) (hview k).1
  have eepoch : ∀ k, (t.slot k).epoch = (s.slot k).epoch := fun k => congrArg (fun v => v.2.2) (hview k).1
  have eflight : ∀ k, (t.slot k).inFlight = (s.slot k).inFlight := fun k => (hview k).2
  have eroles : ∀ l, rolesOf (t.link l) = rolesOf (s.link l) := fun l => rolesOf_of_view (hl l)
  have ecurrent : ∀ l, (t.link l).current = (s.link l).current := fun l => congrArg (fun v => v.2.2.1) (hl l)
  have erenewal : ∀ l, (t.link l).renewal.state = (s.link l).renewal.state :=
    fun l => congrArg (fun v => v.2.2.2.2.2.1) (hl l)
  have epending : ∀ l, (t.link l).renewal.pendingTrigger = (s.link l).renewal.pendingTrigger :=
    fun l => congrArg (fun v => v.2.2.2.2.2.2.1) (hl l)
  have eready : ∀ l, roleReady t (t.link l).current = roleReady s (s.link l).current := fun l => by
    rw [ecurrent]
    cases (s.link l).current with
    | none => rfl
    | some k => simp only [roleReady, estate]
  have hops := operationsOn_of_view ho
  simp only [operationsView, Prod.mk.injEq] at ho
  obtain ⟨hsealing, hopening, hderivation, hrequests, hwait⟩ := ho
  have hlink := fun l => h.roles_of_same (t := t) (hl l) (fun k _ => ⟨(hview k).1, fun _ _ e => (eflight k).trans e⟩)
    fun r hr => .inl (hrequests ▸ hr)
  refine ⟨fun l => (hlink l).1, fun l => (hlink l).2, fun k hk => ?_, fun k hk => ?_, fun l k hk => ?_, fun k hk => ?_,
    fun k => ?_, fun k => ?_, ⟨?_, fun r hr => ?_, fun d hd => ?_⟩, ⟨fun r hr => ?_, fun r hr => ?_⟩, ?_, fun l => ?_,
    fun l hp => ?_⟩
  · rcases hs k with e | ⟨hne, _⟩
    · rw [e] at hk ⊢
      exact h.free k hk
    · exact absurd ((estate k).symm.trans hk) hne
  · rw [eowner, eroles]
    refine h.fills k ?_
    rwa [FillsRole, estate] at hk
  · rw [eroles] at hk
    rw [eowner, FillsRole, estate]
    exact h.role l k hk
  · rw [eflight]
    exact h.drains k ((estate k).symm.trans hk)
  · rw [eflight, hops]
    exact h.inFlight k
  · rw [eepoch]
    exact h.epoch k
  · rw [hrequests]
    exact h.derivations.1
  · rw [estate, eowner, eepoch, eflight]
    exact h.derivations.2.1 r (hrequests ▸ hr)
  · have hd' := hderivation.symm.trans (congrArg (Option.map fun d => d.request) hd)
    obtain ⟨d', hd'', e⟩ := Option.map_eq_some_iff.1 hd'
    have e' : d'.request = d.request := e
    rw [hrequests, estate, eowner, ← e']
    exact h.derivations.2.2 d' hd''
  · have hr' := hsealing.symm.trans (congrArg (Option.map fun r => (r.link, r.slot, r.discard)) hr)
    obtain ⟨r', hr'', e⟩ := Option.map_eq_some_iff.1 hr'
    have hok := h.sealing_ok hr''
    simp only [Prod.mk.injEq] at e
    obtain ⟨el, ek, ed⟩ := e
    rw [SealingOk, el, ek, ed] at hok
    rw [estate, ecurrent]
    exact hok
  · have hr' := hopening.symm.trans (congrArg (Option.map fun r => (r.link, r.slot, r.discard)) hr)
    obtain ⟨r', hr'', e⟩ := Option.map_eq_some_iff.1 hr'
    have hok := h.opening_ok hr''
    simp only [Prod.mk.injEq] at e
    obtain ⟨el, ek, ed⟩ := e
    rw [OpeningOk, el, ek, ed] at hok
    rw [estate, eready, eowner]
    exact hok
  · exact hwait ▸ h.waitNodup
  · rw [hwait, epending]
    exact h.waits l
  · rw [erenewal, ecurrent]
    obtain ⟨hquiet, hepoch⟩ := h.waitQuiet l ((epending l).symm.trans hp)
    exact ⟨hquiet, fun c hc => by rw [eepoch]; exact hepoch c hc⟩

end RoleCore

end Sys2Proof.Machine
end

section
/-! The laws of the key roles through the operations of the key store: a change of one link, the start of a renewal
and the hand-over, releases, and operations that begin and complete on a slot. -/

namespace Sys2Proof.Machine

/-- R27: `t` is `s` with a FREE slot allocated to a link for an epoch: the link has changed and waits no more, and
a derivation may be requested for the slot. -/
structure Allocates (s t : State) (l : LinkId) (k : SlotNo) (e : Nat) : Prop where
  free : (s.slot k).state = .free
  link : ∀ j, l ≠ j → t.link j = s.link j
  slot : ∀ i, t.slot i = if k = i then allocatedSlot l e else s.slot i
  requests : t.keys.requests = s.keys.requests ∨
    ∃ r : DerivationRequest, r.slot = k ∧ r.link = l ∧ r.epoch = e ∧ t.keys.requests = s.keys.requests ++ [r]
  sealer : t.sealer.current = s.sealer.current
  opener : t.opener.current = s.opener.current
  derivation : t.keys.derivation = s.keys.derivation
  waitNodup : t.keys.waitList.Nodup
  waits : ∀ j, j ∈ t.keys.waitList ↔ j ∈ s.keys.waitList ∧ j ≠ l

/-- R17, R29, R85, R93, R94: `t` is `s` with slots of a link released; the link has changed and waits no more. It
keeps its current slot, or it loses every role and its frames in sealing and in opening are marked. -/
structure Releases (s t : State) (l : LinkId) (ks : List SlotNo) : Prop where
  link : ∀ j, l ≠ j → t.link j = s.link j
  slot : ∀ k, t.slot k = (released ks s).slot k
  requests : t.keys.requests = (released ks s).keys.requests
  derivation : t.keys.derivation = s.keys.derivation
  waitList : t.keys.waitList = s.keys.waitList.filter fun j => decide (j ≠ l)
  count : ∀ k, (rolesOf (s.link l)).count k = (rolesOf (t.link l)).count k + ks.count k
  frames : ((t.link l).current = (s.link l).current ∧ t.sealer.current = s.sealer.current ∧
      t.opener.current = s.opener.current) ∨
    (rolesOf (t.link l) = [] ∧ t.sealer.current = s.sealer.current.map (markedSealing l) ∧
      t.opener.current = s.opener.current.map (markedOpening l))

theorem markedSealing_slot (l : LinkId) (r : Sealing) : (markedSealing l r).slot = r.slot := by
  unfold markedSealing
  split <;> rfl

theorem markedOpening_slot (l : LinkId) (r : Opening) : (markedOpening l r).slot = r.slot := by
  unfold markedOpening
  split <;> rfl

theorem Releases.operationsOn {s t : State} {l : LinkId} {ks : List SlotNo} (ht : Releases s t l ks) (k : SlotNo) :
    operationsOn t k = operationsOn s k := by
  rw [operationsOn_eq, operationsOn_eq, ht.derivation]
  rcases ht.frames with ⟨_, hs, ho⟩ | ⟨_, hs, ho⟩ <;> rw [hs, ho]
  have es : (fun r : Sealing => (markedSealing l r).slot) = fun r => r.slot := funext (markedSealing_slot l)
  have eo : (fun r : Opening => (markedOpening l r).slot) = fun r => r.slot := funext (markedOpening_slot l)
  simp only [Option.map_map, Function.comp_def, es, eo]

namespace RoleCore

variable {extra : Option SlotNo} {s : State} (h : RoleCore extra s)
include h

/-! ### One link changed -/

theorem modLink_same {l : LinkId} {f : Link → Link}
    (hf : ∀ x, roleView (f x) = roleView x := by exact fun _ => rfl) : RoleCore extra (s.modLink l f) := by
  refine h.of_views (fun j => ?_) (fun _ => .inl rfl) rfl
  rw [State.link_modLink]
  split
  · next e => rw [hf, e]
  · rfl

/-- A change of a link that keeps its roles and the READY current slot of its frames, with the key wait list that
follows its pending trigger. -/
theorem modLink_waitList {l : LinkId} {f : Link → Link} {w : List LinkId} (hroles : RolesOk s (f (s.link l)))
    (hlane : LaneTable s (f (s.link l)))
    (hcount : ∀ k, (rolesOf (f (s.link l))).count k = (rolesOf (s.link l)).count k)
    (hcurrent : (f (s.link l)).current = (s.link l).current ∨ s.sealer.current = none ∧
      roleReady s (f (s.link l)).current = true)
    (hnodup : w.Nodup)
    (hwaits : ∀ j, j ∈ w ↔ if l = j then (f (s.link l)).renewal.pendingTrigger = true else j ∈ s.keys.waitList)
    (hquiet : (f (s.link l)).renewal.pendingTrigger = true → (f (s.link l)).renewal.state = .quiet ∧
      ∀ c, (f (s.link l)).current = some c → (s.slot c).epoch ≠ 65535) :
    RoleCore extra ((s.modLink l f).setWaitList w) := by
  have hlink : ∀ j, ((s.modLink l f).setWaitList w).link j = if l = j then f (s.link l) else s.link j :=
    fun j => (State.link_setWaitList _ w j).trans (State.link_modLink s l f j)
  have hcounts : ∀ j k, (rolesOf (((s.modLink l f).setWaitList w).link j)).count k = (rolesOf (s.link j)).count k :=
    fun j k => by
      rw [hlink]
      split
      · next e => rw [hcount, e]
      · rfl
  have hready : ∀ j, roleReady s (s.link j).current = true →
      roleReady ((s.modLink l f).setWaitList w) (((s.modLink l f).setWaitList w).link j).current = true :=
      fun j hj => by
    have hsame : ∀ role, roleReady ((s.modLink l f).setWaitList w) role = roleReady s role := fun _ => rfl
    rw [hsame, hlink]
    split
    · next e =>
      rcases hcurrent with e' | ⟨_, hc⟩
      · rw [e', e]
        exact hj
      · exact hc
    · exact hj
  refine ⟨fun j => ?_, fun j => ?_, h.free, fun k hk => ?_, fun j k hk => ?_, h.drains, h.inFlight, h.epoch,
    h.derivations, ⟨fun r hr => ?_, fun r hr => OpeningOk.mono (h.opening_ok hr) (.inl rfl) (hready _)⟩, hnodup,
    fun j => (hwaits j).trans ?_, fun j hp => ?_⟩
  · rw [hlink]
    split
    · exact hroles.mono rfl (fun _ _ => ⟨rfl, fun _ _ => id⟩) fun _ hr => .inl hr
    · exact (h.roles j).mono rfl (fun _ _ => ⟨rfl, fun _ _ => id⟩) fun _ hr => .inl hr
  · rw [hlink]
    split
    · exact hlane
    · exact h.lane j
  · rw [hcounts]
    exact h.fills k hk
  · refine h.role j k (List.count_pos_iff.1 ?_)
    rw [← hcounts]
    exact List.count_pos_iff.2 hk
  · have hok := h.sealing_ok hr
    unfold SealingOk at hok
    split
    · next hd =>
      rw [if_pos hd] at hok
      exact hok
    · next hd =>
      rw [if_neg hd] at hok
      refine ⟨?_, hok.2⟩
      rw [hlink]
      split
      · next e =>
        rcases hcurrent with e' | ⟨hnone, _⟩
        · rw [e', e]
          exact hok.1
        · have hr' : s.sealer.current = some r := hr
          rw [hnone] at hr'
          cases hr'
      · exact hok.1
  · rw [hlink]
    split
    · exact Iff.rfl
    · exact h.waits j
  · rw [hlink] at hp ⊢
    split
    · next e =>
      rw [if_pos e] at hp
      exact hquiet hp
    · next e =>
      rw [if_neg e] at hp
      exact h.waitQuiet j hp

/-- A change of a link that keeps its roles, its pending trigger, and the READY current slot of its frames. -/
theorem modLink {l : LinkId} {f : Link → Link} (hroles : RolesOk s (f (s.link l))) (hlane : LaneTable s (f (s.link l)))
    (hcount : ∀ k, (rolesOf (f (s.link l))).count k = (rolesOf (s.link l)).count k)
    (hcurrent : (f (s.link l)).current = (s.link l).current ∨ s.sealer.current = none ∧
      roleReady s (f (s.link l)).current = true)
    (hpending : (f (s.link l)).renewal.pendingTrigger = (s.link l).renewal.pendingTrigger)
    (hquiet : (s.link l).renewal.pendingTrigger = true →
      (f (s.link l)).renewal.state = .quiet ∧ (f (s.link l)).current = (s.link l).current) :
    RoleCore extra (s.modLink l f) := by
  refine h.modLink_waitList (w := s.keys.waitList) hroles hlane hcount hcurrent h.waitNodup (fun j => ?_) fun hp => ?_
  · rw [hpending]
    split
    · next e => exact e ▸ h.waits l
    · exact Iff.rfl
  · rw [hpending] at hp
    obtain ⟨hq, hc⟩ := hquiet hp
    exact ⟨hq, fun c ec => (h.waitQuiet l hp).2 c (hc ▸ ec)⟩

/-- R75: a link that is QUIET fills neither its next nor its previous role. -/
theorem roles_of_quiet {l : LinkId} (hquiet : (s.link l).renewal.state = .quiet) :
    (s.link l).next = none ∧ (s.link l).previous = none := by
  have hnext := (h.roles l).next
  have hprevious := (h.roles l).previous
  rw [hquiet] at hnext hprevious
  exact ⟨by simpa using hnext, by simpa using hprevious⟩

end RoleCore

namespace RoleCore

variable {s : State} (h : RoleCore none s)
include h

/-! ### A FREE slot allocated, the start of a renewal and the hand-over -/

/-- R27: an allocation keeps the laws where it keeps those of its link. -/
theorem allocate {t : State} {l : LinkId} {k : SlotNo} {e : Nat} (ht : Allocates s t l k e)
    (he : e ≤ 65535) (hroles : RolesOk t (t.link l)) (hlane : LaneTable t (t.link l))
    (hcount : ∀ i, (rolesOf (t.link l)).count i = (rolesOf (s.link l)).count i + if k = i then 1 else 0)
    (hcurrent : (s.link l).current = none ∨ (t.link l).current = (s.link l).current)
    (hpending : (t.link l).renewal.pendingTrigger = false) : RoleCore none t := by
  have hnotRole : ∀ {j i}, i ∈ rolesOf (s.link j) → i ≠ k := fun {j i} hm e => by
    have := (h.role j i hm).2
    rw [FillsRole, e, ht.free] at this
    simp at this
  have hother : ∀ {i}, i ≠ k → t.slot i = s.slot i := fun hi => by rw [ht.slot, if_neg (Ne.symm hi)]
  have hsame : t.slot k = allocatedSlot l e := by rw [ht.slot, if_pos rfl]
  have hops : ∀ i, operationsOn t i = operationsOn s i := fun i => by
    rw [operationsOn, operationsOn, ht.sealer, ht.opener, ht.derivation]
  have hopsk : ∀ {i}, operationsOn s i ≠ 0 → i ≠ k := fun {i} hi e => by
    have := h.inFlight k
    rw [h.free k ht.free] at this
    exact hi (e ▸ by simpa using this.symm)
  have hrk : ∀ r ∈ s.keys.requests, r.slot ≠ k := fun r hr e => by
    have := (h.derivations.2.1 r hr).1
    rw [e, ht.free] at this
    cases this
  have hmem : ∀ {r}, r ∈ t.keys.requests → r ∈ s.keys.requests ∨ r.slot = k ∧ r.link = l ∧ r.epoch = e := fun hr => by
    rcases ht.requests with e' | ⟨r', hs, hl, hr', e'⟩
    · exact .inl (e' ▸ hr)
    · rw [e'] at hr
      exact (List.mem_append.1 hr).imp_right fun hr => by rw [List.mem_singleton.1 hr]; exact ⟨hs, hl, hr'⟩
  have hready : ∀ {role : Option SlotNo}, roleReady s role = true → roleReady t role = true := fun hr => by
    obtain ⟨i, hi, hstate⟩ := (roleReady_iff s _).1 hr
    have hik : i ≠ k := fun e => by rw [e, ht.free] at hstate; cases hstate
    exact roleReady_of_some hi (by rw [hother hik]; exact hstate)
  have hcurrents : ∀ {j c}, (s.link j).current = some c → (t.link j).current = some c := fun {j c} hc => by
    by_cases hj : l = j
    · subst hj
      rcases hcurrent with e | e
      · rw [hc] at e
        cases e
      · rw [e, hc]
    · rw [ht.link j hj, hc]
  have hothers : ∀ j, l ≠ j → RolesOk t (t.link j) ∧ LaneTable t (t.link j) := fun j hj =>
    h.roles_of_same (by rw [ht.link j hj])
      (fun i hi => by rw [hother (hnotRole hi)]; exact ⟨rfl, fun _ _ => id⟩) fun r hr => (hmem hr).imp_right fun e hm => hnotRole hm e.1
  have hcounts : ∀ j i, (rolesOf (t.link j)).count i = (rolesOf (s.link j)).count i + if l = j ∧ k = i then 1 else 0 :=
    fun j i => by
      by_cases hj : l = j
      · subst hj
        simpa using hcount i
      · simp [ht.link j hj, hj]
  refine ⟨fun j => ?_, fun j => ?_, fun i hi => ?_, fun i hi => ?_, fun j i hi => ?_, fun i hi => ?_, fun i => ?_,
    fun i => ?_, ⟨?_, fun r hr => ?_, fun d hd => ?_⟩, ⟨fun r hr => ?_, fun r hr => ?_⟩, ht.waitNodup, fun j => ?_,
    fun j hp => ?_⟩
  · by_cases hj : l = j
    · exact hj ▸ hroles
    · exact (hothers j hj).1
  · by_cases hj : l = j
    · exact hj ▸ hlane
    · exact (hothers j hj).2
  · by_cases hik : i = k
    · rw [hik, hsame] at hi
      cases hi
    · rw [hother hik] at hi ⊢
      exact h.free i hi
  · by_cases hik : i = k
    · have hzero : (rolesOf (s.link l)).count k = 0 := List.count_eq_zero.2 fun hm => hnotRole hm rfl
      rw [hik, hcounts, hsame]
      simp [allocatedSlot, hzero]
    · rw [hother hik] at hi ⊢
      rw [hcounts, h.fills i hi, if_neg fun e => hik e.2.symm]
  · have hpos := List.count_pos_iff.2 hi
    rw [hcounts] at hpos
    by_cases hik : l = j ∧ k = i
    · rw [← hik.2, hsame]
      exact ⟨hik.1, .inl rfl⟩
    · rw [if_neg hik, Nat.add_zero] at hpos
      have hm := List.count_pos_iff.1 hpos
      rw [hother (hnotRole hm)]
      exact h.role j i hm
  · by_cases hik : i = k
    · rw [hik, hsame] at hi
      cases hi
    · rw [hother hik] at hi ⊢
      exact h.drains i hi
  · by_cases hik : i = k
    · rw [hops, hik, hsame]
      exact (Nat.eq_zero_of_not_pos fun hp => hopsk (Nat.pos_iff_ne_zero.1 hp) rfl).symm
    · rw [hops, hother hik]
      exact h.inFlight i
  · rw [ht.slot]
    split
    · exact he
    · exact h.epoch i
  · rcases ht.requests with e' | ⟨r, hs, _, _, e'⟩
    · rw [e']
      exact h.derivations.1
    · rw [e', List.map_append, List.nodup_append]
      refine ⟨h.derivations.1, List.nodup_singleton _, ?_⟩
      rintro i hi _ hm rfl
      obtain ⟨r', hr', e''⟩ := List.mem_map.1 hi
      exact hrk r' hr' (e''.trans ((List.mem_singleton.1 hm).trans hs))
  · rcases hmem hr with hr | ⟨hs, hl, hr⟩
    · rw [hother (hrk r hr)]
      exact h.derivations.2.1 r hr
    · rw [hs, hl, hr, hsame]
      exact ⟨rfl, rfl, rfl, rfl⟩
  · rw [ht.derivation] at hd
    have hdk := hopsk (operationsOn_derivation hd)
    rw [hother hdk]
    obtain ⟨hnone, hstate⟩ := h.derivations.2.2 d hd
    exact ⟨fun r hr => (hmem hr).elim (hnone r) fun e' e'' => hdk (e''.symm.trans e'.1), hstate⟩
  · rw [ht.sealer] at hr
    have hok := h.sealing_ok hr
    unfold SealingOk at hok
    rw [hother (hopsk (operationsOn_sealing hr))]
    split
    · next hd => rwa [if_pos hd] at hok
    · next hd =>
      rw [if_neg hd] at hok
      exact ⟨hcurrents hok.1, hok.2⟩
  · rw [ht.opener] at hr
    refine OpeningOk.mono (h.opening_ok hr) (.inl (by rw [hother (hopsk (operationsOn_opening hr))])) fun hc => ?_
    obtain ⟨c, hc', _⟩ := (roleReady_iff s _).1 hc
    rw [hcurrents hc', ← hc']
    exact hready hc
  · by_cases hj : l = j
    · subst hj
      simp [ht.waits, hpending]
    · rw [ht.waits, ht.link j hj, h.waits j]
      exact ⟨fun e => e.1, fun e => ⟨e, Ne.symm hj⟩⟩
  · by_cases hj : l = j
    · subst hj
      rw [hpending] at hp
      cases hp
    · rw [ht.link j hj] at hp ⊢
      obtain ⟨hq, hne⟩ := h.waitQuiet j hp
      exact ⟨hq, fun c hc => by rw [hother (hnotRole (mem_rolesOf.2 (.inr (.inl hc))))]; exact hne c hc⟩

/-- R80, R81: a renewal starts on a FREE slot for an ACTIVE, QUIET link below the last epoch, which waits no more. -/
theorem startRenewal {l : LinkId} {k c : SlotNo} {w : List LinkId}
    (hk : (s.slot k).state = .free) (hactive : (s.link l).state = .active)
    (hquiet : (s.link l).renewal.state = .quiet) (hc : (s.link l).current = some c)
    (hepoch : (s.slot c).epoch ≠ 65535) (hnodup : w.Nodup) (hw : ∀ j, j ∈ w ↔ j ∈ s.keys.waitList ∧ j ≠ l) :
    RoleCore none (startRenewal l k (s.setWaitList w)) := by
  obtain ⟨hnext, hprevious⟩ := h.roles_of_quiet hquiet
  have hck : k ≠ c := fun e => by
    have := (h.role l c (mem_rolesOf.2 (.inr (.inl hc)))).2
    rw [FillsRole, ← e, hk] at this
    simp at this
  have hcepoch := h.epoch c
  have ht : Machine.startRenewal l k (s.setWaitList w) = ({ s.setWaitList w with
      draws := { s.draws with nonces := s.draws.nonces + 1 } }.modSlot k fun _ =>
        allocatedSlot l ((s.slot c).epoch + 1)).modLink l
          (startedLink ((s.slot c).epoch + 1) (headNonce s.draws.nonces) k) :=
    startRenewal_of_some (s := s.setWaitList w) hc k
  generalize Machine.startRenewal l k (s.setWaitList w) = t at ht
  have hlink : t.link l = startedLink ((s.slot c).epoch + 1) (headNonce s.draws.nonces) k (s.link l) := by
    rw [ht, State.link_modLink_self]
    rfl
  have hallocates : Allocates s t l k ((s.slot c).epoch + 1) := by
    subst ht
    refine ⟨hk, fun j hj => State.link_modLink_of_ne _ _ hj, fun i => ?_, .inl rfl, rfl, rfl, rfl,
      hnodup, hw⟩
    rw [State.slot_modLink, State.slot_modSlot]
    rfl
  have hlive : (startedLink ((s.slot c).epoch + 1) (headNonce s.draws.nonces) k (s.link l)).live = true :=
    Link.live_eq_true.2 (.inl hactive)
  refine h.allocate hallocates (by omega) ?_ ?_ (fun i => ?_) (.inr (by rw [hlink]; rfl)) (by rw [hlink]; rfl)
  · rw [hlink]
    refine ⟨?_, ?_, ?_, fun _ => hactive, ?_, ?_, ?_, ?_, ?_⟩
    · rw [hlive]
      simp [startedLink, hc]
    · simp [startedLink]
    · simp [startedLink, hprevious]
    · exact fun _ p _ hp => absurd (hprevious.symm.trans hp) (by simp)
    · intro c' n hc' hn
      cases hn
      obtain rfl : c' = c := Option.some.inj (hc'.symm.trans hc)
      rw [hallocates.slot, hallocates.slot, if_pos rfl, if_neg hck]
      exact ⟨rfl, rfl⟩
    · exact fun p hp => absurd (hprevious.symm.trans hp) (by simp)
    · rintro c' _ (hst | hst) <;> cases hst
    · intro n hn _
      cases hn
      have hrequests : t.keys.requests = s.keys.requests := by rw [ht]; rfl
      rw [hallocates.slot, if_pos rfl, hrequests]
      refine ⟨rfl, fun r hr e => ?_, rfl⟩
      have := (h.derivations.2.1 r hr).1
      rw [e, hk] at this
      cases this
  · rw [hlink]
    exact ⟨rfl, rfl, rfl⟩
  · rw [hlink]
    by_cases hi : k = i <;> simp [rolesOf, startedLink, hnext, hprevious, hi]

/-- R32: the hand-over serves the links that wait. -/
theorem handOver : RoleLaw (handOver s) := by
  refine (roleLaw_iff _).2 ⟨?_, (handOver_serves s).imp_right lowestFreeSlot_eq_none.1⟩
  refine handOver_keeps (P := RoleCore none) (fun t l rest hw ht k hk => ?_) s h
  have hnodup : (l :: rest).Nodup := hw ▸ ht.waitNodup
  obtain ⟨hout, hrest⟩ := List.nodup_cons.1 hnodup
  have hp := (ht.waits l).1 (by rw [hw]; exact List.mem_cons_self)
  have hactive := (ht.roles l).active (.inr hp)
  obtain ⟨hquiet, hepoch⟩ := ht.waitQuiet l hp
  obtain ⟨c, hc⟩ := Option.isSome_iff_exists.1 ((ht.roles l).current.2 (Link.live_eq_true.2 (.inl hactive)))
  refine startRenewal ht (lowestFreeSlot_eq_some hk) hactive hquiet hc (hepoch c hc) hrest fun j => ?_
  rw [hw, List.mem_cons]
  exact ⟨fun hj => ⟨.inr hj, fun e => hout (e ▸ hj)⟩, fun ⟨hj, hne⟩ => hj.resolve_left hne⟩

/-! ### Slots released -/

/-- R29: a release keeps the laws where it keeps those of its link. -/
theorem release {t : State} {l : LinkId} {ks : List SlotNo} (ht : Releases s t l ks)
    (hroles : RolesOk t (t.link l)) (hlane : LaneTable t (t.link l))
    (hpending : (t.link l).renewal.pendingTrigger = false) : RoleCore none t := by
  have hks : ∀ {k}, k ∈ ks → k ∈ rolesOf (s.link l) ∧ k ∉ rolesOf (t.link l) := fun {k} hk => by
    have hc := ht.count k
    have hpos := List.count_pos_iff.2 hk
    have hm : k ∈ rolesOf (s.link l) := List.count_pos_iff.1 (by omega)
    rw [h.count_rolesOf hm] at hc
    exact ⟨hm, List.count_eq_zero.1 (by omega)⟩
  have hkept : ∀ {k}, k ∉ ks → t.slot k = s.slot k := fun hk => by rw [ht.slot, released_slot_of_notMem hk]
  have herased : ∀ {k}, k ∈ ks → (s.slot k).inFlight = 0 → t.slot k = {} := fun hk h0 => by
    rw [ht.slot, released_slot_erased hk h0]
  have hdrains : ∀ {k}, k ∈ ks → (s.slot k).inFlight ≠ 0 → t.slot k = { s.slot k with state := .draining } :=
    fun hk h0 => by rw [ht.slot, released_slot_drains hk h0]
  have hother : ∀ {j k}, l ≠ j → k ∈ rolesOf (s.link j) → k ∉ ks := fun hj hk hm =>
    hj (((h.role _ _ (hks hm).1).1).symm.trans (h.role _ _ hk).1)
  have hout : ∀ {k}, ¬FillsRole (s.slot k) → k ∉ ks := fun hk hm => hk (h.role _ _ (hks hm).1).2
  have hreleased : ∀ {k}, k ∈ ks → ¬FillsRole (t.slot k) := fun {k} hk => by
    by_cases h0 : (s.slot k).inFlight = 0
    · rw [herased hk h0]
      simp [FillsRole]
    · rw [hdrains hk h0]
      simp [FillsRole]
  have hmem : ∀ {r}, r ∈ t.keys.requests → r ∈ s.keys.requests ∧ r.slot ∉ ks := fun hr => by
    rw [ht.requests, released_keys_requests] at hr
    obtain ⟨hr, hn⟩ := List.mem_filter.1 hr
    exact ⟨hr, by simpa using hn⟩
  have hothers : ∀ j, l ≠ j → RolesOk t (t.link j) ∧ LaneTable t (t.link j) := fun j hj =>
    h.roles_of_same (by rw [ht.link j hj])
      (fun k hk => by rw [hkept (hother hj hk)]; exact ⟨rfl, fun _ _ => id⟩) fun r hr => .inl (hmem hr).1
  have hdraining : ∀ {k}, operationsOn s k ≠ 0 → k ∈ ks → (t.slot k).state = .draining := fun hk hm => by
    rw [hdrains hm (h.inFlight_pos hk)]
  have hready : ∀ {j}, (t.link j).current = (s.link j).current → roleReady s (s.link j).current = true →
      roleReady t (t.link j).current = true := fun {j} hj hr => by
    obtain ⟨c, hc, hstate⟩ := (roleReady_iff s _).1 hr
    have hcks : c ∉ ks := fun hm => by
      by_cases e : l = j
      · subst e
        exact (hks hm).2 (mem_rolesOf.2 (.inr (.inl (hj.trans hc))))
      · exact hother e (mem_rolesOf.2 (.inr (.inl hc))) hm
    exact roleReady_of_some (hj.trans hc) (by rw [hkept hcks]; exact hstate)
  refine ⟨fun j => ?_, fun j => ?_, fun k hk => ?_, fun k hk => ?_, fun j k hk => ?_, fun k hk => ?_, fun k => ?_,
    fun k => ?_, ⟨?_, fun r hr => ?_, fun d hd => ?_⟩, ⟨fun r hr => ?_, fun r hr => ?_⟩, ?_, fun j => ?_,
    fun j hp => ?_⟩
  · by_cases hj : l = j
    · exact hj ▸ hroles
    · exact (hothers j hj).1
  · by_cases hj : l = j
    · exact hj ▸ hlane
    · exact (hothers j hj).2
  · by_cases hm : k ∈ ks
    · by_cases h0 : (s.slot k).inFlight = 0
      · exact herased hm h0
      · rw [hdrains hm h0] at hk
        cases hk
    · rw [hkept hm] at hk ⊢
      exact h.free k hk
  · by_cases hm : k ∈ ks
    · exact absurd hk (hreleased hm)
    · rw [hkept hm] at hk ⊢
      by_cases hj : l = (s.slot k).owner
      · have hc := ht.count k
        rw [List.count_eq_zero.2 hm, Nat.add_zero] at hc
        rw [← hj, ← hc, hj]
        exact h.fills k hk
      · rw [ht.link _ hj]
        exact h.fills k hk
  · by_cases hj : l = j
    · subst hj
      have hm : k ∉ ks := fun hm => (hks hm).2 hk
      have hc := ht.count k
      rw [List.count_eq_zero.2 hm, Nat.add_zero] at hc
      rw [hkept hm]
      exact h.role l k (List.count_pos_iff.1 (hc ▸ List.count_pos_iff.2 hk))
    · rw [ht.link j hj] at hk
      rw [hkept (hother hj hk)]
      exact h.role j k hk
  · by_cases hm : k ∈ ks
    · by_cases h0 : (s.slot k).inFlight = 0
      · rw [herased hm h0] at hk
        cases hk
      · rw [hdrains hm h0]
        exact h0
    · rw [hkept hm] at hk ⊢
      exact h.drains k hk
  · rw [ht.operationsOn, ← h.inFlight k]
    by_cases hm : k ∈ ks
    · by_cases h0 : (s.slot k).inFlight = 0
      · rw [herased hm h0, h0]
      · rw [hdrains hm h0]
    · rw [hkept hm]
  · by_cases hm : k ∈ ks
    · by_cases h0 : (s.slot k).inFlight = 0
      · rw [herased hm h0]
        exact Nat.zero_le _
      · rw [hdrains hm h0]
        exact h.epoch k
    · rw [hkept hm]
      exact h.epoch k
  · rw [ht.requests, released_keys_requests]
    exact (List.filter_sublist.map _).nodup h.derivations.1
  · obtain ⟨hr, hm⟩ := hmem hr
    rw [hkept hm]
    exact h.derivations.2.1 r hr
  · rw [ht.derivation] at hd
    obtain ⟨hnone, hstate⟩ := h.derivations.2.2 d hd
    refine ⟨fun r hr => hnone r (hmem hr).1, ?_⟩
    by_cases hm : d.request.slot ∈ ks
    · exact .inl (hdraining (operationsOn_derivation hd) hm)
    · rw [hkept hm]
      exact hstate
  · rcases ht.frames with ⟨hc, hs, -⟩ | ⟨hnil, hs, -⟩
    · rw [hs] at hr
      have hok := h.sealing_ok hr
      unfold SealingOk at hok
      split
      · next hd =>
        rw [if_pos hd] at hok
        rw [hkept (hout (by simp [FillsRole, hok]))]
        exact hok
      · next hd =>
        rw [if_neg hd] at hok
        have hcurrent : (t.link r.link).current = some r.slot := by
          by_cases hj : l = r.link
          · rw [← hj, hc, hj]
            exact hok.1
          · rw [ht.link _ hj]
            exact hok.1
        have hm : r.slot ∉ ks := fun hm => by
          by_cases hj : l = r.link
          · exact (hks hm).2 (hj ▸ mem_rolesOf.2 (.inr (.inl hcurrent)))
          · exact hother hj (mem_rolesOf.2 (.inr (.inl hok.1))) hm
        rw [hkept hm]
        exact ⟨hcurrent, hok.2⟩
    · rw [hs] at hr
      obtain ⟨r', hr', e⟩ := Option.map_eq_some_iff.1 hr
      have hok := h.sealing_ok hr'
      unfold SealingOk at hok
      by_cases hd' : r'.discard = true
      · rw [if_pos hd'] at hok
        have hd : r.discard = true := by
          rw [← e, markedSealing]
          split
          · rfl
          · exact hd'
        rw [if_pos hd, ← e, markedSealing_slot, hkept (hout (by simp [FillsRole, hok]))]
        exact hok
      · rw [if_neg hd'] at hok
        have hrole : r'.slot ∈ rolesOf (s.link r'.link) := mem_rolesOf.2 (.inr (.inl hok.1))
        by_cases hj : r'.link = l
        · have hd : r.discard = true := by rw [← e, markedSealing, if_pos hj]
          rw [if_pos hd, ← e, markedSealing_slot]
          refine hdraining (operationsOn_sealing hr') ?_
          have hc' := ht.count r'.slot
          rw [← hj, h.count_rolesOf hrole, hj, hnil] at hc'
          by_contra hm
          simp [List.count_eq_zero.2 hm] at hc'
        · have er : r = r' := by rw [← e, markedSealing, if_neg hj]
          rw [er, if_neg hd', ht.link _ (Ne.symm hj), hkept (hother (Ne.symm hj) hrole)]
          exact hok
  · rcases ht.frames with ⟨hc, -, ho⟩ | ⟨hnil, -, ho⟩
    · rw [ho] at hr
      refine OpeningOk.mono (h.opening_ok hr) ?_ (hready ?_)
      · by_cases hm : r.slot ∈ ks
        · exact .inr (hdraining (operationsOn_opening hr) hm)
        · exact .inl (by rw [hkept hm])
      · by_cases hj : l = r.link
        · rw [← hj, hc]
        · rw [ht.link _ hj]
    · rw [ho] at hr
      obtain ⟨r', hr', e⟩ := Option.map_eq_some_iff.1 hr
      have hok := h.opening_ok hr'
      by_cases hj : r'.link = l
      · have hd : r.discard = true := by rw [← e, markedOpening, if_pos hj]
        rw [if_pos hd, ← e, markedOpening_slot]
        by_cases hm : r'.slot ∈ ks
        · exact hdraining (operationsOn_opening hr') hm
        · have hstate : (s.slot r'.slot).state = .draining := by
            unfold OpeningOk at hok
            split at hok
            · exact hok
            · refine hok.2.resolve_right fun hrole => hm ?_
              have hmem' : r'.slot ∈ rolesOf (s.link l) := h.mem_rolesOf_iff.2 ⟨hrole.2.trans hj, .inr hrole.1⟩
              have hc' := ht.count r'.slot
              rw [h.count_rolesOf hmem', hnil] at hc'
              by_contra hm'
              simp [List.count_eq_zero.2 hm'] at hc'
          rw [hkept hm]
          exact hstate
      · have er : r = r' := by rw [← e, markedOpening, if_neg hj]
        rw [er]
        refine OpeningOk.mono hok ?_ (hready (by rw [ht.link _ (Ne.symm hj)]))
        by_cases hm : r'.slot ∈ ks
        · exact .inr (hdraining (operationsOn_opening hr') hm)
        · exact .inl (by rw [hkept hm])
  · rw [ht.waitList]
    exact h.waitNodup.filter _
  · rw [ht.waitList, List.mem_filter]
    by_cases hj : l = j
    · subst hj
      simp [hpending]
    · rw [ht.link j hj, ← h.waits j]
      simp [Ne.symm hj]
  · by_cases hj : l = j
    · subst hj
      rw [hpending] at hp
      cases hp
    · rw [ht.link j hj] at hp ⊢
      obtain ⟨hq, hne⟩ := h.waitQuiet j hp
      exact ⟨hq, fun c hc => by rw [hkept (hother hj (mem_rolesOf.2 (.inr (.inl hc))))]; exact hne c hc⟩

end RoleCore

end Sys2Proof.Machine
end

section
/-! The laws of the key roles where operations begin and complete on a slot, and where triggers come. -/

namespace Sys2Proof.Machine

namespace RoleCore

variable {extra extra' : Option SlotNo} {s : State} {k : SlotNo}

/-! ### Operations in flight -/

/-- A change of the blocks' records of the operations in flight, and of the derivations that wait. -/
theorem of_operations (h : RoleCore extra s) {t : State} (hl : t.links = s.links) (hs : t.keys.slots = s.keys.slots)
    (hw : t.keys.waitList = s.keys.waitList) (hr : t.keys.requests.Sublist s.keys.requests)
    (hc : ∀ k, operationsOn t k + (if extra' = some k then 1 else 0) =
      operationsOn s k + if extra = some k then 1 else 0)
    (hd : ∀ d, t.keys.derivation = some d → (∀ r ∈ t.keys.requests, r.slot ≠ d.request.slot) ∧
      ((s.slot d.request.slot).state = .draining ∨
        ((s.slot d.request.slot).state = .derivingKeys ∧ (s.slot d.request.slot).owner = d.request.link)))
    (hsealing : ∀ r, t.sealer.current = some r → SealingOk s r.link r.slot r.discard)
    (hopening : ∀ r, t.opener.current = some r → OpeningOk s r.link r.slot r.discard) : RoleCore extra' t := by
  have elink : ∀ l, t.link l = s.link l := fun l => by rw [State.link, State.link, hl]
  have eslot : ∀ k, t.slot k = s.slot k := fun k => by rw [State.slot, State.slot, hs]
  have hlink := fun l => h.roles_of_same (t := t) (j := l) (by rw [elink])
    (fun k _ => by rw [eslot]; exact ⟨rfl, fun _ _ => id⟩) fun r hm => .inl (hr.subset hm)
  have hready : ∀ role, roleReady t role = roleReady s role := fun role => by
    cases role with
    | none => rfl
    | some k => simp only [roleReady, eslot]
  refine ⟨fun l => (hlink l).1, fun l => (hlink l).2, ?_, ?_, ?_, ?_, fun k => ?_, ?_, ⟨?_, ?_, ?_⟩,
    ⟨fun r hm => ?_, fun r hm => ?_⟩, hw ▸ h.waitNodup, ?_, ?_⟩
  · simp only [eslot]
    exact h.free
  · simp only [eslot, elink]
    exact h.fills
  · simp only [eslot, elink]
    exact h.role
  · simp only [eslot]
    exact h.drains
  · rw [eslot, hc]
    exact h.inFlight k
  · simp only [eslot]
    exact h.epoch
  · exact (hr.map _).nodup h.derivations.1
  · simp only [eslot]
    exact fun r hm => h.derivations.2.1 r (hr.subset hm)
  · simp only [eslot]
    exact hd
  · rw [eslot, elink]
    exact hsealing r hm
  · rw [hready, eslot, elink]
    exact hopening r hm
  · simp only [hw, elink]
    exact h.waits
  · simp only [eslot, elink]
    exact h.waitQuiet

theorem clearSealing (h : RoleCore none s) {r : Sealing} (hr : s.sealer.current = some r) :
    RoleCore (some r.slot) (s.setSealing none) := by
  refine h.of_operations rfl rfl rfl (List.Sublist.refl _) (fun k => ?_) h.derivations.2.2 (fun _ e => nomatch e)
    fun r hr => h.opening_ok hr
  simp only [operationsOn_eq, State.setSealing, hr, Option.map_some, Option.map_none]
  simp only [reduceCtorEq, if_false]
  omega

theorem putSealing {r : Sealing} (h : RoleCore (some r.slot) s) (hn : s.sealer.current = none)
    (hok : SealingOk s r.link r.slot r.discard) : RoleCore none (s.setSealing (some r)) := by
  refine h.of_operations rfl rfl rfl (List.Sublist.refl _) (fun k => ?_) h.derivations.2.2 (fun r' e => ?_)
    fun r hr => h.opening_ok hr
  · simp only [operationsOn_eq, State.setSealing, hn, Option.map_some, Option.map_none]
    simp only [reduceCtorEq, if_false]
    omega
  · obtain rfl : r = r' := Option.some.inj e
    exact hok

theorem clearOpening (h : RoleCore none s) {r : Opening} (hr : s.opener.current = some r) :
    RoleCore (some r.slot) (s.setOpening none) := by
  refine h.of_operations rfl rfl rfl (List.Sublist.refl _) (fun k => ?_) h.derivations.2.2 (fun r hr => h.sealing_ok hr)
    fun _ e => nomatch e
  simp only [operationsOn_eq, State.setOpening, hr, Option.map_some, Option.map_none]
  simp only [reduceCtorEq, if_false]
  omega

theorem putOpening {r : Opening} (h : RoleCore (some r.slot) s) (hn : s.opener.current = none)
    (hok : OpeningOk s r.link r.slot r.discard) : RoleCore none (s.setOpening (some r)) := by
  refine h.of_operations rfl rfl rfl (List.Sublist.refl _) (fun k => ?_) h.derivations.2.2 (fun r hr => h.sealing_ok hr)
    fun r' e => ?_
  · simp only [operationsOn_eq, State.setOpening, hn, Option.map_some, Option.map_none]
    simp only [reduceCtorEq, if_false]
    omega
  · obtain rfl : r = r' := Option.some.inj e
    exact hok

theorem clearDerivation (h : RoleCore none s) {d : Derivation} (hd : s.keys.derivation = some d) :
    RoleCore (some d.request.slot) (s.setDerivation none) := by
  refine h.of_operations rfl rfl rfl (List.Sublist.refl _) (fun k => ?_) (fun _ e => nomatch e)
    (fun r hr => h.sealing_ok hr) fun r hr => h.opening_ok hr
  simp only [operationsOn_eq, State.setDerivation, hd, Option.map_some, Option.map_none]
  simp only [reduceCtorEq, if_false]
  omega

theorem putDerivation {d : Derivation} (h : RoleCore (some d.request.slot) s) (hn : s.keys.derivation = none)
    (hr : ∀ r ∈ s.keys.requests, r.slot ≠ d.request.slot)
    (hk : (s.slot d.request.slot).state = .derivingKeys ∧ (s.slot d.request.slot).owner = d.request.link) :
    RoleCore none (s.setDerivation (some d)) := by
  refine h.of_operations rfl rfl rfl (List.Sublist.refl _) (fun k => ?_) (fun d' e => ?_)
    (fun r hr => h.sealing_ok hr) fun r hr => h.opening_ok hr
  · simp only [operationsOn_eq, State.setDerivation, hn, Option.map_some, Option.map_none]
    simp only [reduceCtorEq, if_false]
    omega
  · obtain rfl : d = d' := Option.some.inj e
    exact ⟨hr, .inr hk⟩

/-- R28: the in-flight count of a slot changes, that no derivation waits for and that no OFFER is out for. -/
theorem recount (h : RoleCore extra s) {k : SlotNo} {f : KeySlot → KeySlot}
    (hf : slotView (f (s.slot k)) = slotView (s.slot k)) (hfree : (s.slot k).state ≠ .free)
    (hr : ∀ r ∈ s.keys.requests, r.slot ≠ k)
    (hn : ∀ l, (s.link l).next = some k → (s.link l).renewal.state ≠ .offering)
    (hdrains : (s.slot k).state = .draining → (f (s.slot k)).inFlight ≠ 0)
    (hflight : (f (s.slot k)).inFlight = operationsOn s k + if extra' = some k then 1 else 0)
    (hextra : ∀ i, k ≠ i → extra ≠ some i ∧ extra' ≠ some i) : RoleCore extra' (s.modSlot k f) := by
  have hslot : ∀ i, (s.modSlot k f).slot i = if k = i then f (s.slot k) else s.slot i := State.slot_modSlot s k f
  have hother : ∀ {i}, k ≠ i → (s.modSlot k f).slot i = s.slot i := fun hi => by rw [hslot, if_neg hi]
  have hview : ∀ i, slotView ((s.modSlot k f).slot i) = slotView (s.slot i) := fun i => by
    rw [hslot]
    split
    · next e => rw [← e, hf]
    · rfl
  have estate : ∀ i, ((s.modSlot k f).slot i).state = (s.slot i).state := fun i => congrArg Prod.fst (hview i)
  have eowner : ∀ i, ((s.modSlot k f).slot i).owner = (s.slot i).owner := fun i => congrArg (fun v => v.2.1) (hview i)
  have eepoch : ∀ i, ((s.modSlot k f).slot i).epoch = (s.slot i).epoch := fun i => congrArg (fun v => v.2.2) (hview i)
  have hlink := fun l => h.roles_of_same (t := s.modSlot k f) (j := l) rfl
    (fun i _ => ⟨hview i, fun hi hst => by rw [hother fun e => hn l (e ▸ hi) hst]; exact id⟩) fun r hm => .inl hm
  have hready : ∀ role, roleReady (s.modSlot k f) role = roleReady s role := fun role => by
    cases role with
    | none => rfl
    | some k => simp only [roleReady, estate]
  refine ⟨fun l => (hlink l).1, fun l => (hlink l).2, fun i hi => ?_, fun i hi => ?_, fun l i hi => ?_, fun i hi => ?_,
    fun i => ?_, fun i => ?_, ⟨h.derivations.1, fun r hm => ?_, fun d hd => ?_⟩, ⟨fun r hm => ?_, fun r hm => ?_⟩,
    h.waitNodup, h.waits, fun l hp => ?_⟩
  · rw [estate] at hi
    rw [hother fun e => hfree (e ▸ hi)]
    exact h.free i hi
  · rw [FillsRole, estate] at hi
    rw [eowner]
    exact h.fills i hi
  · rw [FillsRole, estate, eowner]
    exact h.role l i hi
  · rw [estate] at hi
    rw [hslot]
    split
    · next e => exact hdrains (e ▸ hi)
    · exact h.drains i hi
  · have hops : operationsOn (s.modSlot k f) i = operationsOn s i := rfl
    rw [hslot, hops]
    split
    · next e => rw [← e, hflight]
    · next e =>
      have hi := h.inFlight i
      obtain ⟨he, he'⟩ := hextra i e
      rw [if_neg he] at hi
      rw [if_neg he', hi]
  · rw [eepoch]
    exact h.epoch i
  · rw [hother (Ne.symm (hr r hm))]
    exact h.derivations.2.1 r hm
  · rw [estate, eowner]
    exact h.derivations.2.2 d hd
  · rw [estate]
    exact h.sealing_ok hm
  · rw [hready, estate, eowner]
    exact h.opening_ok hm
  · obtain ⟨hq, hne⟩ := h.waitQuiet l hp
    exact ⟨hq, fun c hc => by rw [eepoch]; exact hne c hc⟩

/-- R28: an operation begins on a slot that no derivation waits for and that no OFFER is out for. -/
theorem raise (h : RoleCore none s) {k : SlotNo} (hfree : (s.slot k).state ≠ .free)
    (hr : ∀ r ∈ s.keys.requests, r.slot ≠ k)
    (hn : ∀ l, (s.link l).next = some k → (s.link l).renewal.state ≠ .offering) :
    RoleCore (some k) (raiseInFlight k s) := by
  refine h.recount rfl hfree hr hn (fun _ => Nat.succ_ne_zero _) ?_ fun i hi => ⟨by simp, by simpa using hi⟩
  have := h.inFlight k
  simpa using this

/-- R28: an operation begins on a READY slot. -/
theorem raise_ready (h : RoleCore none s) {k : SlotNo} (hk : (s.slot k).state = .ready) :
    RoleCore (some k) (raiseInFlight k s) := by
  refine h.raise (by simp [hk]) (fun r hr e => ?_) fun l hl hst => ?_
  · have := (h.derivations.2.1 r hr).1
    rw [e, hk] at this
    cases this
  · have := ((h.roles l).offered k hl hst).1
    rw [hk] at this
    cases this

/-- A slot with an operation in flight has no derivation that waits for it, and no OFFER is out for it. -/
theorem busy (h : RoleCore extra s) {k : SlotNo} (hk : (s.slot k).inFlight ≠ 0) : (s.slot k).state ≠ .free ∧
    (∀ r ∈ s.keys.requests, r.slot ≠ k) ∧
    ∀ l, (s.link l).next = some k → (s.link l).renewal.state ≠ .offering := by
  refine ⟨fun hfree => hk ?_, fun r hr e => hk ?_, fun l hl hst => hk ((h.roles l).offered k hl hst).2.2⟩
  · rw [h.free k hfree]
  · exact e ▸ (h.derivations.2.1 r hr).2.2.2

/-- R30: a DRAINING slot whose last operation completes is erased. -/
theorem erase (h : RoleCore (some k) s) (hk : (s.slot k).state = .draining) (hlast : (s.slot k).inFlight ≤ 1) :
    RoleCore none (s.modSlot k fun _ => {}) := by
  have hslot : ∀ i, (s.modSlot k fun _ => {}).slot i = if k = i then {} else s.slot i := State.slot_modSlot s k _
  have hother : ∀ {i}, k ≠ i → (s.modSlot k fun _ => {}).slot i = s.slot i := fun hi => by rw [hslot, if_neg hi]
  have hnotRole : ∀ {l i}, i ∈ rolesOf (s.link l) → k ≠ i := fun {l i} hi e => by
    have := (h.role l i hi).2
    rw [FillsRole, ← e, hk] at this
    simp at this
  have hops : operationsOn s k = 0 := by
    have := h.inFlight k
    rw [if_pos rfl] at this
    omega
  have hbusy : ∀ {i}, operationsOn s i ≠ 0 → k ≠ i := fun hi e => hi (e ▸ hops)
  have hlink := fun l => h.roles_of_same (t := s.modSlot k fun _ => {}) (j := l) rfl
    (fun i hi => by rw [hother (hnotRole hi)]; exact ⟨rfl, fun _ _ => id⟩) fun r hm => .inl hm
  have hready : ∀ {role}, roleReady s role = true → roleReady (s.modSlot k fun _ => {}) role = true := fun hr => by
    obtain ⟨i, hi, hstate⟩ := (roleReady_iff s _).1 hr
    exact roleReady_of_some hi (by rw [hother fun e => by rw [← e, hk] at hstate; cases hstate]; exact hstate)
  refine ⟨fun l => (hlink l).1, fun l => (hlink l).2, fun i hi => ?_, fun i hi => ?_, fun l i hi => ?_, fun i hi => ?_,
    fun i => ?_, fun i => ?_, ⟨h.derivations.1, fun r hm => ?_, fun d hd => ?_⟩, ⟨fun r hm => ?_, fun r hm => ?_⟩,
    h.waitNodup, h.waits, fun l hp => ?_⟩
  · rw [hslot] at hi ⊢
    split
    · rfl
    · next e =>
      rw [if_neg e] at hi
      exact h.free i hi
  · by_cases e : k = i
    · rw [hslot, if_pos e] at hi
      simp [FillsRole] at hi
    · rw [hother e] at hi ⊢
      exact h.fills i hi
  · rw [hother (hnotRole hi)]
    exact h.role l i hi
  · by_cases e : k = i
    · rw [hslot, if_pos e] at hi
      cases hi
    · rw [hother e] at hi ⊢
      exact h.drains i hi
  · have hsame : operationsOn (s.modSlot k fun _ => {}) i = operationsOn s i := rfl
    rw [hsame]
    by_cases e : k = i
    · rw [hslot, if_pos e, ← e, hops]
      rfl
    · have := h.inFlight i
      rw [if_neg fun e' => e (Option.some.inj e')] at this
      rw [hother e, this]
      rfl
  · rw [hslot]
    split
    · exact Nat.zero_le _
    · exact h.epoch i
  · rw [hother fun e => by have := (h.derivations.2.1 r hm).1; rw [← e, hk] at this; cases this]
    exact h.derivations.2.1 r hm
  · rw [hother (hbusy (operationsOn_derivation hd))]
    exact h.derivations.2.2 d hd
  · rw [hother (hbusy (operationsOn_sealing hm))]
    exact h.sealing_ok hm
  · exact OpeningOk.mono (h.opening_ok hm) (.inl (by rw [hother (hbusy (operationsOn_opening hm))])) hready
  · obtain ⟨hq, hne⟩ := h.waitQuiet l hp
    exact ⟨hq, fun c hc => by rw [hother (hnotRole (mem_rolesOf.2 (.inr (.inl hc))))]; exact hne c hc⟩

/-- R30: an operation on a slot completes. -/
theorem lower (h : RoleCore (some k) s) (hserved : WaitersServed s) : RoleLaw (lowerInFlight k s) := by
  have hflight := h.inFlight k
  rw [if_pos rfl] at hflight
  have hpos : (s.slot k).inFlight ≠ 0 := by omega
  rcases lowerInFlight_cases k s with ⟨hk, hlast, e⟩ | ⟨hmore, e⟩ <;> rw [e]
  · exact (h.erase hk hlast).handOver
  · obtain ⟨hfree, hr, hn⟩ := h.busy hpos
    refine (roleLaw_iff _).2 ⟨h.recount rfl hfree hr hn (fun hk => ?_) ?_ fun i hi => ⟨by simpa using hi, by simp⟩, ?_⟩
    · have : 1 < (s.slot k).inFlight := Nat.not_le.1 fun hle => hmore ⟨hk, hle⟩
      dsimp only
      omega
    · dsimp only
      rw [hflight]
      rfl
    · refine hserved.imp_right fun hne i => ?_
      rw [State.slot_modSlot]
      split
      · next e => exact fun hi => hne k hi
      · exact hne i

/-- R36: a slot that no derivation is under way for, that none waits for and that no OFFER is out for becomes
READY. -/
theorem makeReady (h : RoleCore none s) {f : KeySlot → KeySlot} (hk : (s.slot k).state = .derivingKeys)
    (hstate : (f (s.slot k)).state = .ready) (howner : (f (s.slot k)).owner = (s.slot k).owner)
    (hepoch : (f (s.slot k)).epoch = (s.slot k).epoch) (hflight : (f (s.slot k)).inFlight = (s.slot k).inFlight)
    (hr : ∀ r ∈ s.keys.requests, r.slot ≠ k)
    (hn : ∀ l, (s.link l).next = some k → (s.link l).renewal.state ≠ .offering) (hd : s.keys.derivation = none) :
    RoleCore none (s.modSlot k f) := by
  have hslot : ∀ i, (s.modSlot k f).slot i = if k = i then f (s.slot k) else s.slot i := State.slot_modSlot s k f
  have hother : ∀ {i}, k ≠ i → (s.modSlot k f).slot i = s.slot i := fun hi => by rw [hslot, if_neg hi]
  have hsame : (s.modSlot k f).slot k = f (s.slot k) := by rw [hslot, if_pos rfl]
  have hne : ∀ {i}, (s.slot i).state ≠ .derivingKeys → k ≠ i := fun hi e => hi (e ▸ hk)
  have eowner : ∀ i, ((s.modSlot k f).slot i).owner = (s.slot i).owner := fun i => by
    rw [hslot]
    split
    · next e => rw [howner, e]
    · rfl
  have eepoch : ∀ i, ((s.modSlot k f).slot i).epoch = (s.slot i).epoch := fun i => by
    rw [hslot]
    split
    · next e => rw [hepoch, e]
    · rfl
  have eflight : ∀ i, ((s.modSlot k f).slot i).inFlight = (s.slot i).inFlight := fun i => by
    rw [hslot]
    split
    · next e => rw [hflight, e]
    · rfl
  have hready : ∀ i, (s.slot i).state = .ready → ((s.modSlot k f).slot i).state = .ready := fun i hi => by
    rw [hother (hne (by simp [hi]))]
    exact hi
  have hfills : ∀ i, FillsRole ((s.modSlot k f).slot i) ↔ FillsRole (s.slot i) := fun i => by
    by_cases e : k = i
    · rw [← e, FillsRole, FillsRole, hsame, hstate, hk]
      simp
    · rw [hother e]
  refine ⟨fun l => (h.roles l).advance rfl (fun i hi => ⟨eepoch i, hready i, fun hi hst => ?_⟩) fun r hm => .inl hm,
    fun l => LaneTable.advance (h.lane l) rfl fun n _ => hready n, fun i hi => ?_, fun i hi => ?_, fun l i hi => ?_,
    fun i hi => ?_, fun i => ?_, fun i => ?_, ⟨h.derivations.1, fun r hm => ?_, fun d hd' => ?_⟩,
    ⟨fun r hm => ?_, fun r hm => ?_⟩, h.waitNodup, h.waits, fun l hp => ?_⟩
  · rw [hother fun e => hn l (e ▸ hi) hst]
    exact ⟨rfl, id⟩
  · by_cases e : k = i
    · rw [← e, hsame, hstate] at hi
      cases hi
    · rw [hother e] at hi ⊢
      exact h.free i hi
  · rw [eowner]
    exact h.fills i ((hfills i).1 hi)
  · rw [eowner, hfills]
    exact h.role l i hi
  · by_cases e : k = i
    · rw [← e, hsame, hstate] at hi
      cases hi
    · rw [hother e] at hi ⊢
      exact h.drains i hi
  · rw [eflight]
    exact h.inFlight i
  · rw [eepoch]
    exact h.epoch i
  · rw [hother (Ne.symm (hr r hm))]
    exact h.derivations.2.1 r hm
  · have hd'' : s.keys.derivation = some d := hd'
    rw [hd] at hd''
    cases hd''
  · have hok := h.sealing_ok hm
    unfold SealingOk at hok
    split
    · next hdis =>
      rw [if_pos hdis] at hok
      rw [hother (hne (by simp [hok]))]
      exact hok
    · next hdis =>
      rw [if_neg hdis] at hok
      exact ⟨hok.1, hready _ hok.2⟩
  · have hdrain : (s.slot r.slot).state ≠ .derivingKeys := by
      have hok := h.opening_ok hm
      unfold OpeningOk at hok
      split at hok
      · simp [hok]
      · rcases hok.2 with e | ⟨e, _⟩ <;> simp [e]
    refine OpeningOk.mono (h.opening_ok hm) (.inl (by rw [hother (hne hdrain)])) fun hc => ?_
    obtain ⟨c, hc', hst⟩ := (roleReady_iff s _).1 hc
    exact roleReady_of_some hc' (hready c hst)
  · obtain ⟨hq, hne⟩ := h.waitQuiet l hp
    exact ⟨hq, fun c hc => by rw [eepoch]; exact hne c hc⟩

/-- R36: the last operation of a derivation completes for a slot that still fills its role. -/
theorem derived (h : RoleCore (some k) s) (hk : (s.slot k).state = .derivingKeys) (hd : s.keys.derivation = none)
    (cipherKey integrityKey : Key) : RoleCore none (s.modSlot k fun x =>
      { x with
        state := .ready, cipherKey := cipherKey, integrityKey := integrityKey, inFlight := x.inFlight - 1 }) := by
  have hflight := h.inFlight k
  rw [if_pos rfl] at hflight
  obtain ⟨hfree, hr, hn⟩ := h.busy (k := k) (by omega)
  have hlowered : RoleCore none (s.modSlot k fun x => { x with inFlight := x.inFlight - 1 }) := by
    refine h.recount rfl hfree hr hn (fun e => absurd (hk.symm.trans e) (by simp)) ?_
      fun i hi => ⟨by simpa using hi, by simp⟩
    dsimp only
    rw [hflight]
    rfl
  have hready := hlowered.makeReady (k := k)
    (f := fun x => { x with state := .ready, cipherKey := cipherKey, integrityKey := integrityKey })
    (by rw [State.slot_modSlot_self]; exact hk) rfl rfl rfl rfl hr hn hd
  rw [State.modSlot_modSlot] at hready
  exact hready

end RoleCore

end Sys2Proof.Machine
end

section
/-! The laws of the key roles through triggers, isolations, failures, cutovers and retirements. -/

namespace Sys2Proof.Machine

/-- R79 to R81: a trigger that is acted on is for an ACTIVE, QUIET link without a pending trigger, below the last
epoch; it starts the renewal or puts the link on the key wait list. -/
theorem trigger_acts (l : LinkId) (s : State) : trigger l s = s ∨
    ∃ c, mayAct (s.link l) = true ∧ (s.link l).current = some c ∧ (s.slot c).epoch ≠ 65535 ∧
      ((∃ k, lowestFreeSlot s = some k ∧ trigger l s = startRenewal l k s) ∨
        (lowestFreeSlot s = none ∧ trigger l s =
          (s.modRenewal l fun r => { r with pendingTrigger := true }).setWaitList (s.keys.waitList ++ [l]))) := by
  unfold trigger
  split
  · next hact =>
    unfold actOnTrigger
    split
    · exact .inl rfl
    · next c hc =>
      split
      · exact .inl rfl
      · next he =>
        refine .inr ⟨c, hact, hc, he, ?_⟩
        split
        · next k hk => exact .inl ⟨k, hk, rfl⟩
        · next hk => exact .inr ⟨hk, rfl⟩
  · exact .inl rfl

/-- R31: links wait only while no slot is FREE, whatever else of the slots changes. -/
theorem WaitersServed.of_states {s t : State} (h : WaitersServed s) (hw : t.keys.waitList = s.keys.waitList)
    (hs : ∀ k, (t.slot k).state = .free → (s.slot k).state = .free) : WaitersServed t := by
  unfold WaitersServed at h ⊢
  rw [hw]
  exact h.imp_right fun hne k hk => hne k (hs k hk)

/-- R75: a link at rest, with its current slot as its one role. -/
theorem rolesOk_atRest {t : State} {x : Link} (hcurrent : x.current.isSome ↔ x.live = true)
    (hprevious : x.previous = none) (hnext : x.next = none)
    (hstate : x.renewal.state = .quiet ∨ x.renewal.state = .backoff)
    (hactive : x.renewal.state ≠ .quiet ∨ x.renewal.pendingTrigger = true → x.state = .active) : RolesOk t x := by
  refine ⟨hcurrent, ?_, ?_, hactive, ?_, ?_, ?_, fun c _ hst => ?_, ?_⟩
  · rcases hstate with e | e <;> simp [e, hnext]
  · rcases hstate with e | e <;> simp [e, hprevious]
  · exact fun _ p _ hp => absurd (hprevious.symm.trans hp) (by simp)
  · exact fun _ n _ hn => absurd (hnext.symm.trans hn) (by simp)
  · exact fun p hp => absurd (hprevious.symm.trans hp) (by simp)
  · rcases hstate with e | e <;> simp [e] at hst
  · exact fun n hn => absurd (hnext.symm.trans hn) (by simp)

theorem laneTable_of_none {s : State} {x : Link} (h : x.lane = none) : LaneTable s x := by
  unfold LaneTable
  rw [h]
  trivial

namespace RoleLaw

variable {s : State} (h : RoleLaw s)
include h

theorem core : RoleCore none s := ((roleLaw_iff s).1 h).1

theorem served : WaitersServed s := ((roleLaw_iff s).1 h).2

theorem of_views {t : State} (hl : ∀ l, roleView (t.link l) = roleView (s.link l))
    (hs : ∀ k, t.slot k = s.slot k ∨ (s.slot k).state ≠ .free ∧ slotView (t.slot k) = slotView (s.slot k) ∧
      (t.slot k).inFlight = (s.slot k).inFlight)
    (ho : operationsView t = operationsView s) : RoleLaw t := by
  refine (roleLaw_iff t).2 ⟨h.core.of_views hl hs ho, h.served.of_states ?_ fun k hk => ?_⟩
  · exact congrArg (fun v => v.2.2.2.2) ho
  · rcases hs k with e | ⟨_, e, _⟩
    · exact e ▸ hk
    · exact (congrArg Prod.fst e).symm.trans hk

/-- The laws look at links, slots and records alone. -/
theorem of_same {t : State} (hl : t.links = s.links) (hs : t.keys.slots = s.keys.slots)
    (ho : operationsView t = operationsView s) : RoleLaw t :=
  h.of_views (fun l => by rw [State.link, State.link, hl]) (fun k => .inl (by rw [State.slot, State.slot, hs])) ho

theorem modLink_same {l : LinkId} {f : Link → Link}
    (hf : ∀ x, roleView (f x) = roleView x := by exact fun _ => rfl) : RoleLaw (s.modLink l f) :=
  (roleLaw_iff _).2 ⟨h.core.modLink_same hf, h.served⟩

theorem modRenewal_same {l : LinkId} {f : Renewal → Renewal}
    (hf : ∀ x : Link, roleView { x with renewal := f x.renewal } = roleView x := by exact fun _ => rfl) :
    RoleLaw (s.modRenewal l f) :=
  h.modLink_same (f := fun x => { x with renewal := f x.renewal }) hf

/-- A change of a slot that is not FREE, but in its state, owner, epoch and in-flight count. -/
theorem modSlot_same {k : SlotNo} {f : KeySlot → KeySlot} (hk : (s.slot k).state ≠ .free)
    (hf : ∀ x, slotView (f x) = slotView x ∧ (f x).inFlight = x.inFlight := by exact fun _ => ⟨rfl, rfl⟩) :
    RoleLaw (s.modSlot k f) := by
  refine h.of_views (fun _ => rfl) (fun i => ?_) rfl
  rw [State.slot_modSlot]
  split
  · next e => exact .inr ⟨e ▸ hk, by rw [← e]; exact hf _⟩
  · exact .inl rfl

theorem count (l : LinkId) (c : Counter) : RoleLaw (s.count l c) := h.modLink_same

theorem freeFrame (d : DescNo) : RoleLaw (s.freeFrame d) := h.of_same rfl rfl rfl

theorem listNotice (n : NoticeItem) : RoleLaw (s.listNotice n) := h.of_same rfl rfl rfl

theorem eventPending (l : LinkId) : RoleLaw (s.setEventPending l) := by
  rcases setEventPending_cases l s with ⟨_, e⟩ | ⟨_, e⟩ <;> rw [e]
  · exact h
  · exact listNotice (modLink_same h) _

theorem grant : RoleLaw (grant s) := by
  unfold Machine.grant
  split
  · exact h
  · split
    · exact h.of_same rfl rfl rfl
    · exact h

/-! ### Triggers -/

theorem notMem_of_not_pending {l : LinkId} (hl : (s.link l).renewal.pendingTrigger = false) :
    l ∉ s.keys.waitList := fun hm => by
  rw [(h.core.waits l).1 hm] at hl
  cases hl

theorem notPending_of_not_quiet {l : LinkId} (hl : (s.link l).renewal.state ≠ .quiet) :
    (s.link l).renewal.pendingTrigger = false := by
  by_contra hp
  exact hl (h.core.waitQuiet l (by simpa using hp)).1

theorem filter_waitList {l : LinkId} (hl : (s.link l).renewal.pendingTrigger = false) :
    (s.keys.waitList.filter fun j => decide (j ≠ l)) = s.keys.waitList :=
  List.filter_eq_self.2 fun _ hj => decide_eq_true fun e => h.notMem_of_not_pending hl (e ▸ hj)

theorem trigger (l : LinkId) : RoleLaw (trigger l s) := by
  rcases trigger_acts l s with e | ⟨c, hact, hc, hepoch, ⟨k, hk, e⟩ | ⟨hk, e⟩⟩ <;> rw [e]
  · exact h
  · obtain ⟨hactive, hquiet, -⟩ := (mayAct_iff _).1 hact
    have hfree := lowestFreeSlot_eq_some hk
    have hnil : s.keys.waitList = [] := h.served.resolve_right fun hno => hno k hfree
    have hstart := h.core.startRenewal (w := s.keys.waitList) hfree hactive hquiet hc hepoch h.core.waitNodup
      fun _ => by simp [hnil]
    exact (roleLaw_iff _).2 ⟨hstart, .inl (by rw [startRenewal_waitList]; exact hnil)⟩
  · obtain ⟨hactive, hquiet, hpending⟩ := (mayAct_iff _).1 hact
    have hout := h.notMem_of_not_pending hpending
    have hwaits := h.core.modLink_waitList (l := l) (w := s.keys.waitList ++ [l])
      (f := fun x => { x with renewal := { x.renewal with pendingTrigger := true } })
      { h.core.roles l with active := fun _ => hactive } (h.core.lane l) (fun _ => rfl) (.inl rfl)
      (List.nodup_append.2 ⟨h.core.waitNodup, List.nodup_singleton l, ?_⟩) (fun j => ?_)
      fun _ => ⟨hquiet, fun c' hc' => Option.some.inj (hc.symm.trans hc') ▸ hepoch⟩
    · exact (roleLaw_iff _).2 ⟨hwaits, .inr (lowestFreeSlot_eq_none.1 hk)⟩
    · rintro j hj _ hm rfl
      exact hout (List.mem_singleton.1 hm ▸ hj)
    · rw [List.mem_append, List.mem_singleton]
      split
      · next e => simp [e]
      · next e => exact or_iff_left (Ne.symm e)

theorem reevaluate (l : LinkId) : RoleLaw (reevaluate l s) := by
  rcases reevaluate_cases l s with e | e <;> rw [e]
  · exact h
  · exact h.trigger l

end RoleLaw

end Sys2Proof.Machine
end

section
/-! The laws of the key roles through isolations, failures, retirements, cutovers, teardowns and activations. -/

namespace Sys2Proof.Machine

/-- R75: a lane holds a message in OFFERING and DERIVING alone. -/
theorem LaneTable.eq_none {s : State} {x : Link} (h : LaneTable s x) (hoffering : x.renewal.state ≠ .offering)
    (hderiving : x.renewal.state ≠ .derivingNext) : x.lane = none := by
  unfold LaneTable at h
  split at h
  · assumption
  · exact absurd h.1 hoffering
  · exact absurd h.1 hderiving

/-- R13: an isolation does not look at what it stops. -/
theorem isolated_modLink {l : LinkId} {f : Link → Link} {s : State}
    (hf : ∀ x, isolatedLink (f x) = isolatedLink x ∧ (f x).next = x.next ∧ (f x).previous = x.previous := by
      exact fun _ => ⟨rfl, rfl, rfl⟩) : isolated l (s.modLink l f) = isolated l s := by
  have hlink : (fun x => isolatedLink (f x)) = isolatedLink := funext fun x => (hf x).1
  rw [isolated_eq, isolated_eq, State.modLink_modLink, State.link_modLink_self, hlink, (hf _).2.1, (hf _).2.2]

/-- R85: the context of a link whose renewal has failed with action NONE. -/
def backoffLink (x : Link) : Link :=
  { x with
    next := none, lane := none
    renewal := { x.renewal with
      offer := .stopped, failureMark := true, state := .backoff, backoff := .running 0 60 } }

theorem failedToBackoff_eq {s : State} {l : LinkId} (hl : l ∉ s.keys.waitList) :
    failedToBackoff l s = handOver (released (s.link l).next.toList (s.modLink l backoffLink)) := by
  rw [handOver_released_modLink _ (.inl hl), failedToBackoff, failed_eq hl, State.modRenewal_eq_modLink,
    State.modLink_modLink]
  rfl

/-- R93: the context of a link whose previous slot is retired. -/
def retiredLink (x : Link) : Link :=
  { x with previous := none, renewal := { x.renewal with grace := .stopped, state := .quiet } }

theorem retiredQuiet_eq {s : State} {l : LinkId} (hl : l ∉ s.keys.waitList) :
    retiredQuiet l s = handOver (released (s.link l).previous.toList (s.modLink l retiredLink)) := by
  have e : s.modLink l retiredLink = (s.modLink l fun x => { x with previous := none }).modRenewal l fun r =>
      { r with grace := .stopped, state := .quiet } := by
    rw [State.modRenewal_eq_modLink, State.modLink_modLink]
    rfl
  rw [e, State.modRenewal_eq_modLink,
    handOver_released_modLink (s := s.modLink l fun x => { x with previous := none }) _ (.inl hl)]
  rfl

/-- R91: the context of a link after its cutover. -/
def cutoverLink (x : Link) : Link :=
  { x with
    previous := x.current, current := x.next, next := none, budgetHeld := false
    renewal := { x.renewal with state := .cutting, interval := startedInterval x, failureMark := false } }

/-- R91: where no previous slot is held and no link can be served, a cutover changes the link alone. -/
theorem cutover_eq {s : State} {l : LinkId} (hprevious : (s.link l).previous = none) (hserved : WaitersServed s) :
    cutover l s = (s.modLink l cutoverLink).setEventPending l := by
  have hhand : handOver (s.modLink l cutoverLink) = s.modLink l cutoverLink := by
    rcases hserved with hnil | hfree
    · exact handOver_of_waitList_nil hnil
    · exact handOver_of_not_free hfree
  have hcut : cutover l s =
      (handOver (releaseSlots (s.link l).previous.toList (s.modLink l cutoverLink))).setEventPending l := rfl
  rw [hcut, hprevious]
  exact congrArg (fun t => t.setEventPending l) hhand

/-- R29: a change of a link that gives up slots of its next and previous role, and their release. -/
theorem releases_modLink {s : State} {l : LinkId} {f : Link → Link} {ks : List SlotNo}
    (hcount : ∀ k, (rolesOf (s.link l)).count k = (rolesOf (f (s.link l))).count k + ks.count k)
    (hcurrent : (f (s.link l)).current = (s.link l).current) :
    Releases s (released ks (leaveWaitList l (s.modLink l f))) l ks := by
  have hself : (released ks (leaveWaitList l (s.modLink l f))).link l = f (s.link l) := by
    rw [released_link, leaveWaitList_link, State.link_modLink_self]
  have hwait : (leaveWaitList l (s.modLink l f)).keys.waitList = s.keys.waitList.filter fun j => decide (j ≠ l) := rfl
  refine ⟨fun j hj => ?_, fun k => ?_, ?_, ?_, ?_, ?_, .inl ⟨?_, ?_, ?_⟩⟩
  · rw [released_link, leaveWaitList_link, State.link_modLink_of_ne _ _ hj]
  · rw [released_slot, released_slot, leaveWaitList_slot, State.slot_modLink]
  · rw [released_keys_requests, released_keys_requests]
    rfl
  · rw [released_keys_derivation]
    rfl
  · rw [released_keys_waitList, hwait]
  · rw [hself]
    exact hcount
  · rw [hself]
    exact hcurrent
  · rw [released_sealer]
    rfl
  · rw [released_opener]
    rfl

namespace RoleCore

variable {s : State} (h : RoleCore none s)
include h

/-- R29: a link at rest after a release of its next and previous slots. -/
theorem releaseLink {l : LinkId} {f : Link → Link} {ks : List SlotNo}
    (hcount : ∀ k, (rolesOf (s.link l)).count k = (rolesOf (f (s.link l))).count k + ks.count k)
    (hcurrent : (f (s.link l)).current = (s.link l).current) (hlive : (f (s.link l)).live = (s.link l).live)
    (hnext : (f (s.link l)).next = none) (hprevious : (f (s.link l)).previous = none)
    (hlane : (f (s.link l)).lane = none) (hpending : (f (s.link l)).renewal.pendingTrigger = false)
    (hstate : (f (s.link l)).renewal.state = .quiet ∨
      (f (s.link l)).renewal.state = .backoff ∧ (f (s.link l)).state = .active) :
    RoleLaw (Machine.handOver (released ks (leaveWaitList l (s.modLink l f)))) := by
  have hself : (released ks (leaveWaitList l (s.modLink l f))).link l = f (s.link l) := by
    rw [released_link, leaveWaitList_link, State.link_modLink_self]
  refine handOver (h.release (releases_modLink hcount hcurrent) ?_ ?_ (by rw [hself]; exact hpending))
  · rw [hself]
    refine rolesOk_atRest ?_ hprevious hnext (hstate.imp_right And.left) ?_
    · rw [hcurrent, hlive]
      exact (h.roles l).current
    · rintro (hne | hp)
      · exact (hstate.resolve_left hne).2
      · exact absurd (hpending.symm.trans hp) (by simp)
  · rw [hself]
    exact laneTable_of_none hlane

end RoleCore

/-- A link's roles are its next and previous slot beside its current slot. -/
theorem count_rolesOf_eq (x : Link) (k : SlotNo) : (rolesOf x).count k =
    x.current.toList.count k + (x.next.toList ++ x.previous.toList).count k := by
  simp only [rolesOf, List.count_append]
  omega

namespace RoleLaw

variable {s : State} (h : RoleLaw s)
include h

/-- R75: a link that is not QUIET is ACTIVE, and waits for no key slot. -/
theorem renewing {l : LinkId} (hl : (s.link l).renewal.state ≠ .quiet) : (s.link l).state = .active ∧
    (s.link l).renewal.pendingTrigger = false ∧ l ∉ s.keys.waitList :=
  ⟨(h.core.roles l).active (.inl hl), h.notPending_of_not_quiet hl,
    h.notMem_of_not_pending (h.notPending_of_not_quiet hl)⟩

/-- A link without a pending trigger has no place on the key wait list to leave. -/
theorem leaveWaitList_modLink {l : LinkId} (hl : (s.link l).renewal.pendingTrigger = false) (f : Link → Link) :
    leaveWaitList l (s.modLink l f) = s.modLink l f := by
  have e : leaveWaitList l (s.modLink l f) =
      (s.modLink l f).setWaitList (s.keys.waitList.filter fun j => decide (j ≠ l)) := rfl
  rw [e, h.filter_waitList hl]
  rfl

/-- R75: the roles of a link in OFFERING. -/
theorem offering_roles {l : LinkId} (hl : (s.link l).renewal.state = .offering) :
    (s.link l).previous = none ∧ ∃ n, (s.link l).next = some n := by
  have hprevious := (h.core.roles l).previous
  have hnext := (h.core.roles l).next
  rw [hl] at hprevious hnext
  exact ⟨by simpa using hprevious, Option.isSome_iff_exists.1 (by simpa using hnext)⟩

theorem isolated {l : LinkId} (hl : (s.link l).state = .active) : RoleLaw (isolated l s) := by
  rw [isolated_eq]
  refine h.core.releaseLink (fun k => ?_) rfl ?_ rfl rfl rfl rfl (.inl rfl)
  · rw [count_rolesOf_eq, count_rolesOf_eq]
    simp [isolatedLink]
  · simp [Link.live, isolatedLink, hl]

theorem isolate {l : LinkId} (hl : (s.link l).state = .active) : RoleLaw (isolate l s) := by
  rw [isolate_eq_isolated]
  exact h.isolated hl

theorem failedToBackoff {l : LinkId} (hl : (s.link l).renewal.state = .offering) : RoleLaw (failedToBackoff l s) := by
  obtain ⟨hactive, hpending, hout⟩ := h.renewing (l := l) (by simp [hl])
  obtain ⟨hprevious, -⟩ := h.offering_roles hl
  rw [failedToBackoff_eq hout, ← h.leaveWaitList_modLink hpending]
  refine h.core.releaseLink (fun k => ?_) rfl rfl rfl hprevious rfl hpending (.inr ⟨rfl, hactive⟩)
  rw [count_rolesOf_eq, count_rolesOf_eq]
  simp [backoffLink, hprevious]

/-- R85: a renewal that fails leaves its link in BACKOFF, or isolated from there. -/
theorem failRenewal_cases {l : LinkId} (hl : (s.link l).renewal.state = .offering) :
    Machine.failRenewal l s = Machine.failedToBackoff l s ∨
      ((Machine.failedToBackoff l s).link l).state = .active ∧
        Machine.failRenewal l s = (Machine.isolated l (Machine.failedToBackoff l s)).setEventPending l := by
  obtain ⟨hactive, -, hout⟩ := h.renewing (l := l) (by simp [hl])
  have hid : s.modLink l (fun x => x) = s := by
    rw [State.modLink_eq, State.link, tput_tget]
  have hfail := failRenewal_eq (f := fun x => x) hout (fun _ => rfl) (fun _ => rfl) fun _ => rfl
  have hstate : ((failed l s).link l).state = .active := by
    rw [failed_link_self hout]
    exact hactive
  rw [hid] at hfail
  rw [hfail]
  split
  · refine .inr ⟨?_, ?_⟩
    · rw [Machine.failedToBackoff, State.link_modRenewal_self]
      exact hstate
    · rw [autoIsolate, if_pos hstate, isolate_eq_isolated, Machine.failedToBackoff, State.modRenewal_eq_modLink,
        isolated_modLink]
  · exact .inl rfl

theorem failRenewal {l : LinkId} (hl : (s.link l).renewal.state = .offering) : RoleLaw (failRenewal l s) := by
  have hbackoff := h.failedToBackoff hl
  rcases h.failRenewal_cases hl with e | ⟨hactive, e⟩ <;> rw [e]
  · exact hbackoff
  · exact (hbackoff.isolated hactive).eventPending l

theorem retire {l : LinkId} (hl : (s.link l).renewal.state = .cutting) : RoleLaw (retire l s) := by
  obtain ⟨hactive, hpending, hout⟩ := h.renewing (l := l) (by simp [hl])
  have hnext : (s.link l).next = none := by
    have := (h.core.roles l).next
    rw [hl] at this
    simpa using this
  have hlane : (s.link l).lane = none := LaneTable.eq_none (h.core.lane l) (by simp [hl]) (by simp [hl])
  rw [retire_eq_retired, retired_eq, retiredQuiet_eq hout, ← h.leaveWaitList_modLink hpending]
  refine (h.core.releaseLink (fun k => ?_) rfl rfl hnext rfl hlane hpending (.inl rfl)).reevaluate l
  rw [count_rolesOf_eq, count_rolesOf_eq]
  simp [retiredLink, hnext]

/-- R91: the roles of a link whose next slot has become READY. -/
theorem cutover {l : LinkId} (hsealer : s.sealer.current = none) (hl : (s.link l).renewal.state = .derivingNext)
    (hlane : (s.link l).lane = none) (hn : roleReady s (s.link l).next = true) : RoleLaw (cutover l s) := by
  obtain ⟨hactive, hpending, -⟩ := h.renewing (l := l) (by simp [hl])
  obtain ⟨n, hnext, hready⟩ := (roleReady_iff s _).1 hn
  have hroles := h.core.roles l
  have hprevious : (s.link l).previous = none := by
    have := hroles.previous
    rw [hl] at this
    simpa using this
  obtain ⟨c, hc⟩ := Option.isSome_iff_exists.1 (hroles.current.2 (Link.live_eq_true.2 (.inl hactive)))
  rw [cutover_eq hprevious h.served]
  refine eventPending ((roleLaw_iff _).2 ⟨h.core.modLink ?_ (laneTable_of_none hlane) (fun k => ?_)
    (.inr ⟨hsealer, hn⟩) rfl fun hp => absurd (hpending.symm.trans hp) (by simp), h.served⟩) l
  · have hcut : ∀ {p}, (cutoverLink (s.link l)).previous = some p → p = c := fun hp =>
      Option.some.inj (hp.symm.trans hc)
    have hcut' : ∀ {k}, (cutoverLink (s.link l)).current = some k → k = n := fun hk =>
      Option.some.inj (hk.symm.trans hnext)
    have hnone : (cutoverLink (s.link l)).next = none := rfl
    refine ⟨?_, ?_, ?_, fun _ => hactive, ?_, ?_, ?_, ?_, ?_⟩
    · simp [cutoverLink, hnext, Link.live, hactive]
    · simp [cutoverLink]
    · simp [cutoverLink, hc]
    · intro k p hk hp
      rw [hcut hp, hcut' hk]
      exact (hroles.epochAfter c n hc hnext).1.symm
    · exact fun _ k _ hk => absurd (hnone.symm.trans hk) (by simp)
    · intro p hp
      rw [hcut hp]
      exact hroles.currentReady c hc (.inl hl)
    · intro k hk _
      rw [hcut' hk]
      exact hready
    · exact fun k hk => absurd (hnone.symm.trans hk) (by simp)
  · simp [rolesOf, cutoverLink, hprevious]

theorem teardown (l : LinkId) : RoleLaw (teardown l s) := by
  rw [teardown_eq]
  obtain ⟨descs, waiting, e, -⟩ := disposeFrames_eq l s
  have hlink : ∀ j, l ≠ j → (tornDownState l s).link j = s.link j := fun j hj => by
    rw [tornDownState, State.link_setSealRequests, State.link_modLink_of_ne _ _ hj, leaveWaitList_link, e]
    exact State.link_modLink_of_ne s (fun _ => _) hj
  obtain ⟨x, hself⟩ : ∃ x, (tornDownState l s).link l = tornDown x := by
    rw [tornDownState, State.link_setSealRequests, State.link_modLink_self]
    exact ⟨_, rfl⟩
  have hnil : rolesOf (tornDown x) = [] := rfl
  have hsealer : (tornDownState l s).sealer.current = s.sealer.current.map (markedSealing l) := by
    rw [tornDownState, e]
    rfl
  have hopener : (tornDownState l s).opener.current = s.opener.current.map (markedOpening l) := by
    rw [tornDownState, e]
    rfl
  have hrequests : (tornDownState l s).keys.requests = s.keys.requests := by
    rw [tornDownState, e]
    rfl
  have hderivation : (tornDownState l s).keys.derivation = s.keys.derivation := by
    rw [tornDownState, e]
    rfl
  have hreleases : Releases s (released (rolesOf (s.link l)) (tornDownState l s)) l (rolesOf (s.link l)) := by
    refine ⟨fun j hj => ?_, fun k => ?_, ?_, ?_, ?_, fun k => ?_, .inr ⟨?_, ?_, ?_⟩⟩
    · rw [released_link, hlink j hj]
    · rw [released_slot, released_slot, tornDownState_slot]
    · rw [released_keys_requests, released_keys_requests, hrequests]
    · rw [released_keys_derivation, hderivation]
    · rw [released_keys_waitList, tornDownState_waitList]
    · rw [released_link, hself, hnil, List.count_nil, Nat.zero_add]
    · rw [released_link, hself, hnil]
    · rw [released_sealer, hsealer]
    · rw [released_opener, hopener]
  refine (h.core.release hreleases ?_ ?_ ?_).handOver <;> rw [released_link, hself]
  · exact rolesOk_atRest (by simp [tornDown, Link.live]) rfl rfl (.inl rfl) (by simp [tornDown])
  · exact laneTable_of_none rfl
  · rfl

/-- R11, R12: a link that is not live fills no role, and no renewal of it waits or is under way. -/
theorem not_live {l : LinkId} (hl : (s.link l).live = false) : (s.link l).current = none ∧
    (s.link l).next = none ∧ (s.link l).previous = none ∧ (s.link l).renewal.state = .quiet ∧
    (s.link l).renewal.pendingTrigger = false := by
  have hroles := h.core.roles l
  have hactive : (s.link l).state ≠ .active := fun e => by
    rw [Link.live_eq_true.2 (.inl e)] at hl
    cases hl
  have hquiet : (s.link l).renewal.state = .quiet := by
    by_contra hne
    exact hactive (hroles.active (.inl hne))
  have hpending : (s.link l).renewal.pendingTrigger = false := by
    by_contra hp
    exact hactive (hroles.active (.inr (by simpa using hp)))
  obtain ⟨hnext, hprevious⟩ := h.core.roles_of_quiet hquiet
  have hcurrent := hroles.current
  rw [hl] at hcurrent
  exact ⟨by simpa using hcurrent, hnext, hprevious, hquiet, hpending⟩

/-- R10, R16, R19: a link with no role but its current slot, whose state follows that slot. -/
theorem atRest_modLink {l : LinkId} {f : Link → Link}
    (hf : ∀ x, roleView { f x with state := x.state } = roleView x := by exact fun _ => rfl)
    (hnext : (s.link l).next = none) (hprevious : (s.link l).previous = none)
    (hlive : (f (s.link l)).live = (s.link l).live) (hquiet : (s.link l).renewal.state = .quiet)
    (hpending : (s.link l).renewal.pendingTrigger = false) : RoleLaw (s.modLink l f) := by
  have hview := hf (s.link l)
  simp only [roleView, Prod.mk.injEq] at hview
  obtain ⟨-, eprevious, ecurrent, enext, elane, erenewal, epending, eoffered, ehead, eshop⟩ := hview
  have hlane : (s.link l).lane = none := LaneTable.eq_none (h.core.lane l) (by simp [hquiet]) (by simp [hquiet])
  refine (roleLaw_iff _).2 ⟨h.core.modLink ?_ (laneTable_of_none (elane.trans hlane)) (fun k => ?_) (.inl ecurrent)
    epending (fun hp => absurd (hpending.symm.trans hp) (by simp)), h.served⟩
  · refine rolesOk_atRest ?_ (eprevious.trans hprevious) (enext.trans hnext) (.inl (erenewal.trans hquiet)) ?_
    · rw [ecurrent, hlive]
      exact (h.core.roles l).current
    · rintro (hne | hp)
      · exact absurd (erenewal.trans hquiet) hne
      · exact absurd ((epending.trans hpending).symm.trans hp) (by simp)
  · simp only [rolesOf, eprevious, ecurrent, enext]

end RoleLaw

end Sys2Proof.Machine
end

section
/-! The laws of the key roles through the starts of operations: charges, sealing and opening starts, derivations. -/

namespace Sys2Proof.Machine

theorem ne_free_of_ready {x : KeySlot} (h : x.state = .ready) : x.state ≠ .free := by
  simp [h]

/-- Every current slot that is READY in `s` is the current slot of its link in `t`, and READY. -/
def KeepsReady (s t : State) : Prop :=
  ∀ l, roleReady s (s.link l).current = true → roleReady t (t.link l).current = true

theorem KeepsReady.refl (s : State) : KeepsReady s s := fun _ => id

theorem KeepsReady.trans {s t u : State} (h : KeepsReady s t) (h' : KeepsReady t u) : KeepsReady s u :=
  fun l hl => h' l (h l hl)

theorem KeepsReady.of_slots {s t : State} (hl : ∀ l, (t.link l).current = (s.link l).current)
    (hs : ∀ k, (s.slot k).state = .ready → (t.slot k).state = .ready) : KeepsReady s t := fun l hr => by
  obtain ⟨c, hc, hready⟩ := (roleReady_iff s _).1 hr
  exact roleReady_of_some ((hl l).trans hc) (hs c hready)

theorem RenewalFrame.current {ls : List LinkId} {s t : State} (h : RenewalFrame ls s t) (l : LinkId) :
    (t.link l).current = (s.link l).current := congrArg (fun x => x.current) (h.kept l)

theorem RenewalFrame.ready {ls : List LinkId} {s t : State} (h : RenewalFrame ls s t) {k : SlotNo}
    (hk : (s.slot k).state = .ready) : (t.slot k).state = .ready := by
  rw [h.slot_of_ne_free (ne_free_of_ready hk)]
  exact hk

theorem RenewalFrame.keepsReady {ls : List LinkId} {s t : State} (h : RenewalFrame ls s t) : KeepsReady s t :=
  .of_slots h.current fun _ => h.ready

theorem KeepsReady.modSlot {s : State} {k : SlotNo} {f : KeySlot → KeySlot}
    (hf : (s.slot k).state = .ready → (f (s.slot k)).state = .ready) : KeepsReady s (s.modSlot k f) := by
  refine .of_slots (fun _ => rfl) fun i hi => ?_
  rw [State.slot_modSlot]
  split
  · next e => exact hf (e ▸ hi)
  · exact hi

/-- R49, R63: a charge changes the blocks used and the soft-crossed flag of its slot, and raises a trigger at most. -/
theorem chargeSlot_frame (k : SlotNo) (l : LinkId) (n : Nat) (s : State) : ∃ f : KeySlot → KeySlot,
    (∀ x, slotView (f x) = slotView x ∧ (f x).inFlight = x.inFlight) ∧
      (chargeSlot k l n s = s.modSlot k f ∨ chargeSlot k l n s = trigger l (s.modSlot k f)) := by
  unfold chargeSlot
  dsimp only
  split
  · exact ⟨fun x => { x with used := x.used + n, softCrossed := true }, fun _ => ⟨rfl, rfl⟩, .inr rfl⟩
  · exact ⟨fun x => { x with used := x.used + n }, fun _ => ⟨rfl, rfl⟩, .inl rfl⟩

/-- R49, R63: what a charge leaves as it was. -/
structure ChargeFrame (s t : State) : Prop where
  current : ∀ l, (t.link l).current = (s.link l).current
  slot : ∀ i, (s.slot i).state ≠ .free → slotView (t.slot i) = slotView (s.slot i)
  sealer : t.sealer = s.sealer
  opener : t.opener = s.opener
  derivation : t.keys.derivation = s.keys.derivation
  requests : t.keys.requests = s.keys.requests

theorem chargeSlot_chargeFrame (k : SlotNo) (l : LinkId) (n : Nat) (s : State) :
    ChargeFrame s (chargeSlot k l n s) := by
  obtain ⟨f, hf, e⟩ := chargeSlot_frame k l n s
  have hview : ∀ i, slotView ((s.modSlot k f).slot i) = slotView (s.slot i) := fun i => by
    rw [State.slot_modSlot]
    split
    · next e => rw [(hf _).1, e]
    · rfl
  have hframe : RenewalFrame [l] (s.modSlot k f) (chargeSlot k l n s) := by
    rcases e with e | e <;> rw [e]
    · exact .refl _ _
    · exact trigger_frame _ _
  generalize chargeSlot k l n s = t at hframe
  refine ⟨hframe.current, fun i hi => ?_, ?_, ?_, ?_, ?_⟩
  · rw [hframe.slot_of_ne_free fun e => hi ((congrArg Prod.fst (hview i)).symm.trans e), hview]
  all_goals
    rw [hframe.rest]
    rfl

/-! ### Links that may seal -/

theorem headSendable_ready {s : State} {l : LinkId} (h : headSendable s l = true) :
    roleReady s (s.link l).current = true := by
  simp only [headSendable, Bool.and_eq_true] at h
  exact h.1.1.2

/-- R42: an OFFER of a link that may be on the request list is sealed under a READY current slot. -/
theorem roleReady_of_offer {s : State} {l : LinkId} {e : Nat} {nonce : Nonce} {attempt : Nat}
    (h : sealEligible s l = true) (hm : (s.link l).lane = some (.offer e nonce attempt)) :
    roleReady s (s.link l).current = true := by
  rw [sealEligible, laneReady, hm] at h
  simp only [Bool.and_eq_true, Bool.or_eq_true] at h
  exact h.1.1.elim id headSendable_ready

/-- R42: a link that may be on the request list with an empty lane has a sendable head frame. -/
theorem headSendable_of_emptyLane {s : State} {l : LinkId} (h : sealEligible s l = true)
    (hm : (s.link l).lane = none) : headSendable s l = true := by
  rw [sealEligible, laneReady, hm] at h
  simp only [Bool.and_eq_true, Bool.or_eq_true] at h
  exact h.1.1.resolve_left (by simp)

theorem cutover_sealer (l : LinkId) {s : State} (hprevious : (s.link l).previous = none) (hserved : WaitersServed s) :
    (cutover l s).sealer = s.sealer := by
  rw [cutover_eq hprevious hserved]
  rcases setEventPending_cases l (s.modLink l cutoverLink) with ⟨_, e⟩ | ⟨_, e⟩ <;> rw [e] <;> rfl

namespace RoleCore

variable {extra : Option SlotNo} {s : State} (h : RoleCore extra s)
include h

/-- R34, R88: a derivation is requested for a DERIVING slot that none waits for and that no OFFER is out for. -/
theorem addRequest {r : DerivationRequest} (hk : (s.slot r.slot).state = .derivingKeys)
    (howner : (s.slot r.slot).owner = r.link) (hepoch : (s.slot r.slot).epoch = r.epoch)
    (hzero : (s.slot r.slot).inFlight = 0) (hno : ∀ q ∈ s.keys.requests, q.slot ≠ r.slot)
    (hn : ∀ l, (s.link l).next = some r.slot → (s.link l).renewal.state ≠ .offering) :
    RoleCore extra (s.setRequests (s.keys.requests ++ [r])) := by
  have hmem : ∀ {q}, q ∈ (s.setRequests (s.keys.requests ++ [r])).keys.requests → q ∈ s.keys.requests ∨ q = r :=
    fun hq => (List.mem_append.1 hq).imp_right List.mem_singleton.1
  refine ⟨fun l => (h.roles l).advance rfl (fun _ _ => ⟨rfl, id, fun _ _ => ⟨rfl, id⟩⟩) fun q hq => ?_, h.lane, h.free,
    h.fills, h.role, h.drains, h.inFlight, h.epoch, ⟨?_, fun q hq => ?_, fun d hd => ⟨fun q hq => ?_, ?_⟩⟩, h.frames,
    h.waitNodup, h.waits, h.waitQuiet⟩
  · exact (hmem hq).imp_right fun (e : q = r) hl => hn l (e ▸ hl)
  · have e : (s.setRequests (s.keys.requests ++ [r])).keys.requests = s.keys.requests ++ [r] := rfl
    rw [e, List.map_append, List.nodup_append]
    refine ⟨h.derivations.1, List.nodup_singleton _, ?_⟩
    rintro i hi _ hm rfl
    obtain ⟨q, hq, e⟩ := List.mem_map.1 hi
    exact hno q hq (e.trans (List.mem_singleton.1 hm))
  · rcases hmem hq with hq | rfl
    · exact h.derivations.2.1 q hq
    · exact ⟨hk, howner, hepoch, hzero⟩
  · rcases hmem hq with hq | rfl
    · exact (h.derivations.2.2 d hd).1 q hq
    · exact fun e => h.inFlight_pos (operationsOn_derivation hd) (e ▸ hzero)
  · exact (h.derivations.2.2 d hd).2

/-- R45: a lane is emptied. -/
theorem emptyLane (l : LinkId) : RoleCore extra (s.modLink l fun x => { x with lane := none }) := by
  have hroles := h.roles l
  refine h.modLink { hroles with } (laneTable_of_none rfl) (fun _ => rfl) (.inl rfl) rfl
    fun hp => ⟨(h.waitQuiet l hp).1, rfl⟩

end RoleCore

namespace RoleLaw

variable {s : State} (h : RoleLaw s)
include h

theorem chargeSlot {k : SlotNo} (hk : (s.slot k).state ≠ .free) (l : LinkId) (n : Nat) :
    RoleLaw (chargeSlot k l n s) := by
  obtain ⟨f, hf, e⟩ := chargeSlot_frame k l n s
  have hcharged := h.modSlot_same hk hf
  rcases e with e | e <;> rw [e]
  · exact hcharged
  · exact hcharged.trigger l

theorem served_of_core {t : State} (ht : RoleCore none t) (hw : t.keys.waitList = s.keys.waitList)
    (hs : ∀ k, (t.slot k).state = .free → (s.slot k).state = .free) : RoleLaw t :=
  (roleLaw_iff t).2 ⟨ht, h.served.of_states hw hs⟩

/-- R48 to R50: a frame admitted under its link's READY current slot, while no frame is in sealing. -/
theorem admitSealing {l : LinkId} {k : SlotNo} (hsealer : s.sealer.current = none)
    (hk : (s.link l).current = some k) (hready : (s.slot k).state = .ready) (kind : FrameKind) (seq p : Nat)
    (desc : Option DescNo) (payload : List Byte) : RoleLaw (admitSealing l kind k seq p desc payload s) := by
  have hreserved : RoleLaw (s.modSlot k fun x => { x with next := seqAfter seq }) :=
    h.modSlot_same (ne_free_of_ready hready)
  have hready' : ((s.modSlot k fun x => { x with next := seqAfter seq }).slot k).state = .ready := by
    rw [State.slot_modSlot_self]
    exact hready
  have hcharged := hreserved.chargeSlot (ne_free_of_ready hready') l (cost p)
  have hframe := chargeSlot_chargeFrame k l (cost p) (s.modSlot k fun x => { x with next := seqAfter seq })
  unfold Machine.admitSealing
  dsimp only
  generalize Machine.chargeSlot k l (cost p) (s.modSlot k fun x => { x with next := seqAfter seq }) = t
    at hcharged hframe ⊢
  have htk : (t.slot k).state = .ready :=
    (congrArg Prod.fst (hframe.slot k (ne_free_of_ready hready'))).trans hready'
  have hraised := hcharged.core.raise_ready htk
  have hcurrent : ((raiseInFlight k t).link l).current = some k := (hframe.current l).trans hk
  have hstate : ((raiseInFlight k t).slot k).state = .ready := by
    rw [raiseInFlight, State.slot_modSlot_self]
    exact htk
  have hnone : (raiseInFlight k t).sealer.current = none := by
    have e : (raiseInFlight k t).sealer.current = t.sealer.current := rfl
    rw [e, hframe.sealer]
    exact hsealer
  have hserved : WaitersServed (raiseInFlight k t) := by
    refine hcharged.served.of_states rfl fun i hi => ?_
    rw [raiseInFlight, State.slot_modSlot] at hi
    split at hi
    · next e => exact e ▸ hi
    · exact hi
  generalize raiseInFlight k t = u at hraised hcurrent hstate hnone hserved ⊢
  have hput : ∀ v : State, v.links = u.links → v.keys = u.keys → v.sealer.current = u.sealer.current →
      v.opener = u.opener →
      RoleLaw (v.setSealing (some ⟨l, kind, k, (s.slot k).epoch, seq, p, desc, cost p, 0, false⟩)) := by
    intro v hlinks hkeys hseal hopen
    have hv : RoleCore (some k) v := by
      refine hraised.of_views (fun j => by rw [State.link, hlinks, State.link])
        (fun i => .inl (by rw [State.slot, hkeys, State.slot])) ?_
      rw [operationsView, operationsView, hseal, hopen, hkeys]
    refine (roleLaw_iff _).2 ⟨hv.putSealing (r := ⟨l, kind, k, (s.slot k).epoch, seq, p, desc, cost p, 0, false⟩)
      (hseal.trans hnone) ?_, hserved.of_states (congrArg (fun x => x.waitList) hkeys) fun i hi => ?_⟩
    · refine ⟨?_, ?_⟩
      · rw [State.link, hlinks]
        exact hcurrent
      · rw [State.slot, hkeys]
        exact hstate
    · rwa [State.slot_setSealing, State.slot, hkeys] at hi
  refine grant ?_
  split
  · exact hput _ rfl rfl rfl rfl
  · exact hput _ rfl rfl rfl rfl

theorem startTraffic {l : LinkId} (hsealer : s.sealer.current = none) (hr : roleReady s (s.link l).current = true) :
    RoleLaw (startTraffic l s) := by
  obtain ⟨c, hc, hready⟩ := (roleReady_iff s _).1 hr
  unfold Machine.startTraffic
  split
  · next k d rest hk _ =>
    obtain rfl : c = k := Option.some.inj (hc.symm.trans hk)
    split
    · split
      · have hspent : RoleLaw ((s.setQueue l rest).modLink l spendAllowance) := by
          refine modLink_same (s := s.setQueue l rest) (h.of_same rfl rfl rfl) fun x => ?_
          unfold spendAllowance
          split <;> rfl
        refine hspent.admitSealing hsealer ?_ hready _ _ _ _ _
        rw [State.link_modLink_self, spendAllowance]
        split <;> exact hc
      · exact (modLink_same h).trigger l
    · exact h
  · exact h

/-- R75, R90: a CUTOVER that waits is for a READY next slot. -/
theorem cutover_waits {l : LinkId} {e : Nat} {head shop : Nonce} (hm : (s.link l).lane = some (.cutover e head shop)) :
    (s.link l).renewal.state = .derivingNext ∧ (s.link l).previous = none ∧
      roleReady s (s.link l).next = true := by
  have hlane := h.core.lane l
  unfold LaneTable at hlane
  rw [hm] at hlane
  obtain ⟨hstate, -, -, -, hready⟩ := hlane
  obtain ⟨n, hn⟩ := Option.isSome_iff_exists.1 ((h.core.roles l).next.2 (.inr hstate))
  have hprevious := (h.core.roles l).previous
  rw [hstate] at hprevious
  exact ⟨hstate, by simpa using hprevious, roleReady_of_some hn (hready n hn)⟩

theorem offer_waits {l : LinkId} {e : Nat} {nonce : Nonce} {attempt : Nat}
    (hm : (s.link l).lane = some (.offer e nonce attempt)) : (s.link l).renewal.state = .offering := by
  have hlane := h.core.lane l
  unfold LaneTable at hlane
  rw [hm] at hlane
  exact hlane.1

/-- R47: an OFFER is admitted under a READY current slot, or its renewal fails. -/
theorem startOffer {l : LinkId} (hsealer : s.sealer.current = none) (hstate : (s.link l).renewal.state = .offering)
    (hr : roleReady s (s.link l).current = true) (e : Nat) (nonce : Nonce) (attempt : Nat) :
    RoleLaw (startControl l (.offer e nonce attempt) s) := by
  obtain ⟨c, hc, hready⟩ := (roleReady_iff s _).1 hr
  unfold startControl
  dsimp only
  split
  · next k hk =>
    obtain rfl : c = k := Option.some.inj (hc.symm.trans hk)
    split
    · exact h.admitSealing hsealer hk hready _ _ _ _ _
    · exact h.failRenewal hstate
  · exact h

/-- R45, R47: a CUTOVER is sealed after the cutover. -/
theorem startCutover {l : LinkId} (hsealer : s.sealer.current = none)
    (hstate : (s.link l).renewal.state = .derivingNext) (hlane : (s.link l).lane = none)
    (hn : roleReady s (s.link l).next = true) (e : Nat) (head shop : Nonce) :
    RoleLaw (startControl l (.cutover e head shop) s) := by
  have hprevious : (s.link l).previous = none := by
    have := (h.core.roles l).previous
    rw [hstate] at this
    simpa using this
  have hcut := h.cutover hsealer hstate hlane hn
  have hnone : (Machine.cutover l s).sealer.current = none := by
    rw [cutover_sealer l hprevious h.served]
    exact hsealer
  have hready : ∀ k, ((Machine.cutover l s).link l).current = some k →
      ((Machine.cutover l s).slot k).state = .ready := by
    rw [cutover_eq hprevious h.served, State.link_setEventPending_self, State.link_modLink_self]
    intro k hk
    obtain ⟨n, hnext, hready⟩ := (roleReady_iff s _).1 hn
    obtain rfl : k = n := Option.some.inj (hk.symm.trans hnext)
    rw [State.slot_setEventPending, State.slot_modLink]
    exact hready
  unfold startControl
  dsimp only
  split
  · next k hk =>
    split
    · exact hcut.admitSealing hnone hk (hready k hk) _ _ _ _ _
    · exact hcut
  · exact hcut

/-- R44: a sealing start of an eligible head link. -/
theorem startSealing (hlist : ∀ l ∈ s.sealer.requests, sealEligible s l = true) : RoleLaw (startSealing s) := by
  unfold Machine.startSealing
  split
  · next l rest hsealer hrequests =>
    have heligible := hlist l (by rw [hrequests]; exact List.mem_cons_self)
    have hlisted : RoleLaw (s.setSealRequests rest) := h.of_same rfl rfl rfl
    have hemptied : RoleLaw ((s.setSealRequests rest).modLink l fun x => { x with lane := none }) :=
      hlisted.served_of_core (hlisted.core.emptyLane l) rfl fun _ => id
    have hself : ((s.setSealRequests rest).modLink l fun x => { x with lane := none }).link l =
        { s.link l with lane := none } := State.link_modLink_self _ _ _
    dsimp only
    split
    · next m hm =>
      cases m with
      | offer e nonce attempt =>
        refine hemptied.startOffer hsealer ?_ ?_ _ _ _ <;> rw [hself]
        · exact h.offer_waits hm
        · exact roleReady_of_offer heligible hm
      | cutover e head shop =>
        obtain ⟨hstate, -, hready⟩ := h.cutover_waits hm
        refine hemptied.startCutover hsealer ?_ ?_ ?_ _ _ _ <;> rw [hself]
        · exact hstate
        · exact hready
    · next hm => exact hlisted.startTraffic hsealer (headSendable_ready (headSendable_of_emptyLane heligible hm))
  · exact h

end RoleLaw

end Sys2Proof.Machine
end

section
/-! The laws of the key roles through opening starts, derivations and the completions of operations. -/

namespace Sys2Proof.Machine

/-- R61: the slot that a frame's epoch resolves to is its link's current slot, READY, or its previous slot. -/
theorem preCheck_ok {s : State} {x : Descriptor} {k : SlotNo} (h : preCheck s x = .ok k) :
    ((s.link x.link).current = some k ∧ (s.slot k).state = .ready) ∨ (s.link x.link).previous = some k := by
  have hprevious : ∀ {y : Link} {e : Nat}, resolvePrevious s y e = .ok k → y.previous = some k := fun {y e} he => by
    unfold resolvePrevious at he
    split at he
    · next p hp =>
      split at he
      · rw [hp, Except.ok.inj he]
      · cases he
    · cases he
  have hresolve : resolveEpoch s x.link (x.epoch.getD 0) = .ok k := by
    unfold preCheck at h
    split at h
    · cases h
    · next k' hk' =>
      split at h
      · cases h
      · split at h
        · rw [hk', Except.ok.inj h]
        · cases h
  unfold resolveEpoch at hresolve
  dsimp only at hresolve
  split at hresolve
  · next c hc =>
    split at hresolve
    · split at hresolve
      · next hready =>
        obtain rfl := Except.ok.inj hresolve
        exact .inl ⟨hc, hready⟩
      · cases hresolve
    · exact .inr (hprevious hresolve)
  · exact .inr (hprevious hresolve)

/-- R28: the begin of an operation changes in-flight counts alone. -/
theorem slotView_raiseInFlight (k i : SlotNo) (s : State) :
    slotView ((raiseInFlight k s).slot i) = slotView (s.slot i) := by
  rw [raiseInFlight, State.slot_modSlot]
  split
  · next e => rw [← e]; rfl
  · rfl

theorem WaitersServed.raiseInFlight {s : State} (h : WaitersServed s) (k : SlotNo) :
    WaitersServed (raiseInFlight k s) :=
  h.of_states rfl fun i hi => (congrArg Prod.fst (slotView_raiseInFlight k i s)).symm.trans hi

namespace RoleLaw

variable {s : State} (h : RoleLaw s)
include h

/-- R61, R75: a frame that passes its pre-checks is under a READY slot of its link, whose current slot is READY. -/
theorem preCheck_ready {x : Descriptor} {k : SlotNo} (hk : preCheck s x = .ok k) : (s.slot k).state = .ready ∧
    (s.slot k).owner = x.link ∧ roleReady s (s.link x.link).current = true := by
  have hroles := h.core.roles x.link
  rcases preCheck_ok hk with ⟨hc, hready⟩ | hp
  · exact ⟨hready, (h.core.role _ k (mem_rolesOf.2 (.inr (.inl hc)))).1, roleReady_of_some hc hready⟩
  · have hcutting := hroles.previous.1 (by rw [hp]; rfl)
    have hactive := hroles.active (.inl (by simp [hcutting]))
    obtain ⟨c, hc⟩ := Option.isSome_iff_exists.1 (hroles.current.2 (Link.live_eq_true.2 (.inl hactive)))
    exact ⟨hroles.previousReady k hp, (h.core.role _ k (mem_rolesOf.2 (.inl hp))).1,
      roleReady_of_some hc (hroles.currentReady c hc (.inr hcutting))⟩

/-- R63: a frame that passes is charged and becomes the frame in opening. -/
theorem chargeOpening (hopener : s.opener.current = none) {x : Descriptor} {k : SlotNo} (hk : preCheck s x = .ok k)
    (d : DescNo) : RoleLaw (chargeOpening d x k s) := by
  obtain ⟨hready, howner, hcurrent⟩ := h.preCheck_ready hk
  have hcharged := h.chargeSlot (ne_free_of_ready hready) x.link (cost x.length)
  have hframe := chargeSlot_chargeFrame k x.link (cost x.length) s
  unfold Machine.chargeOpening
  dsimp only
  generalize Machine.chargeSlot k x.link (cost x.length) s = t at hcharged hframe ⊢
  have hview := hframe.slot k (ne_free_of_ready hready)
  have htk : (t.slot k).state = .ready := (congrArg Prod.fst hview).trans hready
  have htready : KeepsReady s t := .of_slots hframe.current fun i hi =>
    (congrArg Prod.fst (hframe.slot i (ne_free_of_ready hi))).trans hi
  have hraised := hcharged.core.raise_ready htk
  have hstates : ∀ i, ((raiseInFlight k t).slot i).state = (t.slot i).state := fun i =>
    congrArg Prod.fst (slotView_raiseInFlight k i t)
  refine grant ((roleLaw_iff _).2 ⟨hraised.putOpening (r := ⟨x.link, x.kind, k, x.epoch.getD 0, x.seq.getD 0, x.length,
    d, cost x.length, 0, false⟩) ?_ ?_, hcharged.served.raiseInFlight k⟩)
  · have e : (raiseInFlight k t).opener = t.opener := rfl
    rw [e, hframe.opener]
    exact hopener
  · have htr : KeepsReady t (raiseInFlight k t) := .of_slots (fun _ => rfl) fun i => (hstates i).trans
    refine ⟨htr _ (htready _ hcurrent), .inr ⟨(hstates k).trans htk, ?_⟩⟩
    have e : ((raiseInFlight k t).slot k).owner = (t.slot k).owner :=
      congrArg (fun v => v.2.1) (slotView_raiseInFlight k k t)
    have e' : (t.slot k).owner = (s.slot k).owner := congrArg (fun v => v.2.1) hview
    rw [e, e', howner]

theorem startOpening : RoleLaw (startOpening s) := by
  unfold Machine.startOpening
  split
  · next d rest hopener _ =>
    have hlisted : RoleLaw (s.setOpenList rest) := h.of_same rfl rfl rfl
    dsimp only
    split
    · split
      · next k hk => exact hlisted.chargeOpening hopener hk d
      · have hcounted := (hlisted.freeFrame d).count
        unfold rejectFrame countEpochEvent
        split
        · exact (hcounted _ _).of_same rfl rfl rfl
        · exact hcounted _ _
    · exact hlisted
  · exact h

/-- R35: the head request becomes the derivation in flight. -/
theorem beginDerivation : RoleLaw (beginDerivation s) := by
  unfold Machine.beginDerivation
  split
  · next r rest hnone hrequests =>
    have hsub : rest.Sublist s.keys.requests := hrequests ▸ List.sublist_cons_self r rest
    have hr : r ∈ s.keys.requests := by rw [hrequests]; exact List.mem_cons_self
    obtain ⟨hderiving, howner, -, -⟩ := h.core.derivations.2.1 r hr
    have hnodup := h.core.derivations.1
    rw [hrequests, List.map_cons, List.nodup_cons] at hnodup
    have hno : ∀ q ∈ rest, q.slot ≠ r.slot := fun q hq e => hnodup.1 (List.mem_map.2 ⟨q, hq, e⟩)
    have htaken : RoleCore none (s.setRequests rest) :=
      h.core.of_operations rfl rfl rfl hsub (fun _ => rfl)
        (fun d hd => by rw [State.setRequests] at hd; rw [hnone] at hd; cases hd)
        (fun _ => h.core.sealing_ok) fun _ => h.core.opening_ok
    have hraised := htaken.raise (k := r.slot)
      (fun e => by have := hderiving.symm.trans e; cases this) hno
      fun l hl hst => ((h.core.roles l).offered r.slot hl hst).2.1 r hr rfl
    have hserved : WaitersServed (s.setRequests rest) := h.served
    refine grant ((roleLaw_iff _).2 ⟨hraised.putDerivation (d := ⟨r, ((raiseInFlight r.slot (s.setRequests rest)).root
      r.link).key, 4, []⟩) hnone hno ⟨?_, ?_⟩, hserved.raiseInFlight r.slot⟩)
    · exact (congrArg Prod.fst (slotView_raiseInFlight r.slot r.slot (s.setRequests rest))).trans hderiving
    · exact (congrArg (fun v => v.2.1) (slotView_raiseInFlight r.slot r.slot (s.setRequests rest))).trans howner
  · exact h

end RoleLaw

end Sys2Proof.Machine
end

section
/-! The laws of the key roles through the completions of operations, and through every step. -/

namespace Sys2Proof.Machine

/-- R30: the completion of an operation changes in-flight counts, erases a DRAINING slot and hands it over. -/
theorem lowerInFlight_keepsReady (k : SlotNo) (s : State) : KeepsReady s (lowerInFlight k s) := by
  rcases lowerInFlight_cases k s with ⟨hk, _, e⟩ | ⟨_, e⟩ <;> rw [e]
  · exact (KeepsReady.modSlot fun hready => absurd (hk.symm.trans hready) (by simp)).trans
      (handOver_frame _).1.keepsReady
  · exact KeepsReady.modSlot id

/-- A retirement leaves READY current slots, but for a slot that is current and previous at once. -/
theorem retire_keepsReady {l : LinkId} {s : State}
    (hl : ∀ p, (s.link l).previous = some p → ∀ j, (s.link j).current ≠ some p) : KeepsReady s (retire l s) := by
  rw [retire_eq_retired, retired_eq]
  refine KeepsReady.trans ?_ (reevaluate_frame l _).keepsReady
  obtain ⟨u, hframe, e⟩ := retiredQuiet_frame l s
  rw [e]
  have hreleased : KeepsReady s (released (s.link l).previous.toList
      (s.modLink l fun x => { x with previous := none })) := fun j hj => by
    obtain ⟨c, hc, hready⟩ := (roleReady_iff s _).1 hj
    refine roleReady_of_some (k := c) ?_ ?_
    · rw [released_link, State.link_modLink]
      split
      · next e => exact e ▸ hc
      · exact hc
    · have hout : c ∉ (s.link l).previous.toList := fun hm => hl c (by simpa using hm) j hc
      rw [released_slot_of_notMem hout, State.slot_modLink]
      exact hready
  refine (hreleased.trans hframe.keepsReady).trans (.of_slots (fun j => ?_) fun _ hk => hk)
  rw [State.link_modRenewal]
  split
  · next e => rw [e]
  · rfl

namespace RoleLaw

variable {s : State} (h : RoleLaw s)
include h

/-! ### The sealing completion -/

theorem freeSealed (r : Sealing) : RoleLaw (freeSealed r s) := by
  unfold Machine.freeSealed
  split
  · exact h.freeFrame _
  · exact h

theorem reportSealed (r : Sealing) : RoleLaw (reportSealed r s) := by
  unfold Machine.reportSealed
  split
  · unfold reportOffer
    split
    · exact h.modRenewal_same
    · exact h
  · unfold reportCutover
    split
    · exact h.modRenewal_same
    · exact h
  · exact h
  · exact h
  · exact h

theorem completeSealing {q r : Sealing} (hq : s.sealer.current = some q) (hslot : r.slot = q.slot) :
    RoleLaw (completeSealing r s) := by
  have hcleared : RoleCore (some r.slot) (s.setSealing none) := hslot ▸ h.core.clearSealing hq
  have htagged : RoleCore (some r.slot) (writeTag r (tagOf r.tagChain) (s.setSealing none)) ∧
      WaitersServed (writeTag r (tagOf r.tagChain) (s.setSealing none)) := by
    rcases writeTag_cases r (tagOf r.tagChain) (s.setSealing none) with ⟨_, e⟩ | ⟨d, _, e⟩ <;> rw [e] <;>
      exact ⟨hcleared.of_views (fun _ => rfl) (fun _ => .inl rfl) rfl, h.served⟩
  have hlowered := htagged.1.lower htagged.2
  unfold Machine.completeSealing
  dsimp only
  split
  · exact hlowered.freeSealed r
  · have hcounted := hlowered.count r.link .framesSealed
    split
    · refine reportSealed ?_ r
      unfold handToTransmitter
      split <;> exact hcounted.of_same rfl rfl rfl
    · exact ((hcounted.count r.link _).freeSealed r).reportSealed r

/-! ### The opening completion -/

/-- R87, R88: a valid ACCEPT requests the derivation for the next slot. -/
theorem handAccept {l : LinkId} (hready : roleReady s (s.link l).current = true) (epoch : Nat) (echo ns : Nonce) :
    RoleLaw (handAccept l epoch echo ns s) := by
  unfold Machine.handAccept
  dsimp only
  split
  · next hvalid =>
    obtain ⟨⟨⟨hactive, hoffering⟩, -⟩, -⟩ : (((s.link l).state = .active ∧ (s.link l).renewal.state = .offering) ∧
        (s.link l).renewal.offeredEpoch = epoch) ∧ (s.link l).renewal.headNonce = echo := by
      simpa [acceptValid] using hvalid
    obtain ⟨c, hc, hcready⟩ := (roleReady_iff s _).1 hready
    obtain ⟨hprevious, n, hn⟩ := h.offering_roles hoffering
    have hroles := h.core.roles l
    have hpending := h.notPending_of_not_quiet (l := l) (by simp [hoffering])
    obtain ⟨hderiving, hno, hzero⟩ := hroles.offered n hn hoffering
    obtain ⟨hepoch, hoffered⟩ := hroles.epochAfter c n hc hn
    have haccepted : RoleCore none (s.modLink l fun x =>
        { x with
          lane := withoutOffer x.lane
          renewal := { x.renewal with state := .derivingNext, shopNonce := ns, offer := .stopped } }) := by
      refine h.core.modLink ?_ (laneTable_of_none ?_) (fun _ => rfl) (.inl rfl) rfl
        fun hp => absurd (hpending.symm.trans hp) (by simp)
      · refine ⟨hroles.current, ?_, ?_, fun _ => hactive, hroles.epochBefore, hroles.epochAfter,
          hroles.previousReady, ?_, ?_⟩
        · simp [hn]
        · simp [hprevious]
        · intro c' hc' _
          obtain rfl : c = c' := Option.some.inj (hc.symm.trans hc')
          exact hcready
        · simp
      · have hlane := h.core.lane l
        unfold LaneTable at hlane
        rw [hoffering] at hlane
        unfold withoutOffer
        split at hlane
        · next e => simp [e]
        · next e => simp [e]
        · exact absurd hlane.1 (by simp)
    simp only [hn]
    refine h.served_of_core (haccepted.addRequest (r := ⟨n, l, _, echo, ns⟩) hderiving ?_ hoffered hzero hno ?_) rfl
      fun _ => id
    · exact (h.core.role l n (mem_rolesOf.2 (.inr (.inr hn)))).1
    · intro j hj
      have hj' : n ∈ rolesOf (s.link j) := by
        rw [State.link_modLink] at hj
        refine mem_rolesOf.2 (.inr (.inr ?_))
        split at hj
        · next e => exact e ▸ hj
        · exact hj
      have hjl : l = j := ((h.core.role l n (mem_rolesOf.2 (.inr (.inr hn)))).1).symm.trans (h.core.role j n hj').1
      rw [← hjl, State.link_modLink_self]
      simp
  · exact h.count l _

theorem reportEpoch (l : LinkId) (epoch : Nat) :
    RoleLaw (reportEpoch l epoch s) ∧ KeepsReady s (reportEpoch l epoch s) := by
  unfold Machine.reportEpoch
  split
  · split
    · next hcutting =>
      refine ⟨h.retire hcutting.1, retire_keepsReady fun p hp j hj => ?_⟩
      have hrole : p ∈ rolesOf (s.link l) := mem_rolesOf.2 (.inl hp)
      obtain rfl : l = j := ((h.core.role l p hrole).1).symm.trans
        (h.core.role j p (mem_rolesOf.2 (.inr (.inl hj)))).1
      have hcount := h.core.count_rolesOf hrole
      simp [rolesOf, hp, hj] at hcount
    · exact ⟨h, .refl s⟩
  · exact ⟨h, .refl s⟩

theorem disposeGood {r : Opening} (hready : roleReady s (s.link r.link).current = true) :
    RoleLaw (disposeGood r s) := by
  unfold Machine.disposeGood
  dsimp only
  split
  · split
    · refine count ?_ r.link _
      exact h.of_same rfl rfl rfl
    · exact (h.freeFrame _).count r.link _
  · exact (h.handAccept hready _ _ _).freeFrame _
  · exact (h.trigger r.link).freeFrame _
  · exact (h.freeFrame _).count r.link _
  · exact (h.freeFrame _).count r.link _

theorem completeOpening {q r : Opening} (hq : s.opener.current = some q)
    (hr : r.slot = q.slot ∧ r.link = q.link ∧ r.discard = q.discard) : RoleLaw (completeOpening r s) := by
  obtain ⟨hslot, hlink, hdiscard⟩ := hr
  have hcleared : RoleCore (some r.slot) (s.setOpening none) := hslot ▸ h.core.clearOpening hq
  have hlower : ∀ t : State, t.keys = s.keys → (∀ l, roleView (t.link l) = roleView (s.link l)) →
      t.sealer = s.sealer → t.opener.current = none → RoleLaw (lowerInFlight r.slot t) := by
    intro t hkeys hlinks hsealer hopener
    refine RoleCore.lower (hcleared.of_views hlinks (fun k => .inl ?_) ?_) ?_
    · rw [State.slot, hkeys]
      rfl
    · rw [operationsView, operationsView, hkeys, hsealer, hopener]
      rfl
    · exact h.served.of_states (congrArg (fun x => x.waitList) hkeys) fun k hk => by rwa [State.slot, hkeys] at hk
  unfold Machine.completeOpening
  dsimp only
  split
  · exact hlower _ rfl (fun _ => rfl) rfl rfl
  · next hgood =>
    split
    · have hok := h.core.opening_ok hq
      rw [OpeningOk, ← hdiscard, if_neg hgood] at hok
      obtain ⟨hready, hstate⟩ := hok
      have hne : (s.slot r.slot).state ≠ .free := by
        rw [hslot]
        rcases hstate with e | ⟨e, _⟩ <;> simp [e]
      have henter : ∀ x : KeySlot, slotView (enterWindow r.seq x) = slotView x ∧
          (enterWindow r.seq x).inFlight = x.inFlight :=
        fun x => by
          unfold enterWindow
          split <;> exact ⟨rfl, rfl⟩
      have hentered : RoleCore (some r.slot) ((s.setOpening none).modSlot r.slot (enterWindow r.seq)) := by
        refine hcleared.of_views (fun _ => rfl) (fun i => ?_) rfl
        rw [State.slot_modSlot]
        split
        · next e => exact .inr ⟨e ▸ hne, by rw [← e]; exact henter _⟩
        · exact .inl rfl
      have hserved : WaitersServed ((s.setOpening none).modSlot r.slot (enterWindow r.seq)) := by
        refine h.served.of_states rfl fun i hi => ?_
        rw [State.slot_modSlot] at hi
        split at hi
        · next e => exact e ▸ (congrArg Prod.fst (henter _).1).symm.trans hi
        · exact hi
      have hlowered := hentered.lower hserved
      have hkept : KeepsReady s (lowerInFlight r.slot ((s.setOpening none).modSlot r.slot (enterWindow r.seq))) :=
        KeepsReady.trans (KeepsReady.modSlot (s := s.setOpening none) fun e => (congrArg Prod.fst (henter _).1).trans e)
          (lowerInFlight_keepsReady _ _)
      obtain ⟨hreported, hkept'⟩ := hlowered.reportEpoch r.link r.epoch
      exact hreported.disposeGood (hkept' _ (hkept _ (hlink ▸ hready)))
    · refine hlower _ rfl (fun l => ?_) rfl rfl
      have e : ((((s.setOpening none).freeFrame r.desc).count r.link .badTag).modEvents r.link fun e =>
          { e with tagFailures := satInc e.tagFailures }).link l =
          (((s.setOpening none).freeFrame r.desc).count r.link .badTag).link l := rfl
      rw [e, State.count, State.link_modLink]
      split
      · next e' => rw [← e']; rfl
      · rfl

/-! ### The completion of a derivation -/

/-- R36, R90: a derivation completes. -/
theorem completeDerivation {q d : Derivation} (hq : s.keys.derivation = some q) (hd : d.request = q.request) :
    RoleLaw (completeDerivation d s) := by
  have hcleared : RoleCore (some d.request.slot) (s.setDerivation none) := hd ▸ h.core.clearDerivation hq
  unfold Machine.completeDerivation
  dsimp only
  split
  · next hk =>
    have hready := hcleared.derived hk rfl (cipherKeyOf d.results) (integrityKeyOf d.results)
    have hlaw : RoleLaw ((s.setDerivation none).modSlot d.request.slot fun x =>
        { x with
          state := .ready, cipherKey := cipherKeyOf d.results, integrityKey := integrityKeyOf d.results,
          inFlight := x.inFlight - 1 }) := by
      refine h.served_of_core hready rfl fun i hi => ?_
      rw [State.slot_modSlot] at hi
      split at hi
      · cases hi
      · exact hi
    have hself : (((s.setDerivation none).modSlot d.request.slot fun x =>
        { x with
          state := .ready, cipherKey := cipherKeyOf d.results, integrityKey := integrityKeyOf d.results,
          inFlight := x.inFlight - 1 }).slot d.request.slot).state = .ready := by
      rw [State.slot_modSlot_self]
    split
    · next hnext =>
      generalize (s.setDerivation none).modSlot d.request.slot _ = t at hlaw hself hnext ⊢
      have hroles := hlaw.core.roles d.request.link
      have hderiving : (t.link d.request.link).renewal.state = .derivingNext := by
        refine (hroles.next.1 (by rw [hnext]; rfl)).resolve_left fun hoffering => ?_
        have := (hroles.offered _ hnext hoffering).1
        rw [hself] at this
        cases this
      have hpending := hlaw.notPending_of_not_quiet (l := d.request.link) (by simp [hderiving])
      refine hlaw.served_of_core (hlaw.core.modLink { hroles with } ?_ (fun _ => rfl) (.inl rfl) rfl
        fun hp => absurd (hpending.symm.trans hp) (by simp)) rfl fun _ => id
      refine ⟨hderiving, rfl, rfl, rfl, fun n hn => ?_⟩
      obtain rfl := Option.some.inj (hnext.symm.trans hn)
      exact hself
    · exact hlaw
  · exact hcleared.lower h.served

end RoleLaw

end Sys2Proof.Machine
end

section
/-! The laws of the key roles through activations, expiries and resets, and through every step. -/

namespace Sys2Proof.Machine

namespace RoleLaw

variable {s : State} (h : RoleLaw s)
include h

/-- R12: an activation on a FREE slot. -/
theorem activateOn {l : LinkId} {k : SlotNo} (hl : (s.link l).state = .configured) (hk : lowestFreeSlot s = some k) :
    RoleLaw (activateOn l k s) := by
  have hfree := lowestFreeSlot_eq_some hk
  obtain ⟨hcurrent, hnext, hprevious, hquiet, hpending⟩ := h.not_live (l := l) (by simp [Link.live, hl])
  have hlane : (s.link l).lane = none := LaneTable.eq_none (h.core.lane l) (by simp [hquiet]) (by simp [hquiet])
  have hlink : ∀ j, l ≠ j → (Machine.activateOn l k s).link j = s.link j := fun j hj =>
    tget_tput_of_ne _ _ hj
  obtain ⟨x, hself, hstate, hx⟩ : ∃ x, (Machine.activateOn l k s).link l = x ∧ x.state = .active ∧
      x.current = some k ∧ x.next = none ∧ x.previous = none ∧ x.lane = none ∧ x.renewal.state = .quiet ∧
      x.renewal.pendingTrigger = false :=
    ⟨_, tget_tput_self _ _ _, rfl, rfl, hnext, hprevious, hlane, rfl, rfl⟩
  obtain ⟨xcurrent, xnext, xprevious, xlane, xquiet, xpending⟩ := hx
  have hallocates : Allocates s (Machine.activateOn l k s) l k 0 :=
    ⟨hfree, hlink, fun i => tget_tput _ _ _ _, .inr ⟨⟨k, l, 0, 0, 0⟩, rfl, rfl, rfl, rfl⟩, rfl, rfl, rfl,
      h.core.waitNodup, fun j => ⟨fun hj => ⟨hj, fun e => h.notMem_of_not_pending hpending (e ▸ hj)⟩, And.left⟩⟩
  refine (roleLaw_iff _).2 ⟨h.core.allocate hallocates (Nat.zero_le _) ?_ ?_ (fun i => ?_) (.inl hcurrent) ?_,
    h.served.of_states rfl fun i hi => ?_⟩
  · rw [hself]
    refine rolesOk_atRest ?_ xprevious xnext (.inl xquiet) fun _ => hstate
    simp [xcurrent, Link.live, hstate]
  · rw [hself]
    exact laneTable_of_none xlane
  · rw [hself]
    by_cases hi : k = i <;> simp [rolesOf, xcurrent, xnext, xprevious, hcurrent, hnext, hprevious, hi]
  · rw [hself]
    exact xpending
  · rw [hallocates.slot] at hi
    split at hi
    · cases hi
    · exact hi

/-- R84, R85: the offer timer expires. -/
theorem expireOffer (l : LinkId) : RoleLaw (expireOffer l s) := by
  have hstopped : RoleLaw (s.modRenewal l fun r => { r with offer := .stopped }) := h.modRenewal_same
  unfold Machine.expireOffer
  dsimp only
  split
  · next hoffering =>
    have hstate : ((s.modRenewal l fun r => { r with offer := .stopped }).link l).renewal.state = .offering := by
      rw [State.link_modRenewal_self]
      exact hoffering
    split
    · have hroles := hstopped.core.roles l
      have hpending := hstopped.notPending_of_not_quiet (l := l) (by rw [hstate]; simp)
      exact hstopped.served_of_core (hstopped.core.modLink { hroles with } ⟨hstate, rfl, rfl⟩ (fun _ => rfl)
        (.inl rfl) rfl fun hp => absurd (hpending.symm.trans hp) (by simp)) rfl fun _ => id
    · exact hstopped.failRenewal hstate
  · exact hstopped

/-- R86: a backoff ends. -/
theorem quietFromBackoff {l : LinkId} (hl : (s.link l).renewal.state = .backoff) :
    RoleLaw (s.modRenewal l fun r => { r with backoff := .stopped, state := .quiet }) := by
  have hroles := h.core.roles l
  have hpending := h.notPending_of_not_quiet (l := l) (by simp [hl])
  have hnext : (s.link l).next = none := by
    have := hroles.next
    rw [hl] at this
    simpa using this
  have hprevious : (s.link l).previous = none := by
    have := hroles.previous
    rw [hl] at this
    simpa using this
  have hlane : (s.link l).lane = none := LaneTable.eq_none (h.core.lane l) (by simp [hl]) (by simp [hl])
  rw [State.modRenewal_eq_modLink]
  refine h.served_of_core (h.core.modLink ?_ (laneTable_of_none hlane) (fun _ => rfl) (.inl rfl) rfl
    fun hp => absurd (hpending.symm.trans hp) (by simp)) rfl fun _ => id
  refine rolesOk_atRest hroles.current hprevious hnext (.inl rfl) ?_
  rintro (hne | hp)
  · exact absurd rfl hne
  · exact absurd (hpending.symm.trans hp) (by simp)

theorem expire (t : TimerName) (l : LinkId) : RoleLaw (expire t l s) := by
  cases t with
  | interval => exact (modRenewal_same h).trigger l
  | offer => exact h.expireOffer l
  | grace =>
    unfold Machine.expire expireGrace
    dsimp only
    split
    · next hcutting => exact (modRenewal_same h).retire (by rw [State.link_modRenewal_self]; exact hcutting)
    · exact modRenewal_same h
  | backoff =>
    unfold Machine.expire expireBackoff
    dsimp only
    split
    · next hbackoff =>
      have hquiet := h.quietFromBackoff hbackoff
      rw [State.modRenewal_eq_modLink] at hquiet
      rw [State.modRenewal_eq_modLink, State.modRenewal_eq_modLink, State.modLink_modLink]
      exact hquiet.reevaluate l
    · exact modRenewal_same h

theorem countTimers : RoleLaw (countTimers s) := by
  refine h.of_views (fun l => ?_) (fun _ => .inl rfl) rfl
  rw [State.link_countTimers]
  rfl

end RoleLaw

/-- R168: after a reset no link fills a role, and every slot is FREE. -/
theorem roleLaw_resetPart (cause : ResetCause) (input : Bool) (s : State) : RoleLaw (resetPart cause input s) := by
  have hslot : ∀ k, (resetPart cause input s).slot k = {} := fun k => by
    simp [resetPart, State.afterReset, State.slot, KeyStore.reset, tget]
  have hlink := resetPart_link cause input s
  have hrequests : (resetPart cause input s).keys.requests = [] := rfl
  have hderivation : (resetPart cause input s).keys.derivation = none := rfl
  have hsealer : (resetPart cause input s).sealer.current = none := rfl
  have hopener : (resetPart cause input s).opener.current = none := rfl
  have hwait : (resetPart cause input s).keys.waitList = [] := rfl
  refine (roleLaw_iff _).2 ⟨⟨fun l => ?_, fun l => ?_, fun k _ => hslot k, fun k hk => ?_, fun l k hk => ?_,
    fun k hk => ?_, fun k => ?_, fun k => ?_, ⟨?_, fun r hr => ?_, fun d hd => ?_⟩,
    ⟨fun r hr => ?_, fun r hr => ?_⟩, ?_, fun l => ?_, fun l hp => ?_⟩, .inl hwait⟩
  · rw [hlink]
    exact rolesOk_atRest (by simp [Link.live]) rfl rfl (.inl rfl) (by simp)
  · rw [hlink]
    exact laneTable_of_none rfl
  · rw [FillsRole, hslot] at hk
    simp at hk
  · rw [hlink] at hk
    exact absurd hk List.not_mem_nil
  · rw [hslot] at hk
    cases hk
  · rw [hslot, operationsOn, hsealer, hopener, hderivation]
    rfl
  · rw [hslot]
    exact Nat.zero_le _
  · rw [hrequests]
    exact List.nodup_nil
  · rw [hrequests] at hr
    exact absurd hr List.not_mem_nil
  · rw [hderivation] at hd
    cases hd
  · rw [hsealer] at hr
    cases hr
  · rw [hopener] at hr
    cases hr
  · rw [hwait]
    exact List.nodup_nil
  · rw [hwait, hlink]
    simp
  · rw [hlink] at hp
    cases hp

theorem roleLaw_engine : EngineKeep RoleLaw where
  written _ _ _ h := h.of_same rfl rfl rfl
  sealing s r left chain hr h := h.of_same rfl rfl (by simp [operationsView, State.setSealing, hr])
  sealed _ _ _ _ hr h := h.completeSealing hr rfl
  opening s r left chain hr h := h.of_same rfl rfl (by simp [operationsView, State.setOpening, hr])
  opened _ _ _ _ hr h := h.completeOpening hr ⟨rfl, rfl, rfl⟩
  derivation s d left results hd h := h.of_same rfl rfl (by simp [operationsView, State.setDerivation, hd])
  derived _ _ _ _ hd h := h.completeDerivation hd rfl

theorem roleLaw_effects : EffectsKeep RoleLaw where
  refresh _ h := h.of_same rfl rfl rfl
  draw _ _ h := h.of_same rfl rfl rfl
  sealing _ _ hlist h := h.startSealing hlist
  opening _ _ h := h.startOpening
  derivation _ _ h := h.beginDerivation
  queue _ _ h := h.of_same rfl rfl rfl
  host _ _ _ h := h.of_same rfl rfl rfl
  traffic _ _ _ _ _ h := h.of_same rfl rfl rfl
  sent _ _ _ _ _ h := h.of_same rfl rfl rfl
  reset cause input s _ := roleLaw_resetPart cause input s
  report _ _ _ _ h := h.modLink_same
  holds _ _ _ _ _ h := h.modLink_same
  profile s l st p hold hnew _ h := by
    have hdead : (s.link l).live = false := Link.live_eq_false.2 hold
    obtain ⟨-, hnext, hprevious, hquiet, hpending⟩ := h.not_live hdead
    exact h.atRest_modLink (f := fun x => { x with state := st, profile := p }) (fun _ => rfl) hnext hprevious
      ((Link.live_eq_false.2 hnew).trans hdead.symm) hquiet hpending
  root _ _ _ h := h.of_same rfl rfl rfl
  activation _ _ _ hl hk h := h.activateOn hl hk
  isolation _ _ hl h := h.isolate hl
  resumption s l hl h := by
    have hactive : (s.link l).state ≠ .active := by simp [hl]
    have hquiet : (s.link l).renewal.state = .quiet := by
      by_contra hne
      exact hactive (h.renewing hne).1
    have hpending : (s.link l).renewal.pendingTrigger = false := by
      by_contra hp
      exact hactive ((h.core.roles l).active (.inr (by simpa using hp)))
    obtain ⟨hnext, hprevious⟩ := h.core.roles_of_quiet hquiet
    exact h.atRest_modLink (f := fun x => { x with state := .active }) (fun _ => rfl) hnext hprevious
      ((Link.live_eq_true.2 (.inl rfl)).trans (Link.live_eq_true.2 (.inr hl)).symm) hquiet hpending
  triggered _ l h := h.trigger l
  torn _ l _ h := h.teardown l
  timers _ h := h.countTimers
  offerTimer _ _ _ h := h.modRenewal_same
  expiry t l _ h := h.expire t l
  operation r s h := roleLaw_engine.endOperation r s h
  engine _ _ h := h.of_same rfl rfl rfl
  outbound _ _ _ _ _ _ _ _ _ _ _ h := h.of_same rfl rfl rfl
  dequeue s l n h := by
    obtain ⟨descs, e, _⟩ := freeFrames_eq ((s.queue l).take n) s
    rw [e]
    exact h.of_same rfl rfl rfl
  units _ _ _ _ h := h.of_same rfl rfl rfl
  trunk _ _ _ _ _ _ h := h.of_same rfl rfl rfl
  monitor _ p _ _ h := by cases p <;> exact h.of_same rfl rfl rfl
  reception s l h := by
    obtain ⟨receivers, descs, e⟩ := abandonReception_eq l s
    rw [e]
    exact h.of_same rfl rfl rfl
  transmission s l h := by
    obtain ⟨descs, e, _⟩ := abandonTransmission_eq l s
    rw [e]
    exact RoleLaw.of_same (s := s.modLink l fun x => { x with stats := _ }) h.modLink_same rfl rfl rfl
  receiver _ _ _ _ h := h.of_same rfl rfl rfl
  inbound _ _ _ _ _ _ _ _ h := h.of_same rfl rfl rfl
  received _ _ _ _ _ h := h.of_same rfl rfl rfl
  transmitter _ _ _ _ h := h.of_same rfl rfl rfl
  transmitted _ _ _ _ _ h := h.of_same rfl rfl rfl
  counts _ _ _ _ h := h.of_same rfl rfl rfl
  policy _ _ _ _ h := h.of_same rfl rfl rfl
  entries _ _ _ h := h.of_same rfl rfl rfl

/-- R2, R26, R28, R75: every step keeps the laws of the key roles. -/
theorem step_roleLaw {s t : State} (hs : RoleLaw s) (ht : step s = .next t) : RoleLaw t :=
  roleLaw_effects.step hs ht

end Sys2Proof.Machine
end

section
/-! The starts that the blocks can take in one event: each takes one of a number that bounds them. -/

namespace Sys2Proof.Machine

/-- How many of an event's starts one link can still bring about, at most: a lane message to seal, now or after a
renewal has started, and a head frame to hold. -/
def linkStarts (x : Link) : Nat :=
  (if x.state = .active ∧ x.renewal.state = .quiet ∨ x.lane.isSome = true then 2 else 0) + if x.budgetHeld then 0 else 1

/-- How many starts an event can still take, at most: one for each frame on the open list, one for an idle deriver,
one for a free sealer, and those of the links. -/
@[irreducible] def startsLeft (s : State) : Nat :=
  s.opener.waiting.length + (if s.keys.derivation.isNone then 1 else 0) + (if s.sealer.current.isNone then 1 else 0) +
    ∑ l : Fin 64, linkStarts (s.link l)

theorem startsLeft_eq (s : State) : startsLeft s =
    s.opener.waiting.length + (if s.keys.derivation.isNone then 1 else 0) + (if s.sealer.current.isNone then 1 else 0) +
      ∑ l : Fin 64, linkStarts (tget s.links l) := by
  unfold startsLeft
  rfl

/-- The number of starts left does not look at what is elsewhere. -/
theorem startsLeft_congr {s t : State} (hl : t.links = s.links) (hw : t.opener.waiting = s.opener.waiting)
    (hd : t.keys.derivation = s.keys.derivation) (hs : t.sealer.current = s.sealer.current) :
    startsLeft t = startsLeft s := by
  rw [startsLeft_eq, startsLeft_eq, hl, hw, hd, hs]

theorem linkStarts_le (x : Link) : linkStarts x ≤ 3 := by
  unfold linkStarts
  split <;> split <;> omega

/-- The bound on the starts of one event is one. -/
theorem startsLeft_le_startBound {s : State} (h : s.opener.waiting.length ≤ 512) : startsLeft s ≤ startBound := by
  have hlinks : ∑ l : Fin 64, linkStarts (s.link l) ≤ 64 * 3 :=
    (Finset.sum_le_card_nsmul Finset.univ _ 3 fun l _ => linkStarts_le _).trans (by simp)
  unfold startsLeft startBound
  split <;> split <;> omega

/-! ### What raises no starts -/

theorem startsLeft_modLink_add (s : State) (l : LinkId) (f : Link → Link) :
    startsLeft (s.modLink l f) + linkStarts (s.link l) = startsLeft s + linkStarts (f (s.link l)) := by
  have h := sum_tput s.links l (f (s.link l)) linkStarts
  have e : startsLeft (s.modLink l f) = s.opener.waiting.length + (if s.keys.derivation.isNone then 1 else 0) +
      (if s.sealer.current.isNone then 1 else 0) + ∑ j : Fin 64, linkStarts (tget (tput s.links l (f (s.link l))) j) :=
    startsLeft_eq _
  have e' : linkStarts (s.link l) = linkStarts (tget s.links l) := rfl
  rw [e, startsLeft_eq s]
  omega

theorem startsLeft_modLink_le {s : State} {l : LinkId} {f : Link → Link}
    (hf : linkStarts (f (s.link l)) ≤ linkStarts (s.link l)) : startsLeft (s.modLink l f) ≤ startsLeft s := by
  have := startsLeft_modLink_add s l f
  omega

theorem startsLeft_modLink_lt {s : State} {l : LinkId} {f : Link → Link}
    (hf : linkStarts (f (s.link l)) < linkStarts (s.link l)) : startsLeft (s.modLink l f) < startsLeft s := by
  have := startsLeft_modLink_add s l f
  omega

theorem startsLeft_eventPending (l : LinkId) (s : State) : startsLeft (s.setEventPending l) = startsLeft s := by
  rcases setEventPending_cases l s with ⟨_, e⟩ | ⟨_, e⟩ <;> rw [e]
  have h := startsLeft_modLink_add s l fun x => { x with eventPending := true }
  have e : linkStarts { s.link l with eventPending := true } = linkStarts (s.link l) := rfl
  rw [e] at h
  have hnotice : ∀ t : State, startsLeft (t.listNotice (.link l)) = startsLeft t := fun _ =>
    startsLeft_congr rfl rfl rfl rfl
  rw [hnotice]
  omega

theorem startsLeft_grant (s : State) : startsLeft (grant s) = startsLeft s := by
  unfold grant
  split
  · rfl
  · split
    · exact startsLeft_congr rfl rfl rfl rfl
    · rfl

/-- Starts of renewals for links that are ACTIVE and QUIET bring about no more than was counted for those links. -/
theorem startsLeft_frame {ls : List LinkId} {s t : State} (h : RenewalFrame ls s t)
    (hl : ∀ l ∈ ls, (s.link l).state = .active ∧ (s.link l).renewal.state = .quiet) : startsLeft t ≤ startsLeft s := by
  have hlink : ∀ l : LinkId, linkStarts (t.link l) ≤ linkStarts (s.link l) := fun l => by
    by_cases hm : l ∈ ls
    · have hheld : (t.link l).budgetHeld = (s.link l).budgetHeld := congrArg (fun x => x.budgetHeld) (h.kept l)
      have hs : linkStarts (s.link l) = 2 + if (s.link l).budgetHeld then 0 else 1 := by
        rw [linkStarts, if_pos (.inl (hl l hm))]
      rw [hs, linkStarts, hheld]
      exact Nat.add_le_add_right (by split <;> omega) _
    · rw [h.link l hm]
  have hsum : ∑ l : Fin 64, linkStarts (t.link l) ≤ ∑ l : Fin 64, linkStarts (s.link l) :=
    Finset.sum_le_sum fun l _ => hlink l
  have e : startsLeft t = s.opener.waiting.length + (if s.keys.derivation.isNone then 1 else 0) +
      (if s.sealer.current.isNone then 1 else 0) + ∑ l : Fin 64, linkStarts (t.link l) := by
    rw [startsLeft, h.rest]
  rw [e]
  unfold startsLeft
  omega

theorem startsLeft_trigger (l : LinkId) (s : State) : startsLeft (trigger l s) ≤ startsLeft s := by
  by_cases h : mayAct (s.link l) = true
  · obtain ⟨hactive, hquiet, -⟩ := (mayAct_iff _).1 h
    refine startsLeft_frame (trigger_frame l s) fun j hj => ?_
    rw [List.mem_singleton.1 hj]
    exact ⟨hactive, hquiet⟩
  · rw [trigger, if_neg h]

theorem startsLeft_chargeSlot (k : SlotNo) (l : LinkId) (n : Nat) (s : State) :
    startsLeft (chargeSlot k l n s) ≤ startsLeft s := by
  obtain ⟨f, -, e⟩ := chargeSlot_frame k l n s
  have hslot : startsLeft (s.modSlot k f) = startsLeft s := startsLeft_congr rfl rfl rfl rfl
  rcases e with e | e <;> rw [e]
  · exact hslot.le
  · exact (startsLeft_trigger l (s.modSlot k f)).trans hslot.le

/-- R49: a frame that enters sealing takes a start. -/
theorem startsLeft_setSealing {s t : State} {r : Sealing} (hsealer : s.sealer.current = none)
    (hl : t.links = s.links) (hw : t.opener.waiting = s.opener.waiting) (hd : t.keys.derivation = s.keys.derivation) :
    startsLeft (t.setSealing (some r)) < startsLeft s := by
  rw [startsLeft_eq, startsLeft_eq s, hsealer]
  simp only [State.setSealing, hl, hw, hd, Option.isNone_none, Option.isNone_some, if_true, Bool.false_eq_true,
    if_false]
  omega

theorem startsLeft_admitSealing {l : LinkId} {k : SlotNo} {s : State} (hsealer : s.sealer.current = none)
    (kind : FrameKind) (seq p : Nat) (desc : Option DescNo) (payload : List Byte) :
    startsLeft (admitSealing l kind k seq p desc payload s) < startsLeft s := by
  have hreserved : startsLeft (s.modSlot k fun x => { x with next := seqAfter seq }) = startsLeft s :=
    startsLeft_congr rfl rfl rfl rfl
  have hcharged := startsLeft_chargeSlot k l (cost p) (s.modSlot k fun x => { x with next := seqAfter seq })
  have hframe := chargeSlot_chargeFrame k l (cost p) (s.modSlot k fun x => { x with next := seqAfter seq })
  unfold admitSealing
  dsimp only
  rw [hreserved] at hcharged
  generalize chargeSlot k l (cost p) (s.modSlot k fun x => { x with next := seqAfter seq }) = t at hcharged hframe ⊢
  have hnone : t.sealer.current = none := by
    rw [hframe.sealer]
    exact hsealer
  rw [startsLeft_grant]
  refine lt_of_lt_of_le ?_ hcharged
  split <;> exact startsLeft_setSealing hnone rfl rfl rfl

end Sys2Proof.Machine
end

section
/-! Each start that is taken lowers the number of those left; and so the blocks come to rest within the bound. -/

namespace Sys2Proof.Machine

/-! ### Every start takes one -/

theorem startsLeft_released (ks : List SlotNo) (s : State) : startsLeft (released ks s) = startsLeft s := by
  exact startsLeft_congr (released_links _ _) (by rw [released_opener]) (released_keys_derivation _ _)
    (by rw [released_sealer])

theorem linkStarts_of_waiting {x : Link} (hlane : x.lane = none)
    (hstate : x.renewal.state ≠ .quiet ∨ x.state ≠ .active) : linkStarts x ≤ 1 := by
  unfold linkStarts
  rw [if_neg]
  · split <;> omega
  · rw [hlane]
    rintro (⟨hactive, hquiet⟩ | hsome)
    · exact hstate.elim (fun e => e hquiet) fun e => e hactive
    · cases hsome

/-- A link with a message in its lane can bring about two starts or three. -/
theorem two_le_linkStarts {x : Link} {m : LaneMsg} (hm : x.lane = some m) : 2 ≤ linkStarts x := by
  unfold linkStarts
  rw [if_pos (.inr (by rw [hm]; rfl))]
  omega

/-- R46: a traffic frame is admitted, or held. -/
theorem startsLeft_startTraffic {s : State} (hframes : ∀ l, ∀ d ∈ s.queue l, (s.desc d).isSome = true) {l : LinkId}
    (hsealer : s.sealer.current = none) (hl : headSendable s l = true) :
    startsLeft (startTraffic l s) < startsLeft s := by
  obtain ⟨c, hc, -⟩ := (roleReady_iff s _).1 (headSendable_ready hl)
  have hqueue : s.queue l ≠ [] ∧ (s.link l).budgetHeld = false := by
    simp only [headSendable, Bool.and_eq_true] at hl
    obtain ⟨⟨⟨⟨hq, -⟩, -⟩, hb⟩, -⟩ := hl
    exact ⟨by simpa using hq, by simpa using hb⟩
  obtain ⟨d, rest, hq⟩ := List.exists_cons_of_ne_nil hqueue.1
  obtain ⟨x, hx⟩ := Option.isSome_iff_exists.1 (hframes l d (by rw [hq]; exact List.mem_cons_self))
  unfold startTraffic
  simp only [hc, hq, hx]
  split
  · have hqueue : startsLeft (s.setQueue l rest) = startsLeft s := startsLeft_congr rfl rfl rfl rfl
    have hspent : startsLeft ((s.setQueue l rest).modLink l spendAllowance) ≤ startsLeft (s.setQueue l rest) := by
      refine startsLeft_modLink_le (le_of_eq ?_)
      unfold spendAllowance
      split <;> rfl
    exact lt_of_lt_of_le (startsLeft_admitSealing (s := (s.setQueue l rest).modLink l spendAllowance) hsealer _ _ _ _ _)
      (hspent.trans hqueue.le)
  · refine (startsLeft_trigger _ _).trans_lt (startsLeft_modLink_lt ?_)
    unfold linkStarts
    rw [hqueue.2]
    exact Nat.lt_succ_self _

namespace RoleLaw

variable {s : State} (h : RoleLaw s)
include h

/-- R29, R32: slots of a link released and handed over. -/
theorem startsLeft_releaseLink {l : LinkId} {f : Link → Link} (ks : List SlotNo)
    (hf : linkStarts (f (s.link l)) ≤ linkStarts (s.link l)) :
    startsLeft (Machine.handOver (released ks (leaveWaitList l (s.modLink l f)))) ≤ startsLeft s := by
  have hleave : startsLeft (leaveWaitList l (s.modLink l f)) = startsLeft (s.modLink l f) :=
    startsLeft_congr rfl rfl rfl rfl
  refine le_trans (startsLeft_frame (handOver_frame _).1 fun j hj => ?_)
    (((startsLeft_released ks _).trans hleave).le.trans (startsLeft_modLink_le hf))
  have hwait : (leaveWaitList l (s.modLink l f)).keys.waitList = s.keys.waitList.filter fun j => decide (j ≠ l) := rfl
  rw [released_keys_waitList, hwait] at hj
  obtain ⟨hj, hne⟩ := List.mem_filter.1 hj
  have hp := (h.core.waits j).1 hj
  rw [released_link, leaveWaitList_link, State.link_modLink_of_ne _ _ (Ne.symm (of_decide_eq_true hne))]
  exact ⟨(h.core.roles j).active (.inr hp), (h.core.waitQuiet j hp).1⟩

theorem startsLeft_isolated (l : LinkId) : startsLeft (Machine.isolated l s) ≤ startsLeft s := by
  rw [isolated_eq]
  refine h.startsLeft_releaseLink _ ?_
  have e : linkStarts (isolatedLink (s.link l)) = 0 + if (s.link l).budgetHeld then 0 else 1 := by
    rw [linkStarts, if_neg]
    · rfl
    · simp [isolatedLink]
  rw [e, linkStarts]
  omega

theorem startsLeft_failRenewal {l : LinkId} (hl : (s.link l).renewal.state = .offering) :
    startsLeft (Machine.failRenewal l s) ≤ startsLeft s := by
  have hbackoff : startsLeft (Machine.failedToBackoff l s) ≤ startsLeft s := by
    obtain ⟨-, hpending, hout⟩ := h.renewing (l := l) (by simp [hl])
    rw [failedToBackoff_eq hout, ← h.leaveWaitList_modLink hpending]
    refine h.startsLeft_releaseLink _ ?_
    have e : linkStarts (backoffLink (s.link l)) = 0 + if (s.link l).budgetHeld then 0 else 1 := by
      rw [linkStarts, if_neg]
      · rfl
      · simp [backoffLink]
    rw [e, linkStarts]
    omega
  rcases h.failRenewal_cases hl with e | ⟨-, e⟩ <;> rw [e]
  · exact hbackoff
  · rw [startsLeft_eventPending]
    exact ((h.failedToBackoff hl).startsLeft_isolated l).trans hbackoff

/-- R47: an OFFER that leaves the lane is admitted, or its renewal fails. -/
theorem startsLeft_startOffer {l : LinkId} (hsealer : s.sealer.current = none)
    (hstate : (s.link l).renewal.state = .offering) (e : Nat) (nonce : Nonce) (attempt : Nat) :
    startsLeft (startControl l (.offer e nonce attempt) s) ≤ startsLeft s := by
  unfold startControl
  dsimp only
  split
  · split
    · exact (startsLeft_admitSealing hsealer _ _ _ _ _).le
    · exact h.startsLeft_failRenewal hstate
  · exact Nat.le_refl _

/-- R45: a CUTOVER that leaves the lane takes a start after the cutover, or none. -/
theorem startsLeft_startCutover {l : LinkId} (hsealer : s.sealer.current = none)
    (hprevious : (s.link l).previous = none) (e : Nat) (head shop : Nonce) :
    startsLeft (startControl l (.cutover e head shop) s) ≤ startsLeft (s.modLink l cutoverLink) := by
  have hcut : startsLeft (Machine.cutover l s) = startsLeft (s.modLink l cutoverLink) := by
    rw [cutover_eq hprevious h.served, startsLeft_eventPending]
  have hnone : (Machine.cutover l s).sealer.current = none := by
    rw [cutover_sealer l hprevious h.served]
    exact hsealer
  rw [← hcut]
  unfold startControl
  dsimp only
  split
  · split
    · exact (startsLeft_admitSealing hnone _ _ _ _ _).le
    · exact Nat.le_refl _
  · exact Nat.le_refl _

/-- R44: a sealing start empties a lane, fills the sealer or holds a head frame. -/
theorem startsLeft_startSealing (hframes : ∀ l, ∀ d ∈ s.queue l, (s.desc d).isSome = true)
    (hready : sealerReady s = true) (hlist : ∀ l ∈ s.sealer.requests, sealEligible s l = true) :
    startsLeft (Machine.startSealing s) < startsLeft s := by
  rw [sealerReady, Bool.and_eq_true] at hready
  have hsealer : s.sealer.current = none := by simpa using hready.1
  obtain ⟨l, rest, hrequests⟩ := List.exists_cons_of_ne_nil (l := s.sealer.requests) (by simpa using hready.2)
  have heligible := hlist l (by rw [hrequests]; exact List.mem_cons_self)
  have hlisted : RoleLaw (s.setSealRequests rest) := h.of_same rfl rfl rfl
  have hemptied := hlisted.served_of_core (hlisted.core.emptyLane l) rfl fun _ => id
  have hself : ((s.setSealRequests rest).modLink l fun x => { x with lane := none }).link l =
      { s.link l with lane := none } := State.link_modLink_self _ _ _
  have hsame : startsLeft (s.setSealRequests rest) = startsLeft s := startsLeft_congr rfl rfl rfl rfl
  unfold Machine.startSealing
  simp only [hsealer, hrequests, State.link_setSealRequests]
  rw [← hsame]
  split
  · next m hm =>
    have htwo : 2 ≤ linkStarts ((s.setSealRequests rest).link l) := two_le_linkStarts hm
    cases m with
    | offer e nonce attempt =>
      have hstate := h.offer_waits hm
      refine lt_of_le_of_lt (hemptied.startsLeft_startOffer hsealer (by rw [hself]; exact hstate) _ _ _) ?_
      refine startsLeft_modLink_lt (lt_of_le_of_lt (linkStarts_of_waiting rfl (.inl ?_)) htwo)
      rw [State.link_setSealRequests, hstate]
      simp
    | cutover e head shop =>
      obtain ⟨-, hprevious, -⟩ := h.cutover_waits hm
      refine lt_of_le_of_lt (hemptied.startsLeft_startCutover hsealer (by rw [hself]; exact hprevious) _ _ _) ?_
      rw [State.modLink_modLink]
      refine startsLeft_modLink_lt (lt_of_le_of_lt (linkStarts_of_waiting rfl (.inl ?_)) htwo)
      simp [cutoverLink]
  · next hm =>
    exact startsLeft_startTraffic (s := s.setSealRequests rest) hframes hsealer
      (headSendable_of_emptyLane heligible hm)

end RoleLaw

/-- R60: an opening start takes a frame from the open list. -/
theorem startsLeft_startOpening {s : State} (hready : openerReady s = true) :
    startsLeft (startOpening s) < startsLeft s := by
  rw [openerReady, Bool.and_eq_true] at hready
  have hopener : s.opener.current = none := by simpa using hready.1
  obtain ⟨d, rest, hwaiting⟩ := List.exists_cons_of_ne_nil (l := s.opener.waiting) (by simpa using hready.2)
  have htaken : startsLeft (s.setOpenList rest) < startsLeft s := by
    have e : startsLeft (s.setOpenList rest) = rest.length + (if s.keys.derivation.isNone then 1 else 0) +
        (if s.sealer.current.isNone then 1 else 0) + ∑ l : Fin 64, linkStarts (tget s.links l) := startsLeft_eq _
    rw [e, startsLeft_eq s, hwaiting, List.length_cons]
    omega
  unfold startOpening
  simp only [hopener, hwaiting]
  split
  · split
    · next k _ =>
      have hcharged : ∀ (t : State) (r : Opening),
          startsLeft ((raiseInFlight k t).setOpening (some r)) = startsLeft t :=
        fun _ _ => startsLeft_congr rfl rfl rfl rfl
      unfold chargeOpening
      rw [startsLeft_grant, hcharged]
      exact (startsLeft_chargeSlot _ _ _ _).trans_lt htaken
    · have hfreed : startsLeft ((s.setOpenList rest).freeFrame d) = startsLeft (s.setOpenList rest) :=
        startsLeft_congr rfl rfl rfl rfl
      have hevents : ∀ (t : State) l f, startsLeft (t.modEvents l f) = startsLeft t := fun _ _ _ =>
        startsLeft_congr rfl rfl rfl rfl
      have hcounted : ∀ l c, startsLeft (((s.setOpenList rest).freeFrame d).count l c) < startsLeft s := fun l c =>
        (startsLeft_modLink_le (Nat.le_refl _)).trans_lt (hfreed.trans_lt htaken)
      unfold rejectFrame countEpochEvent
      split
      · rw [hevents]
        exact hcounted _ _
      · exact hcounted _ _
  · exact htaken

/-- R35: a derivation that begins fills the deriver. -/
theorem startsLeft_beginDerivation {s : State} (hready : deriverReady s = true) :
    startsLeft (beginDerivation s) < startsLeft s := by
  rw [deriverReady, Bool.and_eq_true] at hready
  have hnone : s.keys.derivation = none := by simpa using hready.1
  obtain ⟨r, rest, hrequests⟩ := List.exists_cons_of_ne_nil (l := s.keys.requests) (by simpa using hready.2)
  unfold beginDerivation
  simp only [hnone, hrequests]
  rw [startsLeft_grant]
  have e : ∀ d, startsLeft ((raiseInFlight r.slot (s.setRequests rest)).setDerivation (some d)) =
      s.opener.waiting.length + 0 + (if s.sealer.current.isNone then 1 else 0) +
        ∑ l : Fin 64, linkStarts (tget s.links l) := fun _ => startsLeft_eq _
  rw [e, startsLeft_eq s, hnone]
  simp only [Option.isNone_none, if_true]
  omega

end Sys2Proof.Machine
end

section
/-! The blocks at rest: no start that can be taken is left. -/

namespace Sys2Proof.Machine

/-- What the operations keep of two laws, they keep of both. -/
theorem EffectsKeep.and {P Q : State → Prop} (h : EffectsKeep P) (h' : EffectsKeep Q) :
    EffectsKeep fun s => P s ∧ Q s where
  refresh _ hs := ⟨h.refresh _ hs.1, h'.refresh _ hs.2⟩
  draw _ _ hs := ⟨h.draw _ _ hs.1, h'.draw _ _ hs.2⟩
  sealing _ ha hb hs := ⟨h.sealing _ ha hb hs.1, h'.sealing _ ha hb hs.2⟩
  opening _ ha hs := ⟨h.opening _ ha hs.1, h'.opening _ ha hs.2⟩
  derivation _ ha hs := ⟨h.derivation _ ha hs.1, h'.derivation _ ha hs.2⟩
  queue _ _ hs := ⟨h.queue _ _ hs.1, h'.queue _ _ hs.2⟩
  host _ _ ha hs := ⟨h.host _ _ ha hs.1, h'.host _ _ ha hs.2⟩
  traffic _ _ _ ha hb hs := ⟨h.traffic _ _ _ ha hb hs.1, h'.traffic _ _ _ ha hb hs.2⟩
  sent _ _ _ ha hb hs := ⟨h.sent _ _ _ ha hb hs.1, h'.sent _ _ _ ha hb hs.2⟩
  reset _ _ _ hs := ⟨h.reset _ _ _ hs.1, h'.reset _ _ _ hs.2⟩
  report _ _ _ _ hs := ⟨h.report _ _ _ _ hs.1, h'.report _ _ _ _ hs.2⟩
  holds _ _ _ _ ha hs := ⟨h.holds _ _ _ _ ha hs.1, h'.holds _ _ _ _ ha hs.2⟩
  profile _ _ _ _ ha hb hc hs := ⟨h.profile _ _ _ _ ha hb hc hs.1, h'.profile _ _ _ _ ha hb hc hs.2⟩
  root _ _ _ hs := ⟨h.root _ _ _ hs.1, h'.root _ _ _ hs.2⟩
  activation _ _ _ ha hb hs := ⟨h.activation _ _ _ ha hb hs.1, h'.activation _ _ _ ha hb hs.2⟩
  isolation _ _ ha hs := ⟨h.isolation _ _ ha hs.1, h'.isolation _ _ ha hs.2⟩
  resumption _ _ ha hs := ⟨h.resumption _ _ ha hs.1, h'.resumption _ _ ha hs.2⟩
  triggered _ _ hs := ⟨h.triggered _ _ hs.1, h'.triggered _ _ hs.2⟩
  torn _ _ ha hs := ⟨h.torn _ _ ha hs.1, h'.torn _ _ ha hs.2⟩
  timers _ hs := ⟨h.timers _ hs.1, h'.timers _ hs.2⟩
  offerTimer _ _ _ hs := ⟨h.offerTimer _ _ _ hs.1, h'.offerTimer _ _ _ hs.2⟩
  expiry _ _ _ hs := ⟨h.expiry _ _ _ hs.1, h'.expiry _ _ _ hs.2⟩
  operation _ _ hs := ⟨h.operation _ _ hs.1, h'.operation _ _ hs.2⟩
  engine _ _ hs := ⟨h.engine _ _ hs.1, h'.engine _ _ hs.2⟩
  outbound _ _ _ _ _ _ _ ha hb hc hd hs :=
    ⟨h.outbound _ _ _ _ _ _ _ ha hb hc hd hs.1, h'.outbound _ _ _ _ _ _ _ ha hb hc hd hs.2⟩
  dequeue _ _ _ hs := ⟨h.dequeue _ _ _ hs.1, h'.dequeue _ _ _ hs.2⟩
  units _ _ _ _ hs := ⟨h.units _ _ _ _ hs.1, h'.units _ _ _ _ hs.2⟩
  trunk _ _ ha hb hc hd hs := ⟨h.trunk _ _ ha hb hc hd hs.1, h'.trunk _ _ ha hb hc hd hs.2⟩
  monitor _ _ _ ha hs := ⟨h.monitor _ _ _ ha hs.1, h'.monitor _ _ _ ha hs.2⟩
  reception _ _ hs := ⟨h.reception _ _ hs.1, h'.reception _ _ hs.2⟩
  transmission _ _ hs := ⟨h.transmission _ _ hs.1, h'.transmission _ _ hs.2⟩
  receiver _ _ _ ha hs := ⟨h.receiver _ _ _ ha hs.1, h'.receiver _ _ _ ha hs.2⟩
  inbound _ _ _ _ _ _ ha hb hs := ⟨h.inbound _ _ _ _ _ _ ha hb hs.1, h'.inbound _ _ _ _ _ _ ha hb hs.2⟩
  received _ _ _ _ ha hs := ⟨h.received _ _ _ _ ha hs.1, h'.received _ _ _ _ ha hs.2⟩
  transmitter _ _ _ ha hs := ⟨h.transmitter _ _ _ ha hs.1, h'.transmitter _ _ _ ha hs.2⟩
  transmitted _ _ _ _ ha hs := ⟨h.transmitted _ _ _ _ ha hs.1, h'.transmitted _ _ _ _ ha hs.2⟩
  counts _ _ ha hb hs := ⟨h.counts _ _ ha hb hs.1, h'.counts _ _ ha hb hs.2⟩
  policy _ _ _ ha hs := ⟨h.policy _ _ _ ha hs.1, h'.policy _ _ _ ha hs.2⟩
  entries _ _ ha hs := ⟨h.entries _ _ ha hs.1, h'.entries _ _ ha hs.2⟩

/-! ### Frames in their places -/

namespace FramesLaw

variable {s : State} (h : FramesLaw true [] s)
include h

theorem count_framePlaces_le (d : DescNo) : (framePlaces s).count d ≤ if (s.desc d).isSome then 1 else 0 := by
  rw [count_framePlaces]
  simpa using h.places rfl d

/-- R105: every frame of the open list stands there once. -/
theorem length_waiting_le : s.opener.waiting.length ≤ 512 := by
  have hplaces : (framePlaces s).Nodup := List.nodup_iff_count_le_one.2 fun d =>
    (h.count_framePlaces_le d).trans (by split <;> omega)
  have hsub : s.opener.waiting.Sublist (framePlaces s) := by
    unfold framePlaces
    exact (((List.sublist_append_right _ _).trans (List.sublist_append_left _ _)).trans
      (List.sublist_append_left _ _)).trans (List.sublist_append_left _ _)
  simpa using (hsub.nodup hplaces).length_le_card

/-- R105: a queued frame is held. -/
theorem queued_isSome (l : LinkId) (d : DescNo) (hd : d ∈ s.queue l) : (s.desc d).isSome = true := by
  have hm : d ∈ framePlaces s := by
    simp only [framePlaces, List.mem_append, List.mem_flatMap]
    exact .inl (.inl (.inl (.inl (.inl (.inl (.inl ⟨l, List.mem_finRange l, hd⟩))))))
  have hpos := List.count_pos_iff.2 hm
  have hle := h.count_framePlaces_le d
  by_contra hnone
  rw [if_neg hnone] at hle
  omega

end FramesLaw

/-! ### The blocks come to rest -/

/-- The laws that a start needs to take one of those left. -/
def BlocksLaw (s : State) : Prop := RoleLaw s ∧ FramesLaw true [] s

theorem blocksLaw_effects : EffectsKeep BlocksLaw := roleLaw_effects.and (framesLaw_effects true)

theorem BlocksLaw.startsLeft_takeStart {s : State} (h : BlocksLaw s) {c : Start}
    (hc : nextStart (refreshRequests s) = some c) :
    startsLeft (takeStart c (drawStart (refreshRequests s))) < startsLeft s := by
  have hlist := refreshRequests_eligible s
  have hready := nextStart_ready hc
  obtain ⟨d, hd⟩ := drawStart_eq (refreshRequests s)
  rw [hd]
  have hsame : startsLeft { refreshRequests s with draws := d } = startsLeft s := startsLeft_congr rfl rfl rfl rfl
  obtain ⟨hrole, hframes⟩ := blocksLaw_effects.draw _ d (blocksLaw_effects.refresh s h)
  rw [← hsame]
  cases c with
  | sealing => exact hrole.startsLeft_startSealing hframes.queued_isSome hready hlist
  | opening => exact startsLeft_startOpening hready
  | derivation => exact startsLeft_beginDerivation hready

/-- Within a number of starts that bounds those left, the blocks come to rest. -/
theorem nextStart_settleBlocksFor : ∀ (n : Nat) (s : State), BlocksLaw s → startsLeft s ≤ n →
    nextStart (settleBlocksFor n s) = none := by
  intro n
  induction n with
  | zero =>
    intro s hs hn
    rw [settleBlocksFor, Option.eq_none_iff_forall_ne_some]
    intro c hc
    have := hs.startsLeft_takeStart hc
    omega
  | succ n ih =>
    intro s hs hn
    simp only [settleBlocksFor]
    split
    · next c hc =>
      have := hs.startsLeft_takeStart hc
      exact ih _ (blocksLaw_effects.start hc hs) (by omega)
    · assumption

/-- R35, R44, R60: where no start is next, none can be taken. -/
theorem restLaw_of_nextStart {s : State} (h : nextStart s = none) : RestLaw s := by
  unfold nextStart at h
  split at h <;> try contradiction
  next hsealer hopener =>
  have hderiver : deriverReady s = false := by
    by_contra hd
    rw [if_pos (by simpa using hd)] at h
    cases h
  refine ⟨fun hs => ?_, fun ho => ?_, fun hd => ?_⟩
  · simpa [sealerReady, hs] using hsealer
  · simpa [openerReady, ho] using hopener
  · simpa [deriverReady, hd] using hderiver

theorem restLaw_rest : RestKeeps BlocksLaw RestLaw where
  toEffectsKeep := blocksLaw_effects
  rest s hs := restLaw_of_nextStart
    (nextStart_settleBlocksFor startBound s hs (startsLeft_le_startBound hs.2.length_waiting_le))
  sending s _ hs := by
    obtain ⟨esealer, eopener, ekeys, -⟩ := startSending_keeps s
    rw [RestLaw, esealer, eopener, ekeys]
    exact hs
  port _ _ hs := hs
  commands _ _ hs := hs
  afterReset _ _ _ := ⟨fun _ => rfl, fun _ => rfl, fun _ => rfl⟩

end Sys2Proof.Machine

namespace Sys2Proof.Proofs

open Sys2Proof Sys2Proof.Machine

/-- Settles O5: each law is kept by the operations that commands and events are made of; and the blocks come to rest,
since every start lowers a number that is below the bound on an event's starts. -/
theorem stepKeepsWaitListLaw : Obligations.StepKeepsWaitListLaw := by
  unfold Obligations.StepKeepsWaitListLaw
  refine ⟨fun s t hs ht => ?_, fun s t hs ht => ?_, fun _ _ => step_roleLaw, fun _ _ => step_requestLaw,
    fun s t hrole hstore hrequests hrest ht => ?_⟩
  · rw [← waitLaw_false] at hs ⊢
    exact step_waitLaw false hs ht
  · rw [← waitLaw_true] at hs ⊢
    exact step_waitLaw true hs ht
  · exact (restLaw_rest.step ⟨⟨hrole, framesLaw_of_storeLaw hrequests.1 hstore⟩, hrest⟩ ht).2

end Sys2Proof.Proofs
end

section
/-! The start of a renewal and the root key commands. -/

namespace Sys2Proof.Machine

/-- R37: no draw gives the nonce zero. -/
theorem headNonce_ne_zero (n : Nat) : headNonce n ≠ 0 := by
  have hlt := (Config.nonceSource n).isLt
  have hval : (headNonce n).toNat = (Config.nonceSource n).val + 1 := by
    rw [headNonce, BitVec.toNat_ofNat, Nat.mod_eq_of_lt (by omega)]
  intro h
  rw [h] at hval
  simp at hval

theorem rootLoad_of_some {link : Byte} {l : LinkId} (h : linkOfByte link = some l) (key : List Byte) (s : State) :
    rootLoad link key s =
      if (s.link l).live then refuse .wrongState s
      else if key.length = 32 then ok (s.setRoot l ⟨.fresh, keyOf key⟩) else refuse .badValue s := by
  rw [rootLoad, onLink_some h]

theorem rootErase_of_some {link : Byte} {l : LinkId} (h : linkOfByte link = some l) (s : State) :
    rootErase link s =
      if (s.link l).live then refuse .wrongState s else ok (s.setRoot l ⟨.empty, 0⟩) := by
  rw [rootErase, onLink_some h]

/-- A root key record replaced by itself leaves the part as it is. -/
theorem State.setRoot_root (l : LinkId) (s : State) : s.setRoot l (s.root l) = s := by
  rw [State.setRoot, State.root, tput_tget]

/-- R11: an EMPTY root key record shows as NO_ROOT in the activation check. -/
theorem activationFlags_noRoot {s : State} {l : LinkId} (h : (s.root l).state = .empty) :
    (activationFlags s l).getLsbD 1 = true := by
  rw [activationFlags, h]
  cases hasSlot s l <;> rfl

end Sys2Proof.Machine

namespace Sys2Proof.Proofs

open Sys2Proof Sys2Proof.Machine

/-- Settles O28: the start is one change of the slot, one of the link, and a draw. -/
theorem renewalStartsWithAnOffer : Obligations.RenewalStartsWithAnOffer := by
  unfold Obligations.RenewalStartsWithAnOffer
  intro s l k c hc
  rw [startRenewal_of_some hc]
  refine ⟨headNonce s.draws.nonces, headNonce_ne_zero _, ?_, ?_, fun j hj => ?_, fun j hj => ?_,
    rfl, rfl, rfl, rfl, rfl, rfl, rfl, rfl, rfl, rfl, rfl⟩
  · rw [State.slot_modLink, State.slot_modSlot_self]
    rfl
  · rw [State.link_modLink_self]
    rfl
  · rw [State.link_modLink_of_ne _ _ hj.symm]
    rfl
  · rw [State.slot_modLink, State.slot_modSlot_of_ne _ _ hj.symm]
    rfl

/-- Settles O26: the refusals by link number and state, then the record placed or erased. -/
theorem rootRecordCommands : Obligations.RootRecordCommands := by
  unfold Obligations.RootRecordCommands
  intro s tag link key h hk
  have hload : (0x20 :: link :: key : List Byte).length ≤ 1038 := by simp only [List.length_cons]; omega
  have herase : ([0x21, link] : List Byte).length ≤ 1038 := Nat.le_of_ble_eq_true rfl
  refine ⟨fun hlink => ?_, fun l hl => ⟨fun hlive => ?_, fun hset => ?_⟩⟩
  · have hall := linkCommands_badValue h tag link 0 0 0 key 0 0 0 0 0 0 0 0 0 0 0 hk (linkOfByte_eq_none hlink)
    exact ⟨hall _ (by simp), hall _ (by simp)⟩
  · have hall := liveLink_wrongState h tag link key 0 0 0 0 0 0 0 0 0 0 0 hk hl (Link.live_eq_true.2 hlive)
    exact ⟨hall _ (by simp), hall _ (by simp)⟩
  · have hnot : ¬(s.link l).live = true := by simp [Link.live_eq_false.2 hset]
    refine ⟨fun h32 => ?_, fun h32 => ?_, s.setRoot l ⟨.empty, 0⟩, rfl, ?_, fun hempty => ?_, ?_⟩
    · refine commandArrives_of_takesAtOnce h hload ?_
      rw [rootLoad_of_some hl, if_neg hnot, if_pos h32]
      rfl
    · refine commandArrives_of_takesAtOnce h hload ?_
      rw [rootLoad_of_some hl, if_neg hnot, if_neg h32, refuse]
    · refine commandArrives_of_takesAtOnce h herase ?_
      rw [rootErase_of_some hl, if_neg hnot]
      rfl
    · rw [← hempty, State.setRoot_root]
    · refine activationFlags_noRoot ?_
      rw [State.root_setRoot, if_pos rfl]

end Sys2Proof.Proofs
end

section
/-! The cipher inputs: a block of fields of fixed widths determines each of them. -/

namespace Sys2Proof.Machine

/-! ### Numbers and their bytes (R170) -/

theorem beNat_concat (bs : List Byte) (b : Byte) : beNat (bs ++ [b]) = beNat bs * 256 + b.toNat := by
  simp [beNat, List.foldl_append]

theorem beNat_lt (bs : List Byte) : beNat bs < 256 ^ bs.length := by
  induction bs using List.reverseRecOn with
  | nil => simp [beNat]
  | append_singleton bs b ih =>
    have hb := b.isLt
    rw [beNat_concat, List.length_append, List.length_singleton, pow_succ]
    omega

/-- Bytes of one length are determined by the number they spell. -/
theorem beNat_injective {xs ys : List Byte} (hlen : xs.length = ys.length) (h : beNat xs = beNat ys) :
    xs = ys := by
  induction xs using List.reverseRecOn generalizing ys with
  | nil => exact (List.length_eq_zero_iff.1 hlen.symm).symm
  | append_singleton xs x ih =>
    induction ys using List.reverseRecOn with
    | nil => simp at hlen
    | append_singleton ys y _ =>
      rw [beNat_concat, beNat_concat] at h
      have hx := x.isLt
      have hy := y.isLt
      have hlast : x = y := BitVec.eq_of_toNat_eq (by omega)
      have hfirst : xs = ys := ih (by simpa using hlen) (by omega)
      rw [hlast, hfirst]

theorem beNat_cons (b : Byte) (bs : List Byte) :
    beNat (b :: bs) = b.toNat * 256 ^ bs.length + beNat bs := by
  induction bs using List.reverseRecOn with
  | nil => simp [beNat]
  | append_singleton bs c ih =>
    rw [← List.cons_append, beNat_concat, beNat_concat, ih, List.length_append, List.length_singleton, pow_succ]
    ring

/-- The bytes of a number spell it, as far as they reach. -/
theorem beNat_beBytes (k n : Nat) : beNat (beBytes k n) = n % 256 ^ k := by
  induction k with
  | zero => simp [beBytes, beNat, Nat.mod_one]
  | succ k ih =>
    rw [beBytes, beNat_cons, ih, length_beBytes, BitVec.toNat_ofNat, Nat.mod_pow_succ (x := n) (b := 256) (k := k)]
    ring

/-- A number that fits its bytes is determined by them. -/
theorem beBytes_injective {k n m : Nat} (hn : n < 256 ^ k) (hm : m < 256 ^ k) (h : beBytes k n = beBytes k m) :
    n = m := by
  rw [← Nat.mod_eq_of_lt hn, ← Nat.mod_eq_of_lt hm, ← beNat_beBytes, ← beNat_beBytes, h]

/-- A block of 16 bytes determines them. -/
theorem blockOf_injective {xs ys : List Byte} (hx : xs.length = 16) (hy : ys.length = 16)
    (h : blockOf xs = blockOf ys) : xs = ys := by
  have hval : ∀ bs : List Byte, bs.length = 16 → (blockOf bs).toNat = beNat bs := fun bs hbs => by
    have hlt := beNat_lt bs
    rw [hbs] at hlt
    rw [blockOf, hbs, BitVec.toNat_ofNat, List.replicate_zero, List.append_nil]
    exact Nat.mod_eq_of_lt hlt
  refine beNat_injective (hx.trans hy.symm) ?_
  rw [← hval xs hx, h, hval ys hy]

/-! ### Codes -/

theorem FrameKind.ofCode_code (k : FrameKind) : FrameKind.ofCode k.code = some k := by
  cases k <;> rfl

theorem FrameKind.code_injective {a b : FrameKind} (h : a.code = b.code) : a = b :=
  Option.some_injective _ (by rw [← ofCode_code a, h, ofCode_code b])

theorem directionByte_injective {a b : Bool} (h : directionByte a = directionByte b) : a = b := by
  revert a b
  decide

/-- A link number in its byte. -/
theorem linkByte_injective {l l' : LinkId} (h : beBytes 1 l.val = beBytes 1 l'.val) : l = l' :=
  Fin.ext (beBytes_injective (by omega) (by omega) h)

/-- A nonce in its six bytes. -/
theorem nonceBytes_injective {n n' : Nonce} (h : beBytes 6 n.toNat = beBytes 6 n'.toNat) : n = n' :=
  BitVec.eq_of_toNat_eq (beBytes_injective n.isLt n'.isLt h)

/-! ### The three inputs (R35, R52, R53) -/

/-- The fields that counter and tag start blocks begin with. -/
theorem frameFields_injective {l l' : LinkId} {dir dir' : Bool} {e e' q q' : Nat} {kind kind' : FrameKind}
    (he : e < 65536) (he' : e' < 65536) (hq : q < 2 ^ 32) (hq' : q' < 2 ^ 32)
    (h : beBytes 1 l.val ++ [directionByte dir] ++ beBytes 2 e ++ beBytes 4 q ++ [kind.code] =
      beBytes 1 l'.val ++ [directionByte dir'] ++ beBytes 2 e' ++ beBytes 4 q' ++ [kind'.code]) :
    l = l' ∧ dir = dir' ∧ e = e' ∧ q = q' ∧ kind = kind' := by
  obtain ⟨h, hkind⟩ := List.append_inj' h (by simp)
  obtain ⟨h, hseq⟩ := List.append_inj' h (by simp)
  obtain ⟨h, hepoch⟩ := List.append_inj' h (by simp)
  obtain ⟨hlink, hdir⟩ := List.append_inj' h (by simp)
  exact ⟨linkByte_injective hlink, directionByte_injective (List.singleton_injective hdir),
    beBytes_injective he he' hepoch, beBytes_injective hq hq' hseq,
    FrameKind.code_injective (List.singleton_injective hkind)⟩

theorem counterBlock_injective {l l' : LinkId} {dir dir' : Bool} {e e' q q' i i' : Nat} {kind kind' : FrameKind}
    (he : e < 65536) (he' : e' < 65536) (hq : q < 2 ^ 32) (hq' : q' < 2 ^ 32) (hi : i < 2 ^ 32) (hi' : i' < 2 ^ 32)
    (h : counterBlock l dir e q kind i = counterBlock l' dir' e' q' kind' i') :
    l = l' ∧ dir = dir' ∧ e = e' ∧ q = q' ∧ kind = kind' ∧ i = i' := by
  have hbytes := blockOf_injective (by simp) (by simp) h
  obtain ⟨hbytes, hlast⟩ := List.append_inj' hbytes (by simp)
  obtain ⟨hbytes, -⟩ := List.append_inj' hbytes (by simp)
  obtain ⟨hl, hdir, hepoch, hseq, hkind⟩ := frameFields_injective he he' hq hq' hbytes
  exact ⟨hl, hdir, hepoch, hseq, hkind, beBytes_injective hi hi' hlast⟩

theorem tagStartBlock_injective {l l' : LinkId} {dir dir' : Bool} {e e' q q' p p' : Nat} {kind kind' : FrameKind}
    (he : e < 65536) (he' : e' < 65536) (hq : q < 2 ^ 32) (hq' : q' < 2 ^ 32) (hp : p + 8 < 65536)
    (hp' : p' + 8 < 65536) (h : tagStartBlock l dir e q kind p = tagStartBlock l' dir' e' q' kind' p') :
    l = l' ∧ dir = dir' ∧ e = e' ∧ q = q' ∧ kind = kind' ∧ p = p' := by
  have hbytes := blockOf_injective (by simp) (by simp) h
  obtain ⟨hbytes, -⟩ := List.append_inj' hbytes (by simp)
  obtain ⟨hbytes, hlength⟩ := List.append_inj' hbytes (by simp)
  obtain ⟨hl, hdir, hepoch, hseq, hkind⟩ := frameFields_injective he he' hq hq' hbytes
  exact ⟨hl, hdir, hepoch, hseq, hkind, Nat.add_right_cancel (beBytes_injective hp hp' hlength)⟩

theorem derivationBlock_injective {r r' : DerivationRequest} {k k' : Nat} (hr : r.epoch < 65536)
    (hr' : r'.epoch < 65536) (hk : k < 256) (hk' : k' < 256) (h : derivationBlock r k = derivationBlock r' k') :
    k = k' ∧ r.link = r'.link ∧ r.epoch = r'.epoch ∧ r.headNonce = r'.headNonce ∧
      r.shopNonce = r'.shopNonce := by
  have hbytes := blockOf_injective (by simp) (by simp) h
  obtain ⟨hbytes, hshop⟩ := List.append_inj' hbytes (by simp)
  obtain ⟨hbytes, hhead⟩ := List.append_inj' hbytes (by simp)
  obtain ⟨hbytes, hepoch⟩ := List.append_inj' hbytes (by simp)
  obtain ⟨hlabel, hlink⟩ := List.append_inj' hbytes (by simp)
  exact ⟨beBytes_injective (by omega) (by omega) hlabel, linkByte_injective hlink,
    beBytes_injective hr hr' hepoch, nonceBytes_injective hhead, nonceBytes_injective hshop⟩

end Sys2Proof.Machine

namespace Sys2Proof.Proofs

open Sys2Proof Sys2Proof.Machine

/-- Settles O59: each input determines its 16 bytes, and those its fields. -/
theorem cipherInputsAreDistinct : Obligations.CipherInputsAreDistinct := by
  unfold Obligations.CipherInputsAreDistinct
  exact ⟨fun _ _ _ _ _ _ _ _ _ _ _ _ he he' hq hq' hi hi' h => counterBlock_injective he he' hq hq' hi hi' h,
    fun _ _ _ _ _ _ _ _ _ _ _ _ he he' hq hq' hp hp' h => tagStartBlock_injective he he' hq hq' hp hp' h,
    fun _ _ _ _ hr hr' hk hk' h => derivationBlock_injective hr hr' hk hk' h⟩

end Sys2Proof.Proofs
end

section
/-! The cipher engine's arbiter. -/

namespace Sys2Proof.Machine

/-- R39: the requester after a given one in the cyclic order. -/
def nextRequester (r : Requester) : Requester := (orderAfter r).headD r

/-- R39: how many places after the last served a requester stands in the cyclic order. -/
def turnsTo (last r : Requester) : Nat :=
  if nextRequester last = r then 1 else if nextRequester (nextRequester last) = r then 2 else 3

/-- The cyclic order names every requester. -/
theorem mem_orderAfter (last r : Requester) : r ∈ orderAfter last := by
  cases last <;> cases r <;> decide

theorem orderAfter_eq (last : Requester) :
    orderAfter last = [nextRequester last, nextRequester (nextRequester last), last] := by
  cases last <;> rfl

theorem turnsTo_pos (last r : Requester) : 1 ≤ turnsTo last r := by
  unfold turnsTo
  split <;> [skip; split] <;> omega

theorem turnsTo_le (last r : Requester) : turnsTo last r ≤ 3 := by
  unfold turnsTo
  split <;> [skip; split] <;> omega

/-- The first of the cyclic order that a test passes is no later than any other that it passes. -/
theorem turnsTo_find_le {p : Requester → Bool} {last q r : Requester} (hq : (orderAfter last).find? p = some q)
    (hr : p r = true) : turnsTo last q ≤ turnsTo last r := by
  rw [orderAfter_eq, List.find?_cons] at hq
  split at hq
  · cases hq
    have hfirst : turnsTo last (nextRequester last) = 1 := if_pos rfl
    rw [hfirst]
    exact turnsTo_pos last r
  · next h1 =>
    have hne : nextRequester last ≠ r := fun e => by simp [e, hr] at h1
    rw [List.find?_cons] at hq
    split at hq
    · cases hq
      simp only [turnsTo, if_neg hne]
      grind
    · next h2 =>
      have hne' : nextRequester (nextRequester last) ≠ r := fun e => by simp [e, hr] at h2
      simpa only [turnsTo, if_neg hne, if_neg hne'] using turnsTo_le last q

/-- Once another requester no later has been served, a requester stands nearer. -/
theorem turnsTo_lt {last q r : Requester} (hne : q ≠ r) (h : turnsTo last q ≤ turnsTo last r) :
    turnsTo q r < turnsTo last r := by
  revert hne h
  cases last <;> cases q <;> cases r <;> decide

/-- R39: an idle unit is granted to the first of the cyclic order that waits. -/
theorem grant_of_found {s : State} (h : s.engine.unit = none) {q : Requester}
    (hq : (orderAfter s.engine.lastServed).find? (waiting s) = some q) :
    grant s = { s with engine := ⟨some q, q⟩ } := by
  simp only [grant, h, hq]

/-- R39: while a requester waits, an idle unit is granted to the first one that waits. -/
theorem grant_eq_of_waiting {s : State} (h : s.engine.unit = none) {r : Requester} (hr : waiting s r = true) :
    ∃ q, (orderAfter s.engine.lastServed).find? (waiting s) = some q ∧ waiting s q = true ∧
      grant s = { s with engine := ⟨some q, q⟩ } := by
  have hsome : ((orderAfter s.engine.lastServed).find? (waiting s)).isSome :=
    List.find?_isSome.2 ⟨r, mem_orderAfter _ r, hr⟩
  obtain ⟨q, hq⟩ := Option.isSome_iff_exists.1 hsome
  exact ⟨q, hq, List.find?_some hq, grant_of_found h hq⟩

theorem grant_eq_self {s : State} (h : ∀ r, waiting s r = false) : grant s = s := by
  have hnone : (orderAfter s.engine.lastServed).find? (waiting s) = none :=
    List.find?_eq_none.2 fun r _ => by simp [h r]
  cases hu : s.engine.unit <;> simp only [grant, hu, hnone]

/-- A grant changes the engine alone. -/
theorem grant_rest (s : State) : ∃ engine, grant s = { s with engine := engine } := by
  unfold grant
  split
  · exact ⟨s.engine, rfl⟩
  · split
    · exact ⟨_, rfl⟩
    · exact ⟨s.engine, rfl⟩

end Sys2Proof.Machine

namespace Sys2Proof.Proofs

open Sys2Proof Sys2Proof.Machine

/-- Settles O50: the grant goes to the first that waits in the cyclic order, which brings every other nearer. -/
theorem arbiterIsRoundRobin : Obligations.ArbiterIsRoundRobin := by
  unfold Obligations.ArbiterIsRoundRobin
  intro after distance s hidle
  obtain ⟨engine, hrest⟩ := grant_rest s
  refine ⟨fun r hr => ?_, grant_eq_self, by rw [hrest], by rw [hrest], by rw [hrest]⟩
  obtain ⟨q, hfirst, hq, hgrant⟩ := grant_eq_of_waiting hidle hr
  have hle : turnsTo s.engine.lastServed q ≤ turnsTo s.engine.lastServed r := turnsTo_find_le hfirst hr
  exact ⟨q, by rw [hgrant], hq, hle, fun hne => turnsTo_lt hne hle⟩

end Sys2Proof.Proofs
end

section
/-! The end of a block operation, and the derivation from its beginning to its completion. -/

namespace Sys2Proof.Machine

/-! ### The block operation in the unit -/

theorem exec_blockOperationEnd {s : State} {q : Requester} (h : s.engine.unit = some q) :
    exec .blockOperationEnd s = .next (operationEnds q s) := by
  simp only [exec, execBlockOperationEnd, h]

theorem exec_blockOperationEnd_idle {s : State} (h : s.engine.unit = none) :
    exec .blockOperationEnd s = .next s := by
  simp only [exec, execBlockOperationEnd, h]

/-- R54: an operation of the sealer that is not its last stores its result and lowers the count. -/
theorem endOperation_sealer {s : State} {r : Sealing} (hr : s.sealer.current = some r) (hleft : 2 ≤ r.left) :
    endOperation .sealer s = (sealingOperation r (cost r.length - r.left) s).1.setSealing
      (some { r with
        left := r.left - 1, tagChain := (sealingOperation r (cost r.length - r.left) s).2 }) := by
  have hmore : r.left - 1 ≠ 0 := by omega
  simp only [endOperation, endSealerOperation, hr, hmore, if_false]

/-- R65: an operation of the opener that is not its last stores its result and lowers the count. -/
theorem endOperation_opener {s : State} {r : Opening} (hr : s.opener.current = some r) (hleft : 2 ≤ r.left) :
    endOperation .opener s = (openingOperation r (cost r.length - r.left) s).1.setOpening
      (some { r with
        left := r.left - 1, tagChain := (openingOperation r (cost r.length - r.left) s).2 }) := by
  have hmore : r.left - 1 ≠ 0 := by omega
  simp only [endOperation, endOpenerOperation, hr, hmore, if_false]

/-- R35: an operation of the deriver that is not its last joins its value to the results. -/
theorem endOperation_deriver {s : State} {d : Derivation} (hd : s.keys.derivation = some d) (hleft : 2 ≤ d.left) :
    endOperation .deriver s = s.setDerivation (some { d with
      left := d.left - 1
      results := d.results ++ [encipher d.rootCopy (derivationBlock d.request (5 - d.left))] }) := by
  have hmore : d.left - 1 ≠ 0 := by omega
  simp only [endOperation, endDeriverOperation, hd, hmore, if_false]

/-- R55: the sealer's last operation is the completion of its frame. -/
theorem endOperation_sealer_last {s : State} {r : Sealing} (hr : s.sealer.current = some r) (hleft : r.left = 1) :
    endOperation .sealer s = completeSealing
      { r with left := 0, tagChain := (sealingOperation r (cost r.length - 1) s).2 }
      (sealingOperation r (cost r.length - 1) s).1 := by
  simp [endOperation, endSealerOperation, hr, hleft]

/-- R67: the opener's last operation is the completion of its frame. -/
theorem endOperation_opener_last {s : State} {r : Opening} (hr : s.opener.current = some r) (hleft : r.left = 1) :
    endOperation .opener s = completeOpening
      { r with left := 0, tagChain := (openingOperation r (cost r.length - 1) s).2 }
      (openingOperation r (cost r.length - 1) s).1 := by
  simp [endOperation, endOpenerOperation, hr, hleft]

/-- R36: the deriver's fourth operation is the completion of the derivation. -/
theorem endOperation_deriver_last {s : State} {d : Derivation} (hd : s.keys.derivation = some d)
    (hleft : d.left = 1) :
    endOperation .deriver s = completeDerivation
      { d with left := 0, results := d.results ++ [encipher d.rootCopy (derivationBlock d.request 4)] } s := by
  simp [endOperation, endDeriverOperation, hd, hleft]

theorem exec_sealingCompletion {s : State} {r : Sealing} (hu : s.engine.unit = some .sealer)
    (hr : s.sealer.current = some r) (hleft : r.left = 1) :
    exec .sealingCompletion s = .next (operationEnds .sealer s) := by
  simp [exec, execSealingCompletion, lastOperation, hu, hr, hleft]

theorem exec_openingCompletion {s : State} {r : Opening} (hu : s.engine.unit = some .opener)
    (hr : s.opener.current = some r) (hleft : r.left = 1) :
    exec .openingCompletion s = .next (operationEnds .opener s) := by
  simp [exec, execOpeningCompletion, lastOperation, hu, hr, hleft]

theorem exec_derivationCompletion {s : State} {d : Derivation} (hu : s.engine.unit = some .deriver)
    (hd : s.keys.derivation = some d) (hleft : d.left = 1) :
    exec .derivationCompletion s = .next (operationEnds .deriver s) := by
  simp [exec, execDerivationCompletion, lastOperation, hu, hd, hleft]

/-! ### The derivation -/

theorem beginDerivation_eq {s : State} {r : DerivationRequest} {rest : List DerivationRequest}
    (hidle : s.keys.derivation = none) (hr : s.keys.requests = r :: rest) :
    beginDerivation s = grant ((raiseInFlight r.slot (s.setRequests rest)).setDerivation
      (some ⟨r, (s.root r.link).key, 4, []⟩)) := by
  simp only [beginDerivation, hidle, hr]
  rfl

/-- R36: the slot of a derivation takes its keys and becomes READY. -/
def keyedSlot (results : List Block) (x : KeySlot) : KeySlot :=
  { x with
    state := .ready, cipherKey := cipherKeyOf results, integrityKey := integrityKeyOf results
    inFlight := x.inFlight - 1 }

/-- R36, R90: a slot that still fills its role takes the keys, and a next slot has a CUTOVER queued. -/
theorem completeDerivation_deriving {s : State} {d : Derivation}
    (h : (s.slot d.request.slot).state = .derivingKeys) :
    completeDerivation d s =
      if (s.link d.request.link).next = some d.request.slot then
        queueCutover d.request.link ((s.setDerivation none).modSlot d.request.slot (keyedSlot d.results))
      else (s.setDerivation none).modSlot d.request.slot (keyedSlot d.results) := by
  have h' : ((s.setDerivation none).slot d.request.slot).state = .derivingKeys := h
  rw [completeDerivation, if_pos h']
  rfl

/-- R30: the last operation on a DRAINING slot erases it and hands it over. -/
theorem lowerInFlight_erases {s : State} {k : SlotNo} (h : (s.slot k).state = .draining)
    (hlast : (s.slot k).inFlight ≤ 1) : lowerInFlight k s = handOver (s.modSlot k fun _ => {}) := by
  rw [lowerInFlight, if_pos ⟨h, hlast⟩]

/-- R36: a derivation on a slot that does not fill its role any more drops its keys. -/
theorem completeDerivation_dropped {s : State} {d : Derivation}
    (h : (s.slot d.request.slot).state ≠ .derivingKeys) :
    completeDerivation d s = lowerInFlight d.request.slot (s.setDerivation none) := by
  have h' : ((s.setDerivation none).slot d.request.slot).state ≠ .derivingKeys := h
  rw [completeDerivation, if_neg h']

/-- R32: where one slot alone is FREE, the hand-over serves the link that waits first and no other. -/
theorem handOver_only {s : State} {j : LinkId} {rest : List LinkId} {k : SlotNo}
    (hw : s.keys.waitList = j :: rest) (hk : (s.slot k).state = .free)
    (honly : ∀ i, i ≠ k → (s.slot i).state ≠ .free) (hj : (s.link j).current.isSome = true) :
    handOver s = startRenewal j k (s.setWaitList rest) := by
  obtain ⟨c, hc⟩ := Option.isSome_iff_exists.1 hj
  have hc' : ((s.setWaitList rest).link j).current = some c := hc
  rw [handOver_cons hw (lowestFreeSlot_eq_of_lowest hk fun i hi => honly i hi.ne)]
  refine handOver_of_not_free fun i => ?_
  rw [startRenewal_of_some hc', State.slot_modLink, State.slot_modSlot]
  split
  · simp [allocatedSlot]
  · next hne => exact honly i fun e => hne e.symm

end Sys2Proof.Machine

namespace Sys2Proof.Proofs

open Sys2Proof Sys2Proof.Machine

/-- Settles O49: one lemma for each requester that may have the unit. -/
theorem blockOperationEndLowersTheCount : Obligations.BlockOperationEndLowersTheCount := by
  unfold Obligations.BlockOperationEndLowersTheCount
  intro s
  refine ⟨exec_blockOperationEnd_idle, fun r hu hr hleft => ?_, fun r hu hr hleft => ?_,
    fun d hu hd hleft => ?_⟩ <;>
    rw [exec_blockOperationEnd hu, operationEnds]
  · rw [endOperation_sealer hr hleft]
  · rw [endOperation_opener hr hleft]
  · rw [endOperation_deriver hd hleft]
    rfl

/-- Settles O51: a completion keys a slot that still fills its role, and otherwise erases and hands over. -/
theorem derivationGivesTheKeys : Obligations.DerivationGivesTheKeys := by
  unfold Obligations.DerivationGivesTheKeys
  refine ⟨fun s r rest hidle hr => ?_, fun s d d1 d2 d3 hu hd hleft hres => ?_⟩
  · have hready : deriverReady s = true := by simp [deriverReady, hidle, hr]
    simp only [exec, execDerivationBegin, hready, if_true, beginDerivation_eq hidle hr]
    rfl
  · intro d4 k
    have row : ∀ t, completeDerivation { d with left := 0, results := [d1, d2, d3, d4] } s = t →
        exec .derivationCompletion s = .next (finish (freeUnit (settleBlocks t))) := fun t ht => by
      rw [exec_derivationCompletion hu hd hleft, operationEnds, endOperation_deriver_last hd hleft, hres, ← ht]
      rfl
    have hkeyed := completeDerivation_deriving (s := s) (d := { d with left := 0, results := [d1, d2, d3, d4] })
    have hdropped := completeDerivation_dropped (s := s) (d := { d with left := 0, results := [d1, d2, d3, d4] })
    refine ⟨fun hstate => ⟨fun hnext => row _ ?_, fun hnext => row _ ?_⟩, fun hstate hlast => ?_⟩
    · rw [hkeyed hstate, if_neg hnext]
      rfl
    · rw [hkeyed hstate, if_pos hnext]
      rfl
    · intro erased
      have hother : (s.slot k).state ≠ .derivingKeys := by simp [hstate]
      have herased : completeDerivation { d with left := 0, results := [d1, d2, d3, d4] } s = handOver erased :=
        (hdropped hother).trans (lowerInFlight_erases hstate hlast.le)
      refine ⟨row _ herased, fun hw => row _ ?_, fun j rest hw hfull hj => ?_⟩
      · exact herased.trans (handOver_of_waitList_nil hw)
      · have hslot : ∀ i, erased.slot i = if k = i then {} else s.slot i := fun i => tget_tput _ _ _ _
        refine handOver_only hw (by rw [hslot, if_pos rfl]) (fun i hi => ?_) hj
        rw [hslot, if_neg hi.symm]
        exact hfull i hi

end Sys2Proof.Proofs
end

section
/-! The completions of sealings and openings: how a slot's count is lowered, and what becomes of the frame. -/

namespace Sys2Proof.Machine

/-! ### Updates of a descriptor and hand-overs -/

theorem State.setDesc_setDesc (d : DescNo) (x y : Option Descriptor) (s : State) :
    (s.setDesc d x).setDesc d y = s.setDesc d y := by
  unfold State.setDesc
  rw [tput_tput]

theorem startRenewal_setDesc (l : LinkId) (k : SlotNo) (d : DescNo) (x : Option Descriptor) (s : State) :
    startRenewal l k (s.setDesc d x) = (startRenewal l k s).setDesc d x := by
  cases hc : (s.link l).current with
  | none => rw [startRenewal_of_none hc, startRenewal_of_none (s := s.setDesc d x) hc]
  | some c =>
    rw [startRenewal_of_some hc, startRenewal_of_some (s := s.setDesc d x) hc]
    rfl

/-- A hand-over neither reads nor changes a descriptor. -/
theorem handOver_setDesc (d : DescNo) (x : Option Descriptor) (s : State) :
    handOver (s.setDesc d x) = (handOver s).setDesc d x := by
  have all : ∀ (w : List LinkId) (s : State), handOverTo w (s.setDesc d x) = (handOverTo w s).setDesc d x := by
    intro w
    induction w with
    | nil => exact fun _ => rfl
    | cons l rest ih =>
      intro s
      have hsame : lowestFreeSlot (s.setDesc d x) = lowestFreeSlot s := rfl
      rw [handOverTo, handOverTo, hsame]
      cases lowestFreeSlot s with
      | none => rfl
      | some k =>
        have hwait : (s.setDesc d x).setWaitList rest = (s.setWaitList rest).setDesc d x := rfl
        simp only [hwait, startRenewal_setDesc, ih]
  exact all _ s

/-! ### How a completion lowers its slot's count (R30, R55, R67) -/

section Lowers

variable {s : State} {k : SlotNo} {low : State → State}

/-- The count as the machine lowers it, in a state whose slot has the state and the count it had. -/
theorem Lowers.eq (h : Lowers s k low) {t : State} (hstate : (t.slot k).state = (s.slot k).state)
    (hcount : (t.slot k).inFlight = (s.slot k).inFlight) : lowerInFlight k t = low t := by
  rcases h with ⟨hdraining, hlast, hlow⟩ | ⟨hmore, hlow⟩
  · rw [lowerInFlight_erases (hstate.trans hdraining) (hcount ▸ hlast), hlow]
    rfl
  · have hnot : ¬((t.slot k).state = .draining ∧ (t.slot k).inFlight ≤ 1) := by
      rw [hstate, hcount]
      rintro ⟨hd, hle⟩
      rcases hmore with hne | hge
      · exact hne hd
      · omega
    rw [lowerInFlight, if_neg hnot, hlow]
    rfl

/-- A lowered count is a change of key slots, and of what a hand-over changes. -/
theorem Lowers.rest (h : Lowers s k low) (t : State) : low t = { t with
    links := (low t).links, draws := (low t).draws
    keys := { t.keys with slots := (low t).keys.slots, waitList := (low t).keys.waitList } } := by
  rcases h with ⟨_, _, hlow⟩ | ⟨_, hlow⟩ <;> subst hlow
  · exact (handOver_frame (t.modSlot k fun _ => {})).1.rest
  · rfl

/-- A lowered count on a slot that is not DRAINING leaves the links and the slot's epoch. -/
theorem Lowers.of_ne_draining (h : Lowers s k low) (hne : (s.slot k).state ≠ .draining) (t : State) :
    (low t).links = t.links ∧ ((low t).slot k).epoch = (t.slot k).epoch := by
  rcases h with ⟨hdraining, _⟩ | ⟨_, hlow⟩
  · exact absurd hdraining hne
  · subst hlow
    have hslot := State.slot_modSlot_self t k fun x => { x with inFlight := x.inFlight - 1 }
    have hepoch := congrArg KeySlot.epoch hslot
    exact ⟨rfl, hepoch⟩

theorem Lowers.setDesc (h : Lowers s k low) (d : DescNo) (x : Option Descriptor) (t : State) :
    low (t.setDesc d x) = (low t).setDesc d x := by
  rcases h with ⟨_, _, hlow⟩ | ⟨_, hlow⟩ <;> subst hlow
  · exact handOver_setDesc d x (t.modSlot k fun _ => {})
  · rfl

end Lowers

/-! ### The bytes that a block operation leaves alone -/

theorem sealingOperation_slot (r : Sealing) (i : Nat) (s : State) (k : SlotNo) :
    (sealingOperation r i s).1.slot k = s.slot k := by
  obtain ⟨_, _, e⟩ := sealingOperation_eq r i s
  rw [e]
  rfl

theorem sealingOperation_links (r : Sealing) (i : Nat) (s : State) :
    (sealingOperation r i s).1.links = s.links := by
  obtain ⟨_, _, e⟩ := sealingOperation_eq r i s
  rw [e]

theorem sealingOperation_trunk (r : Sealing) (i : Nat) (s : State) :
    (sealingOperation r i s).1.trunk = s.trunk := by
  obtain ⟨_, _, e⟩ := sealingOperation_eq r i s
  rw [e]

theorem sealingOperation_controlHeader (r : Sealing) (i : Nat) (s : State) :
    (sealingOperation r i s).1.sealer.controlHeader = s.sealer.controlHeader := by
  obtain ⟨_, _, e⟩ := sealingOperation_eq r i s
  rw [e]

theorem sealingOperation_desc (r : Sealing) (i : Nat) (s : State) (d : DescNo) :
    (sealingOperation r i s).1.desc d = s.desc d := by
  obtain ⟨_, _, e⟩ := sealingOperation_eq r i s
  rw [e]
  rfl

/-! ### Reports of sealed control frames (R82, R92) -/

/-- The trunk slots and the circuits of a state are those of its trunk's monitors, selection and live map. -/
theorem hasSlot_congr {s t : State} (h : t.trunk.live = s.trunk.live) (l : LinkId) : hasSlot t l = hasSlot s l := by
  simp only [hasSlot, h]

theorem circuitUp_congr {s t : State} (hlive : t.trunk.live = s.trunk.live)
    (ha : t.trunk.monitorA = s.trunk.monitorA) (hb : t.trunk.monitorB = s.trunk.monitorB)
    (hsel : t.trunk.selected = s.trunk.selected) (l : LinkId) : circuitUp t l = circuitUp s l := by
  have hmonitor : t.monitor t.trunk.selected = s.monitor s.trunk.selected := by
    rw [hsel]
    cases s.trunk.selected <;> [exact ha; exact hb]
  simp only [circuitUp, trunkUp, hmonitor, hasSlot_congr hlive]

/-- R82: in OFFERING the report of a sealed OFFER starts the offer timer. -/
theorem reportOffer_offering {t : State} {l : LinkId} (h : (t.link l).renewal.state = .offering) :
    reportOffer l t = t.modRenewal l fun r => { r with offer := startedOffer t l (t.link l) } := by
  rw [reportOffer, if_pos h]

theorem reportOffer_other {t : State} {l : LinkId} (h : (t.link l).renewal.state ≠ .offering) :
    reportOffer l t = t := by
  rw [reportOffer, if_neg h]

/-- R92: in CUTTING the report of a sealed CUTOVER starts the grace timer. -/
theorem reportCutover_cutting {t : State} {l : LinkId} (h : (t.link l).renewal.state = .cutting) :
    reportCutover l t = t.modRenewal l fun r => { r with grace := startedGrace (t.link l) } := by
  rw [reportCutover, if_pos h]

theorem reportCutover_other {t : State} {l : LinkId} (h : (t.link l).renewal.state ≠ .cutting) :
    reportCutover l t = t := by
  rw [reportCutover, if_neg h]

/-- R82, R92: what the report of a sealed control frame starts, in a state `t` whose link `k` is as far as the
report reads it, and whose circuits are those of `s`. -/
theorem reportSealed_control {r : Sealing} {s t : State} {k : Link}
    (hrenewal : (t.link r.link).renewal = k.renewal) (hprofile : (t.link r.link).profile = k.profile)
    (hup : circuitUp t r.link = circuitUp s r.link) :
    (r.kind = .offer → k.renewal.state = .offering →
      reportSealed r t = t.modRenewal r.link fun y => { y with offer := startedOffer s r.link k }) ∧
    (r.kind = .offer → k.renewal.state ≠ .offering → reportSealed r t = t) ∧
    (r.kind = .cutover → k.renewal.state = .cutting →
      reportSealed r t = t.modRenewal r.link fun y => { y with grace := startedGrace k }) ∧
    (r.kind = .cutover → k.renewal.state ≠ .cutting → reportSealed r t = t) := by
  have hoffer : startedOffer t r.link (t.link r.link) = startedOffer s r.link k := by
    simp only [startedOffer, hprofile, hup]
  have hgrace : startedGrace (t.link r.link) = startedGrace k := by
    simp only [startedGrace, hprofile]
  rw [← hrenewal, ← hoffer, ← hgrace]
  refine ⟨fun hkind hstate => ?_, fun hkind hstate => ?_, fun hkind hstate => ?_, fun hkind hstate => ?_⟩ <;>
    simp only [reportSealed, hkind]
  · exact reportOffer_offering hstate
  · exact reportOffer_other hstate
  · exact reportCutover_cutting hstate
  · exact reportCutover_other hstate

/-! ### The sealing completion -/

theorem completeSealing_discarded {r : Sealing} (h : r.discard = true) (t : State) :
    completeSealing r t =
      freeSealed r (lowerInFlight r.slot (writeTag r (tagOf r.tagChain) (t.setSealing none))) := by
  rw [completeSealing]
  exact if_pos h

/-- R56: a frame without the discard mark is counted, and passes where its link has a trunk slot. -/
theorem completeSealing_passed {r : Sealing} (h : r.discard = false) {t u : State}
    (hu : (lowerInFlight r.slot (writeTag r (tagOf r.tagChain) (t.setSealing none))).count r.link .framesSealed = u)
    (hslot : hasSlot u r.link = true) : completeSealing r t = reportSealed r (handToTransmitter r u) := by
  subst hu
  simp only [completeSealing, h, hslot, Bool.false_eq_true, if_true, if_false]

/-- R56: a frame without the discard mark whose link has no trunk slot is counted abandoned and freed. -/
theorem completeSealing_lost {r : Sealing} (h : r.discard = false) {t u : State}
    (hu : (lowerInFlight r.slot (writeTag r (tagOf r.tagChain) (t.setSealing none))).count r.link .framesSealed = u)
    (hslot : hasSlot u r.link = false) :
    completeSealing r t = reportSealed r (freeSealed r (u.count r.link .abandoned)) := by
  subst hu
  simp only [completeSealing, h, hslot, Bool.false_eq_true, if_false]

/-- R53, R55: a control frame whose tag stands beside the control buffer, its slot's count lowered. -/
theorem lowered_control {s : State} {r : Sealing} {low : State → State} (h : Lowers s r.slot low)
    (hdesc : r.desc = none) (tag : List Byte) {t : State} (hslot : t.slot r.slot = s.slot r.slot) :
    lowerInFlight r.slot (writeTag r tag (t.setSealing none)) =
      low { t with sealer := { t.sealer with current := none, controlTag := tag } } := by
  have htag : writeTag r tag (t.setSealing none) =
      { t with sealer := { t.sealer with current := none, controlTag := tag } } := by
    simp only [writeTag, hdesc]
    rfl
  rw [htag]
  exact h.eq (congrArg KeySlot.state hslot) (congrArg KeySlot.inFlight hslot)

/-- R53, R55: a TRAFFIC frame whose tag stands in its descriptor, its slot's count lowered. -/
theorem lowered_traffic {s : State} {r : Sealing} {low : State → State} (h : Lowers s r.slot low) {d : DescNo}
    (hdesc : r.desc = some d) {x : Descriptor} (tag : List Byte) {t : State}
    (hslot : t.slot r.slot = s.slot r.slot) (hx : t.desc d = some x) :
    lowerInFlight r.slot (writeTag r tag (t.setSealing none)) =
      (low (t.setSealing none)).setDesc d (some { x with tag := some tag }) := by
  have htag : writeTag r tag (t.setSealing none) =
      (t.setSealing none).setDesc d (some { x with tag := some tag }) := by
    have hx' : (t.setSealing none).desc d = some x := hx
    simp only [writeTag, hdesc, State.modDesc, hx', Option.map_some]
  rw [htag, ← h.setDesc]
  exact h.eq (congrArg KeySlot.state hslot) (congrArg KeySlot.inFlight hslot)

/-- A control frame holds no units. -/
theorem freeSealed_control {r : Sealing} (h : r.desc = none) (t : State) : freeSealed r t = t := by
  simp only [freeSealed, h]

/-- R134: a control frame passes as the transmitter's own copy. -/
theorem handToTransmitter_control {r : Sealing} (h : r.desc = none) (t : State) :
    handToTransmitter r t = t.setTransmitter r.link (.copy (frameStart ::
      (t.sealer.controlHeader ++ t.sealer.control.take r.length ++ t.sealer.controlTag)) 0) := by
  simp only [handToTransmitter, h]

theorem freeSealed_traffic {r : Sealing} {d : DescNo} (h : r.desc = some d) (t : State) :
    freeSealed r t = t.setDesc d none := by
  simp only [freeSealed, h, State.freeFrame]

theorem handToTransmitter_traffic {r : Sealing} {d : DescNo} (h : r.desc = some d) (t : State) :
    handToTransmitter r t = t.setTransmitter r.link (.frame d 0) := by
  simp only [handToTransmitter, h]

/-- R82, R92: nobody is told of a sealed TRAFFIC frame. -/
theorem reportSealed_traffic {r : Sealing} (h : r.kind = .traffic) (t : State) : reportSealed r t = t := by
  simp only [reportSealed, h]

theorem Lowers.sealer {s : State} {k : SlotNo} {low : State → State} (h : Lowers s k low) (t : State) :
    (low t).sealer = t.sealer := by rw [h.rest t]

theorem Lowers.trunk {s : State} {k : SlotNo} {low : State → State} (h : Lowers s k low) (t : State) :
    (low t).trunk = t.trunk := by rw [h.rest t]

/-- The sealer's last operation as a row: the state that its completion leaves comes to rest. -/
theorem sealingCompletion_eq {s t : State} {r : Sealing} (hu : s.engine.unit = some .sealer)
    (hr : s.sealer.current = some r) (hleft : r.left = 1)
    (ht : completeSealing { r with left := 0, tagChain := (sealingOperation r (cost r.length - 1) s).2 }
      (sealingOperation r (cost r.length - 1) s).1 = t) :
    exec .sealingCompletion s = .next (finish (freeUnit (settleBlocks t))) := by
  rw [exec_sealingCompletion hu hr hleft, operationEnds, endOperation_sealer_last hr hleft, ht]

theorem State.link_count (s : State) (l : LinkId) (c : Counter) :
    (s.count l c).link l = { s.link l with
      stats := tput (s.link l).stats c.index (satInc (tget (s.link l).stats c.index)) } :=
  State.link_modLink_self s l _

end Sys2Proof.Machine

namespace Sys2Proof.Proofs

open Sys2Proof Sys2Proof.Machine

/-- Settles O48: the count is lowered, and the frame's fate follows its discard mark and its link's trunk slots. -/
theorem sealingCompletionHandsOver : Obligations.SealingCompletionHandsOver := by
  unfold Obligations.SealingCompletionHandsOver
  refine ⟨fun s r low hu hr hleft hdesc hlow => ?_,
    fun s r d x low hu hr hleft hkind hdesc hx hlow => ?_⟩
  · intro op tag closed counted passed lost ended k
    let last : Sealing := { r with left := 0, tagChain := op.2 }
    have hdesc' : last.desc = none := hdesc
    have hslot : op.1.slot r.slot = s.slot r.slot := sealingOperation_slot r _ s r.slot
    have hlowered : lowerInFlight last.slot (writeTag last tag (op.1.setSealing none)) = low closed :=
      lowered_control hlow hdesc' tag hslot
    have hcounted := congrArg (State.count r.link .framesSealed) hlowered
    have htrunk : counted.trunk = s.trunk := (hlow.trunk closed).trans (sealingOperation_trunk r _ s)
    have hhas : hasSlot counted r.link = hasSlot s r.link := hasSlot_congr (by rw [htrunk]) r.link
    have hpassed : handToTransmitter last counted = passed := by
      have hsealer : counted.sealer = closed.sealer := hlow.sealer closed
      have hheader : op.1.sealer.controlHeader = s.sealer.controlHeader := sealingOperation_controlHeader r _ s
      rw [handToTransmitter_control hdesc', hsealer]
      simp only [closed, passed, hheader]
      rfl
    have hlost : freeSealed last lost = lost := freeSealed_control hdesc' lost
    refine ⟨fun hd => sealingCompletion_eq hu hr hleft ?_, fun hd fate hfate => ?_, fun hne => ?_⟩
    · rw [completeSealing_discarded (r := last) hd, freeSealed_control hdesc']
      exact hlowered
    · have hreport : completeSealing last op.1 = reportSealed last fate := by
        rcases hfate with ⟨hh, rfl⟩ | ⟨hh, rfl⟩
        · rw [completeSealing_passed (r := last) hd hcounted (hhas.trans hh), hpassed]
        · exact (completeSealing_lost (r := last) hd hcounted (hhas.trans hh)).trans (congrArg _ hlost)
      have hrecord : (fate.link r.link).renewal = k.renewal ∧ (fate.link r.link).profile = k.profile := by
        rcases hfate with ⟨_, rfl⟩ | ⟨_, rfl⟩
        · exact ⟨rfl, rfl⟩
        · rw [State.link_count]
          exact ⟨rfl, rfl⟩
      have hup : circuitUp fate r.link = circuitUp s r.link := by
        have hparts : fate.trunk = { s.trunk with transmitters := fate.trunk.transmitters } := by
          rw [← htrunk]
          rcases hfate with ⟨_, rfl⟩ | ⟨_, rfl⟩ <;> rfl
        refine circuitUp_congr ?_ ?_ ?_ ?_ r.link <;> rw [hparts]
      obtain ⟨hoffer, hoffer', hcutover, hcutover'⟩ := reportSealed_control (r := last) hrecord.1 hrecord.2 hup
      have row : ∀ {t}, reportSealed last fate = t → exec .sealingCompletion s = ended t := fun ht =>
        sealingCompletion_eq hu hr hleft (hreport.trans ht)
      exact ⟨fun hk hs => row (hoffer hk hs), fun hk hs => row (hoffer' hk hs),
        fun hk hs => row (hcutover hk hs), fun hk hs => row (hcutover' hk hs)⟩
    · have hlinks : (low closed).links = s.links :=
        (hlow.of_ne_draining hne closed).1.trans (sealingOperation_links r _ s)
      have hsame : (low closed).link r.link = s.link r.link := by rw [State.link, hlinks]; rfl
      change (((low closed).count r.link .framesSealed).link r.link).renewal = _
      rw [State.link_count, hsame]
  · intro op lowered counted
    let last : Sealing := { r with left := 0, tagChain := op.2 }
    have hdesc' : last.desc = some d := hdesc
    have hkind' : last.kind = .traffic := hkind
    have hslot : op.1.slot r.slot = s.slot r.slot := sealingOperation_slot r _ s r.slot
    have hx' : op.1.desc d = some x := (sealingOperation_desc r _ s d).trans hx
    have hlowered := lowered_traffic hlow hdesc' (tagOf op.2) hslot hx'
    have hcounted := congrArg (State.count r.link .framesSealed) hlowered
    have htrunk : counted.trunk = s.trunk := (hlow.trunk _).trans (sealingOperation_trunk r _ s)
    have hhas : hasSlot counted r.link = hasSlot s r.link := hasSlot_congr (by rw [htrunk]) r.link
    refine ⟨fun hd => ?_, fun hd hh => ?_, fun hd hh => ?_⟩ <;> refine sealingCompletion_eq hu hr hleft ?_
    · rw [completeSealing_discarded (r := last) hd, freeSealed_traffic hdesc']
      exact (congrArg (State.setDesc d none) hlowered).trans (State.setDesc_setDesc _ _ _ _)
    · rw [completeSealing_passed (r := last) hd hcounted (hhas.trans hh), handToTransmitter_traffic hdesc',
        reportSealed_traffic hkind']
      rfl
    · rw [completeSealing_lost (r := last) hd hcounted (hhas.trans hh), freeSealed_traffic hdesc',
        reportSealed_traffic hkind']
      exact State.setDesc_setDesc _ _ _ (counted.count r.link .abandoned)

end Sys2Proof.Proofs
end

section
/-! The opening completion. -/

namespace Sys2Proof.Machine

theorem openingOperation_slot (r : Opening) (i : Nat) (s : State) (k : SlotNo) :
    (openingOperation r i s).1.slot k = s.slot k := by
  obtain ⟨_, e⟩ := openingOperation_eq r i s
  rw [e]
  rfl

theorem openingOperation_links (r : Opening) (i : Nat) (s : State) :
    (openingOperation r i s).1.links = s.links := by
  obtain ⟨_, e⟩ := openingOperation_eq r i s
  rw [e]

theorem openingOperation_desc (r : Opening) (i : Nat) (s : State) (d : DescNo) :
    (openingOperation r i s).1.desc d = s.desc d := by
  obtain ⟨_, e⟩ := openingOperation_eq r i s
  rw [e]
  rfl

theorem openingOperation_delivery (r : Opening) (i : Nat) (s : State) :
    (openingOperation r i s).1.store.delivery = s.store.delivery := by
  obtain ⟨_, e⟩ := openingOperation_eq r i s
  rw [e]

theorem Lowers.store {s : State} {k : SlotNo} {low : State → State} (h : Lowers s k low) (t : State) :
    (low t).store = t.store := by rw [h.rest t]

/-- R69: a sequence entered into a window leaves the slot's state and count as they were. -/
theorem enterWindow_rest (seq : Nat) (x : KeySlot) : (enterWindow seq x).state = x.state ∧
    (enterWindow seq x).inFlight = x.inFlight ∧ (enterWindow seq x).epoch = x.epoch := by
  unfold enterWindow
  split <;> exact ⟨rfl, rfl, rfl⟩

theorem RenewalFrame.store {ls : List LinkId} {s t : State} (h : RenewalFrame ls s t) : t.store = s.store := by
  rw [h.rest]

/-- R93: a retirement leaves the frames and their bytes as they were. -/
theorem retired_store (l : LinkId) (s : State) : (retired l s).store = s.store := by
  obtain ⟨u, hframe, hu⟩ := retiredQuiet_frame l s
  have hquiet : (retiredQuiet l s).store = u.store := by rw [hu, State.modRenewal_store]
  have hreleased := hframe.store.trans (released_store _ _)
  exact ((reevaluate_frame l (retiredQuiet l s)).store.trans hquiet).trans hreleased

/-! ### The report of a good frame (R72, R93) -/

theorem reportEpoch_retires {l : LinkId} {epoch : Nat} {t : State} {c : SlotNo}
    (hstate : (t.link l).renewal.state = .cutting) (hc : (t.link l).current = some c)
    (he : (t.slot c).epoch = epoch) : reportEpoch l epoch t = retired l t := by
  rw [← retire_eq_retired]
  simp only [reportEpoch, hc, hstate, he, and_self, if_true]

theorem reportEpoch_ends_nothing {l : LinkId} {epoch : Nat} {t : State}
    (h : (t.link l).renewal.state ≠ .cutting ∨
      ∀ c, (t.link l).current = some c → (t.slot c).epoch ≠ epoch) : reportEpoch l epoch t = t := by
  cases hc : (t.link l).current with
  | none => simp only [reportEpoch, hc]
  | some c =>
    have hnot : ¬((t.link l).renewal.state = .cutting ∧ (t.slot c).epoch = epoch) := by
      rintro ⟨hs, he⟩
      rcases h with h | h
      · exact h hs
      · exact h c hc he
    simp only [reportEpoch, hc, hnot, if_false]

/-! ### Answers of the shop (R87, R88) -/

theorem acceptValid_iff (k : Link) (epoch : Nat) (echo : Nonce) : acceptValid k epoch echo = true ↔
    k.state = .active ∧ k.renewal.state = .offering ∧ k.renewal.offeredEpoch = epoch ∧
      k.renewal.headNonce = echo := by
  simp [acceptValid, and_assoc]

/-- R87: a valid ACCEPT withdraws a waiting OFFER, stops the offer timer and requests the derivation. -/
theorem handAccept_valid {l : LinkId} {epoch : Nat} {echo ns : Nonce} {t : State} {n : SlotNo}
    (h : acceptValid (t.link l) epoch echo = true) (hn : (t.link l).next = some n) :
    handAccept l epoch echo ns t = (t.modLink l fun y => { y with
        lane := withoutOffer y.lane
        renewal := { y.renewal with
          state := .derivingNext, shopNonce := ns, offer := .stopped } }).setRequests
      (t.keys.requests ++ [⟨n, l, epoch, echo, ns⟩]) := by
  obtain ⟨_, _, he, _⟩ := (acceptValid_iff _ _ _).1 h
  simp only [handAccept, h, if_true, hn, he]
  rfl

theorem handAccept_invalid {l : LinkId} {epoch : Nat} {echo ns : Nonce} {t : State}
    (h : acceptValid (t.link l) epoch echo = false) : handAccept l epoch echo ns t = t.count l .protocol := by
  simp only [handAccept, h, Bool.false_eq_true, if_false]

/-! ### The fate of a good frame (R70, R71) -/

section Fate

variable {r : Opening} {t : State}

theorem disposeGood_delivered (hkind : r.kind = .traffic) (h : (t.link r.link).state = .active) :
    disposeGood r t = (t.setDelivery (t.store.delivery ++ [r.desc])).count r.link .delivered := by
  simp only [disposeGood, hkind, h, if_true]

theorem disposeGood_isolated (hkind : r.kind = .traffic) (h : (t.link r.link).state ≠ .active) :
    disposeGood r t = (t.setDesc r.desc none).count r.link .isolatedDiscard := by
  simp only [disposeGood, hkind, h, if_false, State.freeFrame]

/-- The shop sends neither an OFFER nor a CUTOVER. -/
theorem disposeGood_protocol (hkind : r.kind = .offer ∨ r.kind = .cutover) :
    disposeGood r t = (t.setDesc r.desc none).count r.link .protocol := by
  rcases hkind with hkind | hkind <;> simp only [disposeGood, hkind, State.freeFrame]

theorem disposeGood_ask (hkind : r.kind = .ask) :
    disposeGood r t = (trigger r.link t).setDesc r.desc none := by
  simp only [disposeGood, hkind, State.freeFrame, handAsk]

theorem disposeGood_accept (hkind : r.kind = .accept) {bytes : List Byte}
    (hbytes : chainBytes t.store.mem (frameUnits t r.desc) 0 r.length = bytes) :
    disposeGood r t = (handAccept r.link (beNat (bytes.take 2)) (nonceOf ((bytes.drop 2).take 6))
      (nonceOf ((bytes.drop 8).take 6)) t).setDesc r.desc none := by
  simp only [disposeGood, hkind, hbytes, State.freeFrame]

end Fate

/-! ### The completion -/

theorem completeOpening_discarded {r : Opening} (h : r.discard = true) (t : State) :
    completeOpening r t = lowerInFlight r.slot ((t.setOpening none).setDesc r.desc none) := by
  simp only [completeOpening, h, if_true]
  rfl

/-- R68: a frame whose tag does not match is freed and counted. -/
theorem completeOpening_badTag {r : Opening} {t : State} (h : r.discard = false)
    (htag : tagMatches (t.setOpening none) r = false) :
    completeOpening r t = lowerInFlight r.slot
      ((((t.setOpening none).setDesc r.desc none).count r.link .badTag).modEvents r.link fun e =>
        { e with tagFailures := satInc e.tagFailures }) := by
  simp only [completeOpening, h, htag, Bool.false_eq_true, if_false]
  rfl

/-- R69 to R72: a good frame enters the window, is reported, and is dealt with by its kind. -/
theorem completeOpening_good {r : Opening} {t : State} (h : r.discard = false)
    (htag : tagMatches (t.setOpening none) r = true) :
    completeOpening r t = disposeGood r (reportEpoch r.link r.epoch
      (lowerInFlight r.slot ((t.setOpening none).modSlot r.slot (enterWindow r.seq)))) := by
  simp only [completeOpening, h, htag, Bool.false_eq_true, if_true, if_false]

/-- The opener's last operation as a row: the state that its completion leaves comes to rest. -/
theorem openingCompletion_eq {s t : State} {r : Opening} (hu : s.engine.unit = some .opener)
    (hr : s.opener.current = some r) (hleft : r.left = 1)
    (ht : completeOpening { r with left := 0, tagChain := (openingOperation r (cost r.length - 1) s).2 }
      (openingOperation r (cost r.length - 1) s).1 = t) :
    exec .openingCompletion s = .next (finish (freeUnit (settleBlocks t))) := by
  rw [exec_openingCompletion hu hr hleft, operationEnds, endOperation_opener_last hr hleft, ht]

end Sys2Proof.Machine

namespace Sys2Proof.Proofs

open Sys2Proof Sys2Proof.Machine

/-- Settles O53: the tag decides, and then the report, the frame's kind and its link's state. -/
theorem openingCompletionJudges : Obligations.OpeningCompletionJudges := by
  unfold Obligations.OpeningCompletionJudges
  intro s r x low hu hr hleft hx hlow op closed ended entered good
  let last : Opening := { r with left := 0, tagChain := op.2 }
  have row : ∀ {t}, completeOpening last op.1 = t → exec .openingCompletion s = ended t := fun ht =>
    openingCompletion_eq hu hr hleft ht
  have hslot : closed.slot r.slot = s.slot r.slot := openingOperation_slot r _ s r.slot
  have hdesc : closed.desc r.desc = some x := (openingOperation_desc r _ s r.desc).trans hx
  have hunits : frameUnits closed r.desc = x.chain := by rw [frameUnits, hdesc]
  have htag : tagMatches closed last = decide good := by
    simp only [tagMatches, last, hunits]
    rfl
  have hentered : lowerInFlight r.slot (closed.modSlot r.slot (enterWindow r.seq)) = entered := by
    obtain ⟨hstate, hcount, _⟩ := enterWindow_rest r.seq (closed.slot r.slot)
    refine hlow.eq ?_ ?_ <;> rw [State.slot_modSlot_self, ← hslot] <;> assumption
  have hlowered : ∀ {t : State}, t.slot r.slot = closed.slot r.slot → lowerInFlight r.slot t = low t := fun ht =>
    hlow.eq (by rw [ht, hslot]) (by rw [ht, hslot])
  refine ⟨fun hd => row ?_, fun hd hbad => row ?_, fun hd hgood told htold => ?_, fun hne => ?_, fun _ => ?_⟩
  · exact (completeOpening_discarded (r := last) hd op.1).trans (hlowered rfl)
  · exact (completeOpening_badTag (r := last) hd (htag.trans (decide_eq_false hbad))).trans (hlowered rfl)
  · have htold' : reportEpoch r.link r.epoch entered = told := by
      rcases htold with ⟨hends, rfl⟩ | ⟨hcutting, ⟨c, hc, he⟩, rfl⟩
      · exact reportEpoch_ends_nothing hends
      · exact reportEpoch_retires hcutting hc he
    have hstore : told.store = closed.store := by
      have hkept : entered.store = closed.store := hlow.store (closed.modSlot r.slot (enterWindow r.seq))
      rcases htold with ⟨-, rfl⟩ | ⟨-, -, rfl⟩
      · exact hkept
      · exact (retired_store r.link entered).trans hkept
    have fate : ∀ {t}, disposeGood last told = t → exec .openingCompletion s = ended t := fun ht => by
      refine row ((completeOpening_good (r := last) hd (htag.trans (decide_eq_true hgood))).trans ?_)
      rw [← ht, ← htold', ← hentered]
    intro k
    refine ⟨fun hkind hactive => fate ?_, fun hkind hactive => fate ?_, fun hkind => fate ?_, fun hkind => fate ?_,
      fun hkind => ?_⟩
    · have hdelivery : told.store.delivery = s.store.delivery := by
        rw [hstore]
        exact openingOperation_delivery r _ s
      rw [disposeGood_delivered (r := last) hkind hactive, hdelivery]
    · exact disposeGood_isolated (r := last) hkind hactive
    · exact disposeGood_protocol (r := last) hkind
    · exact disposeGood_ask (r := last) hkind
    · intro bytes epoch echo ns
      have hbytes : chainBytes told.store.mem (frameUnits told r.desc) 0 r.length = bytes := by
        have hchain : frameUnits told r.desc = x.chain := by
          rw [← hunits, frameUnits, frameUnits, State.desc, hstore]
          rfl
        rw [hchain, hstore]
        rfl
      have hhand := disposeGood_accept (r := last) hkind hbytes
      refine ⟨fun n hn hactive hoffering he hecho => fate (hhand.trans ?_), fun hwrong => fate (hhand.trans ?_)⟩
      · exact congrArg (State.setDesc r.desc none)
          (handAccept_valid ((acceptValid_iff _ _ _).2 ⟨hactive, hoffering, he, hecho⟩) hn)
      · refine congrArg (State.setDesc r.desc none) (handAccept_invalid (Bool.eq_false_iff.2 fun hvalid => ?_))
        obtain ⟨hactive, hoffering, he, hecho⟩ := (acceptValid_iff _ _ _).1 hvalid
        rcases hwrong with hw | hw | hw | hw
        exacts [hw hactive, hw hoffering, hw he, hw hecho]
  · obtain ⟨hlinks, hepoch⟩ := hlow.of_ne_draining hne (closed.modSlot r.slot (enterWindow r.seq))
    refine ⟨hlinks.trans (openingOperation_links r _ s), hepoch.trans ?_⟩
    rw [State.slot_modSlot_self, (enterWindow_rest _ _).2.2, hslot]
  · exact (retired_link r.link entered).1

end Sys2Proof.Proofs
end

section
/-! Root keys masked: what a command does and answers without seeing them. -/

namespace Sys2Proof.Machine

/-- R35: a derivation with its copy of the root key, and the values made with it, masked. -/
def Derivation.masked (d : Derivation) : Derivation := { d with rootCopy := 0, results := [] }

/-- The part with every root key masked, and the deriver's copy of one with what was made of it. -/
def State.masked (s : State) : State :=
  { s with keys := { s.keys with
      roots := s.keys.roots.map fun r => { r with key := 0 }
      derivation := s.keys.derivation.map Derivation.masked } }

/-- Two states that differ at most in root keys are the same with the root keys masked. -/
theorem SameButRootKeys.masked_eq {s t : State} (h : SameButRootKeys s t) : s.masked = t.masked := by
  obtain ⟨⟨roots, derivation, rfl⟩, hroots, hderivation⟩ := h
  have hr : s.keys.roots.map (fun r => { r with key := 0 }) = roots.map fun r => { r with key := 0 } := by
    ext i hi
    have hstate : (s.keys.roots[i]).state = (roots[i]).state := hroots ⟨i, hi⟩
    simp [hstate]
  have hd : s.keys.derivation.map Derivation.masked = derivation.map Derivation.masked := by
    have hmask : Derivation.masked = (fun p => ⟨p.1, 0, p.2, []⟩) ∘ fun d => (d.request, d.left) := rfl
    rw [hmask, ← Option.map_map, ← Option.map_map]
    exact congrArg _ hderivation
  simp only [State.masked, hr, hd]

/-! ### What reads no root key -/

section Reads

variable (s : State)

@[simp] theorem masked_link (l : LinkId) : s.masked.link l = s.link l := rfl
@[simp] theorem masked_slot (k : SlotNo) : s.masked.slot k = s.slot k := rfl
@[simp] theorem masked_desc (d : DescNo) : s.masked.desc d = s.desc d := rfl
@[simp] theorem masked_queue (l : LinkId) : s.masked.queue l = s.queue l := rfl
@[simp] theorem masked_receiver (l : LinkId) : s.masked.receiver l = s.receiver l := rfl
@[simp] theorem masked_monitor (p : Port) : s.masked.monitor p = s.monitor p := by cases p <;> rfl
@[simp] theorem masked_engine : s.masked.engine = s.engine := rfl
@[simp] theorem masked_sealer : s.masked.sealer = s.sealer := rfl
@[simp] theorem masked_opener : s.masked.opener = s.opener := rfl
@[simp] theorem masked_trunk : s.masked.trunk = s.trunk := rfl
@[simp] theorem masked_draws : s.masked.draws = s.draws := rfl
@[simp] theorem masked_requests : s.masked.keys.requests = s.keys.requests := rfl
@[simp] theorem masked_derivation : s.masked.keys.derivation = s.keys.derivation.map Derivation.masked := rfl

@[simp] theorem masked_root (l : LinkId) : s.masked.root l = { s.root l with key := 0 } := by
  simp [State.root, State.masked, tget]

@[simp] theorem lowestFreeSlot_masked : lowestFreeSlot s.masked = lowestFreeSlot s := rfl
@[simp] theorem hardLimit_masked (l : LinkId) : hardLimit s.masked l = hardLimit s l := rfl
@[simp] theorem sealEligible_masked : sealEligible s.masked = sealEligible s := rfl
@[simp] theorem circuitUp_masked (l : LinkId) : circuitUp s.masked l = circuitUp s l := rfl
@[simp] theorem sealerReady_masked : sealerReady s.masked = sealerReady s := rfl
@[simp] theorem openerReady_masked : openerReady s.masked = openerReady s := rfl
@[simp] theorem trafficAdmission_masked : trafficAdmission s.masked = trafficAdmission s := rfl
@[simp] theorem controlAdmission_masked : controlAdmission s.masked = controlAdmission s := rfl
@[simp] theorem preCheck_masked : preCheck s.masked = preCheck s := rfl

@[simp] theorem deriverReady_masked : deriverReady s.masked = deriverReady s := by
  simp [deriverReady]

/-- R38: whether a requester waits is seen in its sequence's count alone. -/
@[simp] theorem waiting_masked : waiting s.masked = waiting s := by
  funext r
  cases r with
  | deriver => cases hd : s.keys.derivation <;> simp [waiting, hd, Derivation.masked]
  | sealer => rfl
  | opener => rfl

end Reads

/-! ### What changes no root key -/

section Updates

variable (s : State)

@[simp] theorem modLink_masked (l : LinkId) (f : Link → Link) : s.masked.modLink l f = (s.modLink l f).masked := rfl
@[simp] theorem modRenewal_masked (l : LinkId) (f : Renewal → Renewal) :
    s.masked.modRenewal l f = (s.modRenewal l f).masked := rfl
@[simp] theorem modSlot_masked (k : SlotNo) (f : KeySlot → KeySlot) :
    s.masked.modSlot k f = (s.modSlot k f).masked := rfl
@[simp] theorem setWaitList_masked (w : List LinkId) : s.masked.setWaitList w = (s.setWaitList w).masked := rfl
@[simp] theorem freeFrame_masked (d : DescNo) : s.masked.freeFrame d = (s.freeFrame d).masked := rfl
@[simp] theorem setQueue_masked (l : LinkId) (q : List DescNo) : s.masked.setQueue l q = (s.setQueue l q).masked := rfl
@[simp] theorem setSealRequests_masked (r : List LinkId) :
    s.masked.setSealRequests r = (s.setSealRequests r).masked := rfl
@[simp] theorem setOpening_masked (r : Option Opening) : s.masked.setOpening r = (s.setOpening r).masked := rfl
@[simp] theorem setOpenList_masked (w : List DescNo) : s.masked.setOpenList w = (s.setOpenList w).masked := rfl
@[simp] theorem count_masked (l : LinkId) (c : Counter) : s.masked.count l c = (s.count l c).masked := rfl
@[simp] theorem raiseInFlight_masked (k : SlotNo) : raiseInFlight k s.masked = (raiseInFlight k s).masked := rfl
@[simp] theorem releaseSlot_masked (k : SlotNo) : releaseSlot k s.masked = (releaseSlot k s).masked := rfl
@[simp] theorem leaveWaitList_masked (l : LinkId) : leaveWaitList l s.masked = (leaveWaitList l s).masked := rfl
@[simp] theorem refreshRequests_masked : refreshRequests s.masked = (refreshRequests s).masked := by
  rw [refreshRequests, refreshRequests, sealEligible_masked]
  rfl
@[simp] theorem countEpochEvent_masked (l : LinkId) (c : Counter) :
    countEpochEvent l c s.masked = (countEpochEvent l c s).masked := by
  unfold countEpochEvent
  split <;> rfl
@[simp] theorem rejectFrame_masked (d : DescNo) (l : LinkId) (c : Counter) :
    rejectFrame d l c s.masked = (rejectFrame d l c s).masked := by
  simp [rejectFrame]

@[simp] theorem setEventPending_masked (l : LinkId) : s.masked.setEventPending l = (s.setEventPending l).masked := by
  unfold State.setEventPending
  rw [masked_link]
  split <;> rfl

end Updates

/-! ### Renewals, releases and charges -/

section Renewals

variable (l : LinkId) (s : State)

@[simp] theorem startRenewal_masked (k : SlotNo) : startRenewal l k s.masked = (startRenewal l k s).masked := by
  cases hc : (s.link l).current with
  | none => rw [startRenewal_of_none hc, startRenewal_of_none (s := s.masked) hc]
  | some c =>
    rw [startRenewal_of_some hc, startRenewal_of_some (s := s.masked) hc]
    rfl

@[simp] theorem handOver_masked : handOver s.masked = (handOver s).masked := by
  have all : ∀ (w : List LinkId) (s : State), handOverTo w s.masked = (handOverTo w s).masked := by
    intro w
    induction w with
    | nil => exact fun _ => rfl
    | cons l rest ih =>
      intro s
      rw [handOverTo, handOverTo, lowestFreeSlot_masked]
      cases lowestFreeSlot s with
      | none => rfl
      | some k => simp only [setWaitList_masked, startRenewal_masked, ih]
  exact all _ s

@[simp] theorem releaseSlots_masked (ks : List SlotNo) : releaseSlots ks s.masked = (releaseSlots ks s).masked :=
  List.foldl_hom State.masked fun s k => releaseSlot_masked s k

@[simp] theorem trigger_masked : trigger l s.masked = (trigger l s).masked := by
  simp only [trigger, actOnTrigger, masked_link, masked_slot, lowestFreeSlot_masked, startRenewal_masked]
  split
  · split
    · rfl
    · split
      · rfl
      · split <;> rfl
  · rfl

@[simp] theorem isolate_masked : isolate l s.masked = (isolate l s).masked := by
  simp only [isolate, abortRenewal, modLink_masked, masked_link, leaveWaitList_masked, releaseSlots_masked,
    handOver_masked]

@[simp] theorem autoIsolate_masked : autoIsolate l s.masked = (autoIsolate l s).masked := by
  simp only [autoIsolate, masked_link, isolate_masked, setEventPending_masked]
  split <;> rfl

@[simp] theorem failRenewal_masked : failRenewal l s.masked = (failRenewal l s).masked := by
  simp only [failRenewal, masked_link, modLink_masked, releaseSlots_masked, handOver_masked, modRenewal_masked,
    autoIsolate_masked]
  split <;> rfl

@[simp] theorem cutover_masked : cutover l s.masked = (cutover l s).masked := by
  simp only [cutover, masked_link, modLink_masked, releaseSlots_masked, handOver_masked, setEventPending_masked]

@[simp] theorem chargeSlot_masked (k : SlotNo) (n : Nat) : chargeSlot k l n s.masked = (chargeSlot k l n s).masked := by
  simp only [chargeSlot, hardLimit_masked, masked_slot, modSlot_masked, trigger_masked]
  split <;> rfl

/-- R39: a grant looks at which requesters wait, and at no key. -/
@[simp] theorem grant_masked : grant s.masked = (grant s).masked := by
  cases hu : s.engine.unit with
  | some q => simp only [grant, masked_engine, hu]
  | none =>
    cases hf : (orderAfter s.engine.lastServed).find? (waiting s) with
    | none => simp only [grant, masked_engine, waiting_masked, hu, hf]
    | some q =>
      rw [grant_of_found hu hf, grant_of_found (s := s.masked) hu (by rw [waiting_masked]; exact hf)]
      rfl

end Renewals

/-! ### The starts of the blocks -/

section Starts

variable (s : State)

@[simp] theorem admitSealing_masked (l : LinkId) (kind : FrameKind) (k : SlotNo) (seq p : Nat)
    (desc : Option DescNo) (payload : List Byte) :
    admitSealing l kind k seq p desc payload s.masked = (admitSealing l kind k seq p desc payload s).masked := by
  simp only [admitSealing, masked_slot, modSlot_masked, chargeSlot_masked, raiseInFlight_masked]
  rw [← grant_masked]
  cases desc <;> rfl

@[simp] theorem startTraffic_masked (l : LinkId) : startTraffic l s.masked = (startTraffic l s).masked := by
  simp only [startTraffic, masked_link, masked_queue, masked_desc, trafficAdmission_masked]
  split
  · split
    · split
      · simp only [setQueue_masked, modLink_masked, admitSealing_masked]
      · simp only [modLink_masked, trigger_masked]
    · rfl
  · rfl

@[simp] theorem startControl_masked (l : LinkId) (m : LaneMsg) :
    startControl l m s.masked = (startControl l m s).masked := by
  cases m with
  | offer e nh attempt =>
    simp only [startControl, masked_link, controlAdmission_masked]
    split
    · split
      · exact admitSealing_masked _ _ _ _ _ _ _ _
      · exact failRenewal_masked _ _
    · rfl
  | cutover e nh ns =>
    simp only [startControl, cutover_masked, masked_link, controlAdmission_masked]
    split
    · split
      · exact admitSealing_masked _ _ _ _ _ _ _ _
      · rfl
    · rfl

@[simp] theorem startSealing_masked : startSealing s.masked = (startSealing s).masked := by
  simp only [startSealing, masked_sealer]
  split
  · simp only [setSealRequests_masked, masked_link, modLink_masked, startControl_masked, startTraffic_masked]
    split <;> rfl
  · rfl

@[simp] theorem startOpening_masked : startOpening s.masked = (startOpening s).masked := by
  simp only [startOpening, masked_opener]
  split
  · simp only [setOpenList_masked, masked_desc, preCheck_masked]
    split
    · split
      · simp only [chargeOpening, chargeSlot_masked, raiseInFlight_masked, setOpening_masked, grant_masked]
      · exact rejectFrame_masked _ _ _ _
    · rfl
  · rfl

/-- R35: the deriver's copy of a root key is masked with the key it copies. -/
@[simp] theorem beginDerivation_masked : beginDerivation s.masked = (beginDerivation s).masked := by
  cases hd : s.keys.derivation with
  | some d =>
    simp only [beginDerivation, masked_derivation, hd, Option.map_some]
  | none =>
    cases hr : s.keys.requests with
    | nil => simp only [beginDerivation, masked_derivation, masked_requests, hd, hr, Option.map_none]
    | cons r rest =>
      rw [beginDerivation_eq hd hr, beginDerivation_eq (s := s.masked) (by simp [hd]) hr, ← grant_masked,
        masked_root]
      rfl

@[simp] theorem nextStart_masked : nextStart s.masked = nextStart s := by
  simp only [nextStart, sealerReady_masked, openerReady_masked, deriverReady_masked, masked_draws]
  rfl

@[simp] theorem drawStart_masked : drawStart s.masked = (drawStart s).masked := by
  unfold drawStart
  rw [sealerReady_masked, openerReady_masked]
  by_cases h : (sealerReady s && openerReady s) = true
  · rw [if_pos h, if_pos h]
    rfl
  · rw [if_neg h, if_neg h]

@[simp] theorem takeStart_masked (c : Start) : takeStart c s.masked = (takeStart c s).masked := by
  cases c with
  | sealing => exact startSealing_masked s
  | opening => exact startOpening_masked s
  | derivation => exact beginDerivation_masked s

/-- The blocks come to rest in the same way whatever the root keys are. -/
@[simp] theorem settleBlocks_masked : settleBlocks s.masked = (settleBlocks s).masked := by
  have all : ∀ (n : Nat) (s : State), settleBlocksFor n s.masked = (settleBlocksFor n s).masked := by
    intro n
    induction n with
    | zero => exact refreshRequests_masked
    | succ n ih =>
      intro s
      simp only [settleBlocksFor, refreshRequests_masked, nextStart_masked, drawStart_masked, takeStart_masked, ih]
      split <;> rfl
  exact all _ s

end Starts

/-! ### The answers of the commands -/

/-- A command whose answer no root key can change. -/
def AnswersBlindly (e : State → State × Answer) : Prop := ∀ s, (e s.masked).2 = (e s).2

section Answers

theorem refuse_blindly (c : ResultCode) : AnswersBlindly (refuse c) := fun _ => rfl

theorem ok_blindly (f : State → State) : AnswersBlindly fun s => ok (f s) := fun _ => rfl

/-- A check that reads no root key decides between two answers. -/
theorem ite_blindly {c : State → Prop} [∀ s, Decidable (c s)] {e e' : State → State × Answer}
    (hc : ∀ s, c s.masked ↔ c s) (he : AnswersBlindly e) (he' : AnswersBlindly e') :
    AnswersBlindly fun s => if c s then e s else e' s := fun s => by
  dsimp only
  by_cases h : c s
  · rw [if_pos h, if_pos ((hc s).2 h), he s]
  · rw [if_neg h, if_neg fun hm => h ((hc s).1 hm), he' s]

theorem onLink_blindly {f : LinkId → State → State × Answer} (h : ∀ l, AnswersBlindly (f l)) (b : Byte) :
    AnswersBlindly (onLink b f) := fun s => by
  cases hl : linkOfByte b with
  | none => rw [onLink_none hl, onLink_none hl, refuse, refuse]
  | some l => rw [onLink_some hl, onLink_some hl, h l s]

/-- R9, R109: the checks of a link number and of a link's state read no root key. -/
theorem onLiveLink_blindly {f : LinkId → State → State × Answer} (h : ∀ l, AnswersBlindly (f l)) (b : Byte) :
    AnswersBlindly (onLiveLink b f) :=
  onLink_blindly (fun l => ite_blindly (fun _ => Iff.rfl) (h l) (refuse_blindly _)) b

theorem configure_blindly (link : Byte) (p : Option Profile) : AnswersBlindly (configure link p) := by
  refine onLink_blindly (fun l => ite_blindly (fun _ => Iff.rfl) ?_ (refuse_blindly _)) link
  cases p with
  | none => exact refuse_blindly _
  | some p => exact ok_blindly _

theorem unconfigure_blindly (link : Byte) : AnswersBlindly (unconfigure link) :=
  onLink_blindly (fun _ => ite_blindly (fun _ => Iff.rfl) (ok_blindly _) (refuse_blindly _)) link

/-- R11: the activation check reads the state of the root key record, not its key. -/
theorem activationFlags_masked (s : State) (l : LinkId) : activationFlags s.masked l = activationFlags s l := by
  simp only [activationFlags, masked_root]
  rfl

theorem activate_blindly (link : Byte) : AnswersBlindly (activate link) := by
  refine onLink_blindly (fun l => ite_blindly (fun _ => Iff.rfl) (ite_blindly (fun s => ?_) (fun s => ?_) fun s => ?_)
    (refuse_blindly _)) link
  · rw [activationFlags_masked]
  · simp only [activationFlags_masked]
  · rw [lowestFreeSlot_masked]
    cases lowestFreeSlot s <;> rfl

theorem isolateCommand_blindly (link : Byte) : AnswersBlindly (isolateCommand link) :=
  onLiveLink_blindly (fun _ => ite_blindly (fun _ => Iff.rfl) (ok_blindly _) (ok_blindly _)) link

theorem resume_blindly (link : Byte) : AnswersBlindly (resume link) :=
  onLiveLink_blindly (fun _ => ite_blindly (fun _ => Iff.rfl) (ok_blindly _) (ok_blindly _)) link

theorem deactivate_blindly (link : Byte) : AnswersBlindly (deactivate link) :=
  onLiveLink_blindly (fun _ => ok_blindly _) link

/-- R21: LINK_STATUS shows the state of the root key record, not its key. -/
theorem statusBytes_masked (s : State) (l : LinkId) : statusBytes s.masked l = statusBytes s l := by
  simp only [statusBytes, masked_root]
  rfl

theorem linkStatus_blindly (link clear : Byte) : AnswersBlindly (linkStatus link clear) := by
  refine onLink_blindly (fun l s => ?_) link
  rw [statusBytes_masked]
  split <;> rfl

theorem rootLoad_blindly (link : Byte) (key : List Byte) : AnswersBlindly (rootLoad link key) :=
  onLink_blindly (fun _ => ite_blindly (fun _ => Iff.rfl) (refuse_blindly _)
    (ite_blindly (fun _ => Iff.rfl) (ok_blindly _) (refuse_blindly _))) link

theorem rootErase_blindly (link : Byte) : AnswersBlindly (rootErase link) :=
  onLink_blindly (fun _ => ite_blindly (fun _ => Iff.rfl) (refuse_blindly _) (ok_blindly _)) link

/-- R40: STORE_STATUS shows whether a derivation is in flight, and nothing of it. -/
theorem storeStatus_blindly : AnswersBlindly storeStatus := fun s => by
  simp only [storeStatus, masked_derivation, Option.isSome_map]
  rfl

theorem renewCommand_blindly (link : Byte) : AnswersBlindly (renewCommand link) :=
  onLink_blindly (fun _ => ite_blindly (fun _ => Iff.rfl) (refuse_blindly _)
    (ite_blindly (fun _ => Iff.rfl) (refuse_blindly _)
      (ite_blindly (fun _ => Iff.rfl) (refuse_blindly _) (ok_blindly _)))) link

/-- R109: the reply of a queue command shows the queue after the blocks have come to rest. -/
theorem queueReply_masked (l : LinkId) (s : State) : (queueReply l s.masked).2 = (queueReply l s).2 := by
  rw [queueReply, queueReply, settleBlocks_masked]
  rfl

theorem hold_blindly (link : Byte) : AnswersBlindly (hold link) :=
  onLiveLink_blindly (fun l s => queueReply_masked l (s.modLink l fun k => { k with hold := true })) link

theorem release_blindly (link count : Byte) : AnswersBlindly (release link count) :=
  onLiveLink_blindly (fun l => ite_blindly (fun _ => Iff.rfl) (refuse_blindly _) fun s =>
    queueReply_masked l (s.modLink l fun k => { k with allowance := count.toNat })) link

theorem unhold_blindly (link : Byte) : AnswersBlindly (unhold link) :=
  onLiveLink_blindly
    (fun l s => queueReply_masked l (s.modLink l fun k => { k with hold := false, allowance := 0 })) link

@[simp] theorem freeFrames_masked (ds : List DescNo) (s : State) : freeFrames ds s.masked = (freeFrames ds s).masked :=
  List.foldl_hom State.masked fun s d => freeFrame_masked s d

theorem discard_blindly (link : Byte) (count : W16) : AnswersBlindly (discard link count) := by
  refine onLiveLink_blindly (fun l => ite_blindly (fun _ => Iff.rfl) (refuse_blindly _) fun s => ?_) link
  have hlist : discarded s.masked l count.toNat = discarded s l count.toNat := rfl
  simp only [hlist, freeFrames_masked, masked_queue, setQueue_masked, settleBlocks_masked]
  rfl

end Answers

/-! ### The trunk commands -/

section TrunkAnswers

variable (s : State)

@[simp] theorem abandonReception_masked (l : LinkId) :
    abandonReception l s.masked = (abandonReception l s).masked := by
  simp only [abandonReception, masked_receiver]
  split <;> rfl

@[simp] theorem reconcileCircuit_masked (before : State) (l : LinkId) :
    reconcileCircuit before s.masked l = (reconcileCircuit before s l).masked := by
  simp only [reconcileCircuit, circuitUp_masked, circuitGoesDown, circuitComesUp, abandonReception_masked,
    modRenewal_masked]
  split <;> rfl

@[simp] theorem reconcileCircuits_masked (before : State) :
    reconcileCircuits before.masked s.masked = (reconcileCircuits before s).masked :=
  List.foldl_hom State.masked fun s l => reconcileCircuit_masked s before l

@[simp] theorem switchTo_masked (p : Port) : switchTo p s.masked = (switchTo p s).masked := by
  have hfold : (allFin 64).foldl (fun s l => abandonReception l s) s.masked =
      ((allFin 64).foldl (fun s l => abandonReception l s) s).masked :=
    List.foldl_hom State.masked fun s l => abandonReception_masked s l
  simp only [switchTo, hfold]
  generalize (allFin 64).foldl (fun s l => abandonReception l s) s = t
  rfl

@[simp] theorem selectPort_masked (p : Port) : selectPort p s.masked = (selectPort p s).masked := by
  rw [selectPort, selectPort, masked_trunk]
  by_cases h : p = s.trunk.selected
  · rw [if_pos h, if_pos h]
  · rw [if_neg h, if_neg h, switchTo_masked]

/-- R126: the selection that a protection mode asks for, in a part that has the mode. -/
def followMode (m : ProtectionMode) (t : State) : State :=
  match m with
  | .fixedA => selectPort .a t
  | .fixedB => selectPort .b t
  | .auto =>
    if (t.monitor t.trunk.selected).state ≠ .aligned ∧
        (t.monitor (otherPort t.trunk.selected)).state = .aligned then
      switchTo (otherPort t.trunk.selected) t
    else t

theorem applyMode_eq (m : ProtectionMode) :
    applyMode m s = followMode m { s with trunk := { s.trunk with mode := m } } := by
  cases m <;> rfl

@[simp] theorem followMode_masked (m : ProtectionMode) : followMode m s.masked = (followMode m s).masked := by
  cases m with
  | fixedA => exact selectPort_masked s .a
  | fixedB => exact selectPort_masked s .b
  | auto =>
    rw [followMode, followMode, masked_trunk, masked_monitor, masked_monitor]
    by_cases h : (s.monitor s.trunk.selected).state ≠ .aligned ∧
        (s.monitor (otherPort s.trunk.selected)).state = .aligned
    · rw [if_pos h, if_pos h, switchTo_masked]
    · rw [if_neg h, if_neg h]

@[simp] theorem applyMode_masked (m : ProtectionMode) : applyMode m s.masked = (applyMode m s).masked := by
  rw [applyMode_eq, applyMode_eq, ← followMode_masked]
  rfl

theorem portMode_blindly (mode : Byte) : AnswersBlindly (portMode mode) := fun s => by
  simp only [portMode]
  split
  · rfl
  · simp only [applyMode_masked, reconcileCircuits_masked]
    rfl

theorem mapSet_blindly (first count entry : Byte) : AnswersBlindly (mapSet first count entry) := fun s => by
  unfold mapSet
  split
  · split <;> rfl
  · rfl

theorem mapRead_blindly (selector : Byte) : AnswersBlindly (mapRead selector) := fun s => by
  unfold mapRead
  split <;> rfl

theorem mapCommit_blindly : AnswersBlindly mapCommit := fun _ => rfl

theorem trunkStatus_blindly (clear : Byte) : AnswersBlindly (trunkStatus clear) := fun s => by
  unfold trunkStatus
  split <;> rfl

end TrunkAnswers

/-! ### The fault commands and the commands of the host port -/

theorem faultPolicy_blindly (kind declare clear report : Byte) :
    AnswersBlindly (faultPolicy kind declare clear report) := fun s => by
  unfold faultPolicy
  split
  · rfl
  · split
    · rfl
    · split
      · split <;> rfl
      · rfl

theorem faultList_blindly (selector : Byte) : AnswersBlindly (faultList selector) := fun s => by
  unfold faultList
  split <;> rfl

theorem faultRead_blindly (source kind : Byte) : AnswersBlindly (faultRead source kind) := fun s => by
  unfold faultRead
  split
  · split <;> rfl
  · rfl

theorem faultPurge_blindly : AnswersBlindly faultPurge := fun _ => rfl

theorem setClock_blindly (value : W32) : AnswersBlindly (setClock value) := fun _ => rfl

theorem identify_blindly : AnswersBlindly identify := fun _ => rfl

theorem resetCommand_blindly : AnswersBlindly resetCommand := fun _ => rfl

/-! ### Every command -/

/-- R162, R173: whatever command a record carries, no root key changes its answer. -/
theorem commandEffect_blindly {code : Nat} {fields : List Byte} {effect : State → State × Answer}
    (h : commandEffect code fields = some effect) : AnswersBlindly effect := by
  have hcode : code ∈ assignedCodes := by
    by_contra hno
    rw [commandEffect_unassigned hno] at h
    cases h
  simp only [assignedCodes, List.mem_cons, List.not_mem_nil, or_false] at hcode
  rcases hcode with rfl | rfl | rfl | rfl | rfl | rfl | rfl | rfl | rfl | rfl | rfl | rfl | rfl | rfl |
    rfl | rfl | rfl | rfl | rfl | rfl | rfl | rfl | rfl | rfl | rfl | rfl | rfl
  · obtain _ | ⟨_, _ | ⟨_, _ | ⟨_, _ | ⟨_, _ | ⟨_, _ | ⟨_, _ | ⟨_, _ |
      ⟨_, _ | ⟨_, _ | ⟨_, _ | ⟨_, _ | ⟨_, _ | ⟨_, _ | ⟨_, _ | ⟨_, _⟩⟩⟩⟩⟩⟩⟩⟩⟩⟩⟩⟩⟩⟩⟩ := fields <;> cases h
    exact configure_blindly _ _
  · obtain _ | ⟨_, _ | ⟨_, _⟩⟩ := fields <;> cases h
    exact activate_blindly _
  · obtain _ | ⟨_, _ | ⟨_, _⟩⟩ := fields <;> cases h
    exact isolateCommand_blindly _
  · obtain _ | ⟨_, _ | ⟨_, _⟩⟩ := fields <;> cases h
    exact resume_blindly _
  · obtain _ | ⟨_, _ | ⟨_, _⟩⟩ := fields <;> cases h
    exact deactivate_blindly _
  · obtain _ | ⟨_, _ | ⟨_, _⟩⟩ := fields <;> cases h
    exact unconfigure_blindly _
  · obtain _ | ⟨_, _ | ⟨_, _ | ⟨_, _⟩⟩⟩ := fields <;> cases h
    exact linkStatus_blindly _ _
  · obtain _ | ⟨_, _⟩ := fields <;> cases h
    exact rootLoad_blindly _ _
  · obtain _ | ⟨_, _ | ⟨_, _⟩⟩ := fields <;> cases h
    exact rootErase_blindly _
  · obtain _ | ⟨_, _⟩ := fields <;> cases h
    exact storeStatus_blindly
  · obtain _ | ⟨_, _ | ⟨_, _⟩⟩ := fields <;> cases h
    exact renewCommand_blindly _
  · obtain _ | ⟨_, _ | ⟨_, _⟩⟩ := fields <;> cases h
    exact hold_blindly _
  · obtain _ | ⟨_, _ | ⟨_, _ | ⟨_, _⟩⟩⟩ := fields <;> cases h
    exact release_blindly _ _
  · obtain _ | ⟨_, _ | ⟨_, _⟩⟩ := fields <;> cases h
    exact unhold_blindly _
  · obtain _ | ⟨_, _ | ⟨_, _ | ⟨_, _ | ⟨_, _⟩⟩⟩⟩ := fields <;> cases h
    exact discard_blindly _ _
  · obtain _ | ⟨_, _ | ⟨_, _⟩⟩ := fields <;> cases h
    exact portMode_blindly _
  · obtain _ | ⟨_, _ | ⟨_, _ | ⟨_, _ | ⟨_, _⟩⟩⟩⟩ := fields <;> cases h
    exact mapSet_blindly _ _ _
  · obtain _ | ⟨_, _ | ⟨_, _⟩⟩ := fields <;> cases h
    exact mapRead_blindly _
  · obtain _ | ⟨_, _⟩ := fields <;> cases h
    exact mapCommit_blindly
  · obtain _ | ⟨_, _ | ⟨_, _⟩⟩ := fields <;> cases h
    exact trunkStatus_blindly _
  · obtain _ | ⟨_, _ | ⟨_, _ | ⟨_, _ | ⟨_, _ | ⟨_, _⟩⟩⟩⟩⟩ := fields <;> cases h
    exact faultPolicy_blindly _ _ _ _
  · obtain _ | ⟨_, _ | ⟨_, _⟩⟩ := fields <;> cases h
    exact faultList_blindly _
  · obtain _ | ⟨_, _ | ⟨_, _ | ⟨_, _⟩⟩⟩ := fields <;> cases h
    exact faultRead_blindly _ _
  · obtain _ | ⟨_, _⟩ := fields <;> cases h
    exact faultPurge_blindly
  · obtain _ | ⟨_, _ | ⟨_, _ | ⟨_, _ | ⟨_, _ | ⟨_, _⟩⟩⟩⟩⟩ := fields <;> cases h
    exact setClock_blindly _
  · obtain _ | ⟨_, _⟩ := fields <;> cases h
    exact identify_blindly
  · obtain _ | ⟨_, _⟩ := fields <;> cases h
    exact resetCommand_blindly

/-- R162: the checks of a COMMAND's code and size come before its effect, and read no state. -/
theorem runCommand_blindly (body : List Byte) : AnswersBlindly (runCommand body) := by
  cases body with
  | nil => exact refuse_blindly _
  | cons code fields =>
    intro s
    cases he : commandEffect code.toNat fields with
    | some effect =>
      simp only [runCommand, he]
      exact commandEffect_blindly he s
    | none =>
      simp only [runCommand, he]
      split <;> rfl

end Sys2Proof.Machine

namespace Sys2Proof.Proofs

open Sys2Proof Sys2Proof.Machine

/-- Settles O14: a command answers as it would with the root keys masked, and masked the two states are one. -/
theorem rootKeyCannotBeRead : Obligations.RootKeyCannotBeRead := by
  unfold Obligations.RootKeyCannotBeRead
  intro s t body h
  rw [← runCommand_blindly body s, h.masked_eq, runCommand_blindly body t]

end Sys2Proof.Proofs
end

section
/-! The end of an event: what it never changes, and what it does with the blocks at rest. -/

namespace Sys2Proof.Machine

/-! ### The parts that no start and no send start touches -/

/-- A fault entry but for its report-pending flag. -/
def unreported (e : FaultEntry) : FaultEntry := { e with reportPending := false }

/-- What the end of an event never changes, with no record waiting. -/
def finishView (s : State) :=
  (s.pending, s.keys.roots, s.trunk, s.store.mem,
    (s.faults.policies, s.faults.protectionSwitches, s.faults.hostOverruns, s.faults.tableOverflows,
      s.faults.entries.map unreported),
    (s.host.buffer, s.host.receiver, s.host.clock, s.host.resets, s.host.resetCause, s.host.resetPending,
      s.host.resetInput),
    fun l => ((s.link l).profile, (s.link l).hold))

theorem trunk_of_finishView {s t : State} (h : finishView t = finishView s) : t.trunk = s.trunk :=
  congrArg (fun v => v.2.2.1) h

theorem buffer_of_finishView {s t : State} (h : finishView t = finishView s) : t.host.buffer = s.host.buffer :=
  congrArg (fun v => v.2.2.2.2.2.1.1) h

section

variable (s : State)

@[simp] theorem finishView_modSlot (k : SlotNo) (f : KeySlot → KeySlot) :
    finishView (s.modSlot k f) = finishView s := rfl
@[simp] theorem finishView_raiseInFlight (k : SlotNo) : finishView (raiseInFlight k s) = finishView s := rfl
@[simp] theorem finishView_setRequests (r : List DerivationRequest) :
    finishView (s.setRequests r) = finishView s := rfl
@[simp] theorem finishView_setDerivation (d : Option Derivation) :
    finishView (s.setDerivation d) = finishView s := rfl
@[simp] theorem finishView_leaveWaitList (l : LinkId) : finishView (leaveWaitList l s) = finishView s := rfl
@[simp] theorem finishView_setSealing (r : Option Sealing) : finishView (s.setSealing r) = finishView s := rfl
@[simp] theorem finishView_setSealRequests (r : List LinkId) :
    finishView (s.setSealRequests r) = finishView s := rfl
@[simp] theorem finishView_setOpening (r : Option Opening) : finishView (s.setOpening r) = finishView s := rfl
@[simp] theorem finishView_setOpenList (w : List DescNo) : finishView (s.setOpenList w) = finishView s := rfl
@[simp] theorem finishView_modDesc (d : DescNo) (f : Descriptor → Descriptor) :
    finishView (s.modDesc d f) = finishView s := rfl
@[simp] theorem finishView_freeFrame (d : DescNo) : finishView (s.freeFrame d) = finishView s := rfl
@[simp] theorem finishView_setQueue (l : LinkId) (q : List DescNo) :
    finishView (s.setQueue l q) = finishView s := rfl
@[simp] theorem finishView_modEvents (l : LinkId) (f : LinkEvents → LinkEvents) :
    finishView (s.modEvents l f) = finishView s := rfl
@[simp] theorem finishView_listNotice (n : NoticeItem) : finishView (s.listNotice n) = finishView s := rfl

/-- A change of a link that keeps its profile and its hold flag. -/
theorem finishView_modLink {l : LinkId} {f : Link → Link}
    (hf : (f (s.link l)).profile = (s.link l).profile ∧ (f (s.link l)).hold = (s.link l).hold) :
    finishView (s.modLink l f) = finishView s := by
  have hlink : (fun j => (((s.modLink l f).link j).profile, ((s.modLink l f).link j).hold)) =
      fun j => ((s.link j).profile, (s.link j).hold) := by
    funext j
    rw [State.link_modLink]
    split
    · next e => rw [← e, hf.1, hf.2]
    · rfl
  unfold finishView
  rw [hlink]
  rfl

@[simp] theorem finishView_modRenewal (l : LinkId) (f : Renewal → Renewal) :
    finishView (s.modRenewal l f) = finishView s :=
  finishView_modLink s ⟨rfl, rfl⟩

@[simp] theorem finishView_count (l : LinkId) (c : Counter) : finishView (s.count l c) = finishView s :=
  finishView_modLink s ⟨rfl, rfl⟩

/-- Starts of renewals. -/
theorem finishView_of_frame {ls : List LinkId} {s t : State} (h : RenewalFrame ls s t) :
    finishView t = finishView s := by
  have hlink : (fun j => ((t.link j).profile, (t.link j).hold)) =
      fun j => ((s.link j).profile, (s.link j).hold) :=
    funext fun j => congrArg (fun x => (x.profile, x.hold)) (h.kept j)
  unfold finishView
  rw [hlink, h.rest]

@[simp] theorem finishView_trigger (l : LinkId) : finishView (trigger l s) = finishView s :=
  finishView_of_frame (trigger_frame l s)

@[simp] theorem finishView_handOver : finishView (handOver s) = finishView s :=
  finishView_of_frame (handOver_frame s).1

@[simp] theorem finishView_releaseSlots (ks : List SlotNo) :
    finishView (releaseSlots ks s) = finishView s := by
  simp [finishView, releaseSlots_eq_released]

@[simp] theorem finishView_grant : finishView (grant s) = finishView s := by
  obtain ⟨engine, h⟩ := grant_rest s
  rw [h]
  rfl

@[simp] theorem finishView_setEventPending (l : LinkId) :
    finishView (s.setEventPending l) = finishView s := by
  rcases setEventPending_cases l s with ⟨_, e⟩ | ⟨_, e⟩ <;> rw [e]
  exact finishView_modLink s ⟨rfl, rfl⟩

@[simp] theorem finishView_isolate (l : LinkId) : finishView (isolate l s) = finishView s := by
  simp only [isolate, abortRenewal, finishView_handOver, finishView_releaseSlots, finishView_leaveWaitList]
  rw [finishView_modLink _ ⟨rfl, rfl⟩, finishView_modLink s ⟨rfl, rfl⟩]

@[simp] theorem finishView_autoIsolate (l : LinkId) : finishView (autoIsolate l s) = finishView s := by
  unfold autoIsolate
  split
  · rw [finishView_setEventPending, finishView_isolate]
  · rfl

@[simp] theorem finishView_failRenewal (l : LinkId) : finishView (failRenewal l s) = finishView s := by
  have hlane : finishView (s.modLink l fun x => { x with next := none, lane := none }) = finishView s :=
    finishView_modLink s ⟨rfl, rfl⟩
  unfold failRenewal
  dsimp only
  split <;> simp [hlane]

@[simp] theorem finishView_cutover (l : LinkId) : finishView (cutover l s) = finishView s := by
  have hroles : finishView (s.modLink l cutoverLink) = finishView s := finishView_modLink s ⟨rfl, rfl⟩
  have e : cutover l s =
      (handOver (releaseSlots (s.link l).previous.toList (s.modLink l cutoverLink))).setEventPending l := rfl
  simp [e, hroles]

@[simp] theorem finishView_chargeSlot (k : SlotNo) (l : LinkId) (n : Nat) :
    finishView (chargeSlot k l n s) = finishView s := by
  obtain ⟨f, _, e | e⟩ := chargeSlot_frame k l n s <;> simp [e]

/-! ### The starts of the blocks -/

@[simp] theorem finishView_admitSealing (l : LinkId) (kind : FrameKind) (k : SlotNo) (seq p : Nat)
    (desc : Option DescNo) (payload : List Byte) :
    finishView (admitSealing l kind k seq p desc payload s) = finishView s := by
  cases desc with
  | some d => simp [admitSealing]
  | none =>
    have hcontrol : ∀ (t : State) (c h : List Byte),
        finishView { t with sealer := { t.sealer with control := c, controlHeader := h } } = finishView t :=
      fun _ _ _ => rfl
    simp [admitSealing, hcontrol]

theorem finishView_startTraffic (l : LinkId) : finishView (startTraffic l s) = finishView s := by
  unfold startTraffic
  split
  · split
    · split
      · rw [finishView_admitSealing, finishView_modLink, finishView_setQueue]
        unfold spendAllowance
        split <;> exact ⟨rfl, rfl⟩
      · rw [finishView_trigger, finishView_modLink s ⟨rfl, rfl⟩]
    · rfl
  · rfl

theorem finishView_startControl (l : LinkId) (m : LaneMsg) : finishView (startControl l m s) = finishView s := by
  cases m with
  | offer e nh attempt =>
    simp only [startControl]
    split
    · split <;> simp
    · rfl
  | cutover e nh ns =>
    simp only [startControl]
    split
    · split <;> simp
    · simp

theorem finishView_startSealing : finishView (startSealing s) = finishView s := by
  unfold startSealing
  split
  · dsimp only
    split
    · rw [finishView_startControl, finishView_modLink _ ⟨rfl, rfl⟩, finishView_setSealRequests]
    · rw [finishView_startTraffic, finishView_setSealRequests]
  · rfl

theorem finishView_rejectFrame (d : DescNo) (l : LinkId) (c : Counter) :
    finishView (rejectFrame d l c s) = finishView s := by
  unfold rejectFrame countEpochEvent
  split <;> simp

theorem finishView_startOpening : finishView (startOpening s) = finishView s := by
  unfold startOpening
  split
  · dsimp only
    split
    · split
      · simp [chargeOpening]
      · rw [finishView_rejectFrame, finishView_setOpenList]
    · rfl
  · rfl

theorem finishView_beginDerivation : finishView (beginDerivation s) = finishView s := by
  unfold beginDerivation
  split
  · simp
  · rfl

/-! ### The send start of a record -/

theorem finishView_clearPending (n : NoticeItem) : finishView (clearPending n s) = finishView s := by
  cases n with
  | ready => rfl
  | link l => exact finishView_modLink s ⟨rfl, rfl⟩
  | fault source kind =>
    have hentry : unreported ∘ (fun e => if isEntryOf source kind e then { e with reportPending := false } else e) =
        unreported := by
      funext e
      simp only [Function.comp]
      split <;> rfl
    simp [finishView, clearPending, hentry, State.link]

theorem finishView_sendReply (r : Reply) (rest : List Reply) : finishView (sendReply r rest s) = finishView s := rfl

theorem finishView_sendNotice (n : NoticeItem) (rest : List NoticeItem) :
    finishView (sendNotice n rest s) = finishView s :=
  finishView_clearPending s n

theorem finishView_sendTraffic (d : DescNo) (rest : List DescNo) :
    finishView (sendTraffic d rest s) = finishView s := rfl

theorem finishView_startSending : finishView (startSending s) = finishView s := by
  unfold startSending
  split
  · exact finishView_sendReply s _ _
  · exact finishView_sendNotice s _ _
  · exact finishView_sendTraffic s _ _
  · split
    · exact finishView_sendNotice s _ _
    · exact finishView_sendTraffic s _ _
  · rfl

end

/-- What the blocks take up by themselves keeps the parts that the end of an event never changes. -/
theorem finishView_blocks (s : State) : BlocksKeep fun t => finishView t = finishView s where
  requests _ _ h := h
  draw _ _ h := h
  sealing t _ _ h := (finishView_startSealing t).trans h
  opening t _ h := (finishView_startOpening t).trans h
  derivation t _ h := (finishView_beginDerivation t).trans h

/-- With no record waiting, so does what the host port takes up by itself. -/
theorem finishView_port {s : State} (hbuffer : s.host.buffer = []) :
    PortKeeps fun t => finishView t = finishView s where
  toBlocksKeep := finishView_blocks s
  take t ht h := by
    have hempty : t.host.buffer = [] := (buffer_of_finishView h).trans hbuffer
    rw [takeReady, hempty] at ht
    cases ht
  send t _ h := (finishView_startSending t).trans h

theorem finishView_finish {s : State} (hbuffer : s.host.buffer = []) : finishView (finish s) = finishView s :=
  settle_keeps (finishView_port hbuffer) s rfl

/-! ### The blocks at rest -/

theorem refreshRequests_eq_self {s : State} (h : (refreshRequests s).sealer.requests = s.sealer.requests) :
    refreshRequests s = s := by
  have e : refreshRequests s =
      { s with sealer := { s.sealer with requests := (refreshRequests s).sealer.requests } } := rfl
  rw [e, h]

/-- Where no start can be taken, the request list follows its conditions and nothing else happens. -/
theorem settleBlocks_of_nextStart_none {s : State} (h : nextStart (refreshRequests s) = none) :
    settleBlocks s = refreshRequests s := by
  change settleBlocksFor (1023 + 1) s = _
  rw [settleBlocksFor, h]

theorem settleBlocks_of_blocksAtRest {s : State} (h : blocksAtRest s = true) : settleBlocks s = s := by
  rw [blocksAtRest, Bool.and_eq_true, Option.isNone_iff_eq_none, decide_eq_true_eq] at h
  obtain ⟨hnext, hlist⟩ := h
  have hself := refreshRequests_eq_self hlist
  rw [settleBlocks_of_nextStart_none (by rw [hself, hnext]), hself]

theorem takeReady_of_buffer_nil {s : State} (h : s.host.buffer = []) : takeReady s = false := by
  rw [takeReady, h]
  rfl

/-- R164: a send start leaves the inbound record buffer, and where something waits it takes the line. -/
theorem startSending_line {s : State} (h : attentionOutput s = true) : (startSending s).host.line.isSome = true := by
  have hnotice : ∀ n rest, (sendNotice n rest s).host.line.isSome = true := fun _ _ => rfl
  unfold startSending
  split
  · rfl
  · exact hnotice _ _
  · rfl
  · split
    · exact hnotice _ _
    · rfl
  · next hreplies hnotices hdelivery => simp [attentionOutput, hreplies, hnotices, hdelivery] at h

theorem startSending_buffer (s : State) : (startSending s).host.buffer = s.host.buffer :=
  buffer_of_finishView (finishView_startSending s)

theorem canSend_of_line {s : State} (h : s.host.line.isSome = true) : canSend s = false := by
  rw [canSend, Option.isNone_eq_false_iff.2 h]
  rfl

/-- With no record waiting, one turn of the host port starts a record or ends its turns. -/
theorem settleHostFor_succ {s : State} (hbuffer : s.host.buffer = []) (n : Nat) :
    settleHostFor (n + 1) s = if canSend s then settleHostFor n (startSending s) else s := by
  rw [settleHostFor, takeReady_of_buffer_nil hbuffer]
  rfl

/-- With no record waiting, the host port starts one record where it can, and no second beside it. -/
theorem settleHostFor_of_buffer_nil {s : State} (hbuffer : s.host.buffer = []) (n : Nat) :
    settleHostFor (n + 2) s = if canSend s then startSending s else s := by
  rw [settleHostFor_succ hbuffer]
  split
  · next hsend =>
    simp only [canSend, Bool.and_eq_true] at hsend
    have hbusy := canSend_of_line (startSending_line hsend.1.2)
    rw [settleHostFor_succ ((startSending_buffer s).trans hbuffer), hbusy]
    rfl
  · rfl

theorem finish_of_buffer_nil {s : State} (hbuffer : (settleBlocks s).host.buffer = []) :
    finish s = showAttention (if canSend (settleBlocks s) then startSending (settleBlocks s) else settleBlocks s) :=
  congrArg showAttention (settleHostFor_of_buffer_nil hbuffer 14)

end Sys2Proof.Machine

namespace Sys2Proof.Proofs

open Sys2Proof Sys2Proof.Machine

/-- Settles O15: every start and send start keeps the parts named, and so does the end of an event. -/
theorem finishKeeps : Obligations.FinishKeeps := by
  unfold Obligations.FinishKeeps
  intro s hbuffer
  have hview := finishView_finish hbuffer
  simp only [finishView, Prod.mk.injEq] at hview
  obtain ⟨hpending, hroots, htrunk, hmem, ⟨hpolicies, hswitches, hoverruns, hoverflows, hentries⟩,
    ⟨hempty, hreceiver, hclock, hresets, hcause, hresetPending, hinput⟩, hlinks⟩ := hview
  exact ⟨hpending, hroots, htrunk, hmem, hpolicies, hswitches, hoverruns, hoverflows, hentries,
    hempty.trans hbuffer, hreceiver, hclock, hresets, hcause, hresetPending, hinput,
    fun l => Prod.mk.inj (congrFun hlinks l)⟩

/-- Settles O16: at rest the blocks take nothing up, and the host port starts at most one record. -/
theorem finishAtRest : Obligations.FinishAtRest := by
  unfold Obligations.FinishAtRest
  intro s hbuffer hrest
  have hblocks := settleBlocks_of_blocksAtRest hrest
  have hfinish := finish_of_buffer_nil (s := s) (by rw [hblocks, hbuffer])
  rw [hblocks] at hfinish
  refine ⟨fun hsend => ?_, fun hsend => ?_⟩
  · rw [hfinish, hsend]
    rfl
  · rw [hfinish, hsend]
    rfl

end Sys2Proof.Proofs
end

section
/-! Charges and admissions: what a charge does to its slot, and what an admission leaves. -/

namespace Sys2Proof.Machine

/-! ### Triggers as R77 to R81 list their effects -/

/-- A trigger does what R77 and R79 to R81 say. -/
theorem triggerActs_trigger (l : LinkId) (s : State) : TriggerActs l s (trigger l s) := by
  refine ⟨fun hacts => ?_, fun hnot => ?_⟩
  · obtain ⟨hactive, hquiet, hpending, c, hc, he⟩ := hacts
    have hact := (mayAct_iff _).2 ⟨hactive, hquiet, hpending⟩
    refine ⟨fun n hn hlow => trigger_starts hact hc he (lowestFreeSlot_eq_of_lowest hn hlow), fun hfree => ?_⟩
    have hwait : actOnTrigger l s = (s.modRenewal l fun r => { r with pendingTrigger := true }).setWaitList
        (s.keys.waitList ++ [l]) := by
      simp only [actOnTrigger, hc, he, if_false, lowestFreeSlot_eq_none.2 hfree]
    rw [trigger, if_pos hact, hwait]
    rfl
  · refine (trigger_acts l s).resolve_right fun ⟨c, hact, hc, he, _⟩ => hnot ?_
    obtain ⟨hactive, hquiet, hpending⟩ := (mayAct_iff _).1 hact
    exact ⟨hactive, hquiet, hpending, c, hc, he⟩

/-! ### Charges (R49, R63) -/

/-- The charge of `n` blocks brings a slot from below a soft threshold to it or above. -/
def reachesSoft (soft n : Nat) (x : KeySlot) : Bool := decide (x.used < soft) && decide (soft ≤ x.used + n)

/-- A slot charged `n` blocks, the soft threshold marked where the charge first reaches it. -/
def chargedSlot (soft n : Nat) (x : KeySlot) : KeySlot :=
  { x with used := x.used + n, softCrossed := x.softCrossed || reachesSoft soft n x }

/-- A charge marks its slot, and where it first reaches S raises a trigger for the link. -/
theorem chargeSlot_eq (k : SlotNo) (l : LinkId) (n : Nat) (s : State) :
    chargeSlot k l n s =
      if reachesSoft (softLimitOf (hardLimit s l)) n (s.slot k) = true ∧ (s.slot k).softCrossed = false then
        trigger l (s.modSlot k (chargedSlot (softLimitOf (hardLimit s l)) n))
      else s.modSlot k (chargedSlot (softLimitOf (hardLimit s l)) n) := by
  have hslot : ∀ f g : KeySlot → KeySlot, f (s.slot k) = g (s.slot k) → s.modSlot k f = s.modSlot k g :=
    fun f g e => by rw [State.modSlot, State.modSlot, e]
  unfold chargeSlot
  dsimp only
  split
  · next h =>
    obtain ⟨hreach, hbelow, hnot⟩ := h
    have hreaches : reachesSoft (softLimitOf (hardLimit s l)) n (s.slot k) = true := by
      simp [reachesSoft, hreach, hbelow]
    rw [if_pos ⟨hreaches, by simpa using hnot⟩]
    refine congrArg (trigger l) (hslot _ _ ?_)
    simp [chargedSlot, hreaches]
  · next h =>
    have hnot : ¬(reachesSoft (softLimitOf (hardLimit s l)) n (s.slot k) = true ∧
        (s.slot k).softCrossed = false) := fun ⟨hreaches, hclear⟩ => by
      simp only [reachesSoft, Bool.and_eq_true, decide_eq_true_eq] at hreaches
      exact h ⟨hreaches.2, hreaches.1, by simp [hclear]⟩
    rw [if_neg hnot]
    refine hslot _ _ ?_
    cases hr : reachesSoft (softLimitOf (hardLimit s l)) n (s.slot k) <;>
      simp_all [chargedSlot]

/-- What a charge that follows a change of its slot does to the slot and to the rest (R49, R63). -/
theorem chargeSlot_acts (k : SlotNo) (l : LinkId) (n : Nat) (s : State) :
    let charged := s.modSlot k (chargedSlot (softLimitOf (hardLimit s l)) n)
    let crosses := reachesSoft (softLimitOf (hardLimit s l)) n (s.slot k) = true ∧ (s.slot k).softCrossed = false
    (crosses → TriggerActs l charged (chargeSlot k l n s)) ∧ (¬crosses → chargeSlot k l n s = charged) ∧
      RenewalFrame [l] charged (chargeSlot k l n s) := by
  intro charged crosses
  rw [chargeSlot_eq]
  refine ⟨fun h => ?_, fun h => if_neg h, ?_⟩
  · rw [if_pos h]
    exact triggerActs_trigger _ _
  · split
    · exact trigger_frame _ _
    · exact .refl _ _

/-! ### Admissions (R48 to R50) -/

/-- The header of a frame in sealing (R51). -/
def Sealing.header (r : Sealing) : List Byte := headerBytes r.kind r.epoch r.seq r.length

/-- The descriptor of a TRAFFIC frame that goes into sealing (R50). -/
def Sealing.onDescriptor (r : Sealing) (x : Descriptor) : Descriptor :=
  { x with epoch := some r.epoch, seq := some r.seq, header := some r.header }

/-- The descriptors with that of a TRAFFIC frame in sealing filled; a control frame holds none. -/
def Sealing.onDescs (r : Sealing) (descs : Vector (Option Descriptor) 512) : Vector (Option Descriptor) 512 :=
  match r.desc with
  | some d => tput descs d ((tget descs d).map r.onDescriptor)
  | none => descs

/-- The sealer with a frame admitted; a control frame's payload and header go into and beside the control
buffer. -/
def Sealing.onSealer (r : Sealing) (payload : List Byte) (x : Sealer) : Sealer :=
  match r.desc with
  | some _ => { x with current := some r }
  | none => { x with
      current := some r, control := payload ++ x.control.drop payload.length, controlHeader := r.header }

/-- A state with a sealing record filled and its frame's fields written (R50). -/
def Sealing.filled (r : Sealing) (payload : List Byte) (s : State) : State :=
  { s with store := { s.store with descs := r.onDescs s.store.descs }, sealer := r.onSealer payload s.sealer }

/-- An admission: the slot reserved, charged and in use, the sealing record filled, and the unit granted. -/
theorem admitSealing_eq (l : LinkId) (kind : FrameKind) (k : SlotNo) (seq p : Nat) (desc : Option DescNo)
    (payload : List Byte) (s : State) :
    admitSealing l kind k seq p desc payload s =
      grant ((Sealing.filled ⟨l, kind, k, (s.slot k).epoch, seq, p, desc, cost p, 0, false⟩ payload
        (raiseInFlight k (chargeSlot k l (cost p) (s.modSlot k fun x => { x with next := seqAfter seq }))))) := by
  cases desc <;> rfl

theorem Sealing.onDescs_self {r : Sealing} {d : DescNo} {x : Descriptor} {descs : Vector (Option Descriptor) 512}
    (hd : r.desc = some d) (hx : tget descs d = some x) : tget (r.onDescs descs) d = some (r.onDescriptor x) := by
  simp only [onDescs, hd, tget_tput_self, hx, Option.map_some]

theorem Sealing.onDescs_of_ne {r : Sealing} {d : DescNo} (hd : r.desc ≠ some d)
    (descs : Vector (Option Descriptor) 512) : tget (r.onDescs descs) d = tget descs d := by
  unfold onDescs
  split
  · next i hi => exact tget_tput_of_ne _ _ fun e => hd (hi.trans (congrArg some e))
  · rfl

theorem Sealing.onSealer_current (r : Sealing) (payload : List Byte) (x : Sealer) :
    (r.onSealer payload x).current = some r := by
  unfold onSealer
  split <;> rfl

theorem Sealing.onSealer_rest (r : Sealing) (payload : List Byte) (x : Sealer) :
    (r.onSealer payload x).requests = x.requests ∧ (r.onSealer payload x).controlTag = x.controlTag := by
  unfold onSealer
  split <;> exact ⟨rfl, rfl⟩

theorem Sealing.onSealer_control {r : Sealing} (h : r.desc = none) (payload : List Byte) (x : Sealer) :
    (r.onSealer payload x).control = payload ++ x.control.drop payload.length ∧
      (r.onSealer payload x).controlHeader = r.header := by
  simp only [onSealer, h, and_self]

theorem Sealing.onSealer_traffic {r : Sealing} (h : r.desc ≠ none) (payload : List Byte) (x : Sealer) :
    (r.onSealer payload x).control = x.control ∧ (r.onSealer payload x).controlHeader = x.controlHeader := by
  obtain ⟨d, hd⟩ := Option.ne_none_iff_exists'.1 h
  simp only [onSealer, hd, and_self]

theorem raiseInFlight_slot_self (k : SlotNo) (s : State) :
    (raiseInFlight k s).slot k = { s.slot k with inFlight := (s.slot k).inFlight + 1 } :=
  State.slot_modSlot_self _ _ _

theorem raiseInFlight_slot_of_ne {k i : SlotNo} (h : i ≠ k) (s : State) : (raiseInFlight k s).slot i = s.slot i :=
  State.slot_modSlot_of_ne _ _ h.symm

/-- R38: a frame just admitted has block operations left. -/
theorem waiting_filled {r : Sealing} (hleft : 0 < r.left) (payload : List Byte) (s : State) :
    waiting (r.filled payload s) .sealer = true := by
  have hr : (r.filled payload s).sealer.current = some r := r.onSealer_current payload s.sealer
  simp [waiting, hr, hleft]

/-- R39: a grant gives an idle unit to a requester where one waits, and leaves a busy unit. -/
theorem grant_engine {s : State} {r : Requester} (hr : waiting s r = true) : ∃ engine,
    grant s = { s with engine := engine } ∧ (s.engine.unit = none → ∃ q, engine = ⟨some q, q⟩) ∧
      (s.engine.unit ≠ none → engine = s.engine) := by
  cases hu : s.engine.unit with
  | none =>
    obtain ⟨q, _, _, e⟩ := grant_eq_of_waiting hu hr
    exact ⟨_, e, fun _ => ⟨q, rfl⟩, fun h => absurd rfl h⟩
  | some q => exact ⟨s.engine, by simp only [grant, hu], nofun, fun _ => rfl⟩

end Sys2Proof.Machine

namespace Sys2Proof.Proofs

open Sys2Proof Sys2Proof.Machine

/-- Settles O47: the slot reserved and charged, its trigger, and what the grant leaves of the rest. -/
theorem admissionChargesTheSlot : Obligations.AdmissionChargesTheSlot := by
  unfold Obligations.AdmissionChargesTheSlot
  intro s l kind k seq p desc payload hk t soft used reaches charged
  have hcharged : (s.modSlot k fun x => { x with next := seqAfter seq }).modSlot k
      (chargedSlot (softLimitOf (hardLimit s l)) (cost p)) =
        { s with keys := { s.keys with slots := tput s.keys.slots k charged } } :=
    State.modSlot_modSlot s k _ _
  obtain ⟨htrigger, hnone, hframe⟩ :=
    chargeSlot_acts k l (cost p) (s.modSlot k fun x => { x with next := seqAfter seq })
  have hlimit : hardLimit (s.modSlot k fun x => { x with next := seqAfter seq }) l = hardLimit s l := rfl
  rw [hlimit, hcharged, State.slot_modSlot_self] at htrigger hnone
  rw [hlimit, hcharged] at hframe
  have ht : t = _ := admitSealing_eq l kind k seq p desc payload s
  generalize chargeSlot k l (cost p) (s.modSlot k fun x => { x with next := seqAfter seq }) = u
    at htrigger hnone hframe ht
  set r : Sealing := ⟨l, kind, k, (s.slot k).epoch, seq, p, desc, cost p, 0, false⟩
  have hslot : u.slot k = charged := by
    refine (hframe.slot_of_ne_free ?_).trans (tget_tput_self _ _ _)
    rw [State.slot, tget_tput_self]
    exact hk
  have hstore : u.store = s.store := by rw [hframe.rest]
  have hsealer : u.sealer = s.sealer := by rw [hframe.rest]
  have hdesc : ∀ d, tget u.store.descs d = s.desc d := fun d => by rw [hstore, State.desc]
  obtain ⟨engine, hgrant, hidle, hbusy⟩ := grant_engine
    (waiting_filled (r := r) (Nat.succ_pos _) payload (raiseInFlight k u))
  have hengine : (r.filled payload (raiseInFlight k u)).engine = s.engine :=
    (congrArg State.engine hframe.rest).trans rfl
  rw [hengine] at hidle hbusy
  clear_value t
  subst ht
  rw [hgrant]
  refine ⟨?_, ⟨u, htrigger, hnone, rfl, rfl, rfl, rfl, rfl, rfl, fun j hj => raiseInFlight_slot_of_ne hj u⟩,
    r.onSealer_current payload u.sealer, fun d x hd hx => ?_, fun d hd => ?_, fun hd => ?_, fun hd => ?_, ?_, ?_,
    hidle, hbusy, ?_, ?_, ?_, ?_, ?_, ?_, ?_⟩
  · exact (raiseInFlight_slot_self k u).trans (by rw [hslot])
  · exact Sealing.onDescs_self (r := r) hd ((hdesc d).trans hx)
  · exact (Sealing.onDescs_of_ne (r := r) hd u.store.descs).trans (hdesc d)
  · rw [← hsealer]
    exact Sealing.onSealer_control (r := r) hd payload u.sealer
  · rw [← hsealer]
    exact Sealing.onSealer_traffic (r := r) hd payload u.sealer
  · exact (r.onSealer_rest payload u.sealer).1.trans (congrArg Sealer.requests hsealer)
  · exact (r.onSealer_rest payload u.sealer).2.trans (congrArg Sealer.controlTag hsealer)
  · exact (congrArg FrameStore.queues hstore :)
  · exact (congrArg FrameStore.delivery hstore :)
  · exact (congrArg State.opener hframe.rest :)
  · exact (congrArg FrameStore.mem hstore :)
  · exact (congrArg State.trunk hframe.rest :)
  · exact (congrArg State.host hframe.rest :)
  · exact (congrArg State.faults hframe.rest :)

end Sys2Proof.Proofs
end

section
/-! The request list as it follows its conditions, and the sealing start. -/

namespace Sys2Proof.Machine

/-! ### The request list (R43) -/

/-- R43: the refreshed request list follows the conditions of its state. -/
theorem listFollows_refreshRequests (s : State) : ListFollows s (refreshRequests s).sealer.requests := by
  have hstay : ∀ l, l ∈ s.sealer.requests.filter (sealEligible s) ↔ l ∈ s.sealer.requests ∧ MaySeal s l :=
    fun l => by rw [List.mem_filter, sealEligible_iff]
  refine ⟨s.sealer.requests.filter (sealEligible s),
    (allFin 64).filter fun l => !(s.sealer.requests.filter (sealEligible s)).contains l && sealEligible s l,
    rfl, List.filter_sublist, hstay, (List.pairwise_lt_finRange 64).filter _, fun l => ?_⟩
  rw [List.mem_filter, Bool.and_eq_true, Bool.not_eq_true', List.contains_eq_mem, decide_eq_false_iff_not, hstay,
    sealEligible_iff]
  exact ⟨fun ⟨_, hnot, hmay⟩ => ⟨fun hm => hnot ⟨hm, hmay⟩, hmay⟩,
    fun ⟨hnot, hmay⟩ => ⟨mem_allFin l, fun h => hnot h.1, hmay⟩⟩

/-- A sequence of states with one put before it. -/
def precededBy (s : State) (f : Nat → State) : Nat → State
  | 0 => s
  | i + 1 => f i

/-- The starts that the blocks take, one after another, up to the end of their coming to rest. -/
theorem settleBlocksFor_starts (bound : Nat) : ∀ s : State, ∃ (n : Nat) (f : Nat → State), n ≤ bound ∧ f 0 = s ∧
    (∀ i, i < n → ∃ start, nextStart (refreshRequests (f i)) = some start ∧
      f (i + 1) = takeStart start (drawStart (refreshRequests (f i)))) ∧
    settleBlocksFor bound s = refreshRequests (f n) ∧
    (n < bound → nextStart (refreshRequests (f n)) = none) := by
  induction bound with
  | zero => exact fun s => ⟨0, fun _ => s, le_rfl, rfl, nofun, rfl, nofun⟩
  | succ bound ih =>
    intro s
    cases hstart : nextStart (refreshRequests s) with
    | none =>
      exact ⟨0, fun _ => s, Nat.zero_le _, rfl, nofun, by rw [settleBlocksFor, hstart], fun _ => hstart⟩
    | some start =>
      obtain ⟨n, f, hn, hzero, hsteps, hlast, hrest⟩ := ih (takeStart start (drawStart (refreshRequests s)))
      refine ⟨n + 1, precededBy s f, Nat.succ_le_succ hn, rfl, fun i hi => ?_, ?_,
        fun h => hrest (Nat.lt_of_succ_lt_succ h)⟩
      · cases i with
        | zero => exact ⟨start, hstart, hzero⟩
        | succ i => exact hsteps i (Nat.lt_of_succ_lt_succ hi)
      · rw [settleBlocksFor, hstart]
        exact hlast

theorem sealerReady_eq_false {s : State} (h : s.sealer.current ≠ none ∨ s.sealer.requests = []) :
    sealerReady s = false := by
  rcases h with h | h <;> simp [sealerReady, h]

theorem openerReady_eq_false {s : State} (h : s.opener.current ≠ none ∨ s.opener.waiting = []) :
    openerReady s = false := by
  rcases h with h | h <;> simp [openerReady, h]

theorem deriverReady_eq_false {s : State} (h : s.keys.derivation ≠ none ∨ s.keys.requests = []) :
    deriverReady s = false := by
  rcases h with h | h <;> simp [deriverReady, h]

theorem nextStart_eq_none {s : State} (hsealer : sealerReady s = false) (hopener : openerReady s = false)
    (hderiver : deriverReady s = false) : nextStart s = none := by
  simp [nextStart, hsealer, hopener, hderiver]

/-- With each block busy or with nothing to take, no start can be taken. -/
theorem nextStart_refreshed_eq_none {s : State} (hsealer : s.sealer.current ≠ none ∨ ∀ l, ¬MaySeal s l)
    (hopener : s.opener.current ≠ none ∨ s.opener.waiting = [])
    (hderiver : s.keys.derivation ≠ none ∨ s.keys.requests = []) : nextStart (refreshRequests s) = none := by
  have hlist : (∀ l, ¬MaySeal s l) → (refreshRequests s).sealer.requests = [] := fun h =>
    List.eq_nil_iff_forall_not_mem.2 fun l hl => h l ((sealEligible_iff s l).1 (refreshRequests_eligible s l hl))
  exact nextStart_eq_none (sealerReady_eq_false (hsealer.imp id hlist)) (openerReady_eq_false hopener)
    (deriverReady_eq_false hderiver)

/-- With no record waiting and no start to take, the end of an event leaves the refreshed request list. -/
theorem finish_requests {s : State} (hbuffer : s.host.buffer = []) (h : nextStart (refreshRequests s) = none) :
    (finish s).sealer.requests = (refreshRequests s).sealer.requests := by
  have hblocks := settleBlocks_of_nextStart_none h
  rw [finish_of_buffer_nil (by rw [hblocks]; exact hbuffer), hblocks]
  change (if canSend (refreshRequests s) = true then startSending (refreshRequests s)
    else refreshRequests s).sealer.requests = _
  split
  · rw [(startSending_keeps (refreshRequests s)).1]
  · rfl

/-! ### The sealing start (R44) -/

section SealingStart

variable {s : State} {l : LinkId} {rest : List LinkId}

theorem refreshRequests_of_list {list : List LinkId} (hlist : (refreshRequests s).sealer.requests = list) :
    refreshRequests s = s.setSealRequests list := by
  rw [← hlist]
  rfl

theorem exec_sealingStart (hcurrent : s.sealer.current = none)
    (hlist : (refreshRequests s).sealer.requests = l :: rest) :
    exec .sealingStart s = .next (finish (startSealing (s.setSealRequests (l :: rest)))) := by
  have hready : sealerReady (s.setSealRequests (l :: rest)) = true := by simp [sealerReady, hcurrent]
  change execSealingStart s = _
  rw [execSealingStart, refreshRequests_of_list hlist, if_pos hready]

/-- R44: the lane message of the head link goes first. -/
theorem exec_sealingStart_lane (hcurrent : s.sealer.current = none)
    (hlist : (refreshRequests s).sealer.requests = l :: rest) {m : LaneMsg} (hm : (s.link l).lane = some m) :
    exec .sealingStart s = .next (finish (startControl l m
      ((s.setSealRequests rest).modLink l fun x => { x with lane := none }))) := by
  rw [exec_sealingStart hcurrent hlist, startSealing, State.setSealRequests_sealer_current, hcurrent]
  simp only [State.setSealRequests_sealer_requests]
  have hlink : (((s.setSealRequests (l :: rest)).setSealRequests rest).link l).lane = some m := hm
  rw [hlink]
  rfl

/-- R44: with an empty lane, the head frame of the head link. -/
theorem exec_sealingStart_head (hcurrent : s.sealer.current = none)
    (hlist : (refreshRequests s).sealer.requests = l :: rest) (hm : (s.link l).lane = none) :
    exec .sealingStart s = .next (finish (startTraffic l (s.setSealRequests rest))) := by
  rw [exec_sealingStart hcurrent hlist, startSealing, State.setSealRequests_sealer_current, hcurrent]
  simp only [State.setSealRequests_sealer_requests]
  have hlink : (((s.setSealRequests (l :: rest)).setSealRequests rest).link l).lane = none := hm
  rw [hlink]
  rfl

end SealingStart

/-! ### Traffic frames (R46) -/

section Traffic

variable {s : State} {l : LinkId} {k : SlotNo} {d : DescNo} {ds : List DescNo} {x : Descriptor}

theorem trafficAdmission_eq_some {p n : Nat} (hnext : (s.slot k).next = .number n)
    (hcost : (s.slot k).used + cost p ≤ hardLimit s l) (hseq : n ≤ 0xFFFFFF00) :
    trafficAdmission s l k p = some n := by
  rw [trafficAdmission, hnext]
  exact if_pos ⟨hcost, hseq⟩

theorem trafficAdmission_eq_none {p n : Nat} (hnext : (s.slot k).next = .number n)
    (h : hardLimit s l < (s.slot k).used + cost p ∨ 0xFFFFFF00 < n) : trafficAdmission s l k p = none := by
  rw [trafficAdmission, hnext]
  refine if_neg fun ⟨hcost, hseq⟩ => ?_
  rw [lastTrafficSeq] at hseq
  omega

theorem trafficAdmission_of_exhausted {p : Nat} (hnext : (s.slot k).next = .exhausted) :
    trafficAdmission s l k p = none := by
  rw [trafficAdmission, hnext]

theorem startTraffic_admits (hk : (s.link l).current = some k) (hq : s.queue l = d :: ds) (hx : s.desc d = some x)
    {n : Nat} (hn : trafficAdmission s l k x.length = some n) :
    startTraffic l s =
      admitSealing l .traffic k n x.length (some d) [] ((s.setQueue l ds).modLink l spendAllowance) := by
  simp only [startTraffic, hk, hq, hx, hn]

theorem startTraffic_holds (hk : (s.link l).current = some k) (hq : s.queue l = d :: ds) (hx : s.desc d = some x)
    (hn : trafficAdmission s l k x.length = none) :
    startTraffic l s = trigger l (s.modLink l fun x => { x with budgetHeld := true }) := by
  simp only [startTraffic, hk, hq, hx, hn]

theorem spendAllowance_eq (y : Link) :
    spendAllowance y = { y with allowance := if y.hold then y.allowance - 1 else y.allowance } := by
  unfold spendAllowance
  split <;> rfl

end Traffic

/-! ### Control frames (R45, R47) and refused OFFERs (R85) -/

section Control

variable {s : State} {l : LinkId} {k : SlotNo}

theorem controlAdmission_eq_some {p n : Nat} (hnext : (s.slot k).next = .number n)
    (hcost : (s.slot k).used + cost p ≤ hardLimit s l + 1024) (hseq : n ≤ 0xFFFFFFFF) :
    controlAdmission s l k p = some n := by
  rw [controlAdmission, hnext]
  exact if_pos ⟨hcost, hseq⟩

theorem controlAdmission_eq_none {p : Nat}
    (h : (s.slot k).next = .exhausted ∨ hardLimit s l + 1024 < (s.slot k).used + cost p) :
    controlAdmission s l k p = none := by
  unfold controlAdmission
  rcases h with h | h
  · rw [h]
  · split
    · exact if_neg fun hlimit => absurd hlimit.1 (Nat.not_le.2 h)
    · rfl

theorem hardLimit_of_profile {s t : State} {l : LinkId} (h : (t.link l).profile = (s.link l).profile) :
    hardLimit t l = hardLimit s l := by
  rw [hardLimit, hardLimit, h]

theorem startControl_offer_admits {e attempt n : Nat} {nh : Nonce} (hk : (s.link l).current = some k)
    (hn : controlAdmission s l k 9 = some n) :
    startControl l (.offer e nh attempt) s = admitSealing l .offer k n 9 none (offerPayload e nh attempt) s := by
  simp only [startControl, hk, hn]

theorem startControl_offer_refused {e attempt : Nat} {nh : Nonce} (hk : (s.link l).current = some k)
    (hn : controlAdmission s l k 9 = none) : startControl l (.offer e nh attempt) s = failRenewal l s := by
  simp only [startControl, hk, hn]

theorem startControl_cutover_admits {e n : Nat} {nh ns : Nonce} (hk : ((cutover l s).link l).current = some k)
    (hn : controlAdmission (cutover l s) l k 14 = some n) :
    startControl l (.cutover e nh ns) s =
      admitSealing l .cutover k n 14 none (cutoverPayload e nh ns) (cutover l s) := by
  simp only [startControl, hk, hn]

/-- R5: the link-event pending flag is one of its link, and its notice one of the host port. -/
theorem setEventPending_rest (l : LinkId) (s : State) :
    (s.setEventPending l).keys = s.keys ∧ (s.setEventPending l).store = s.store ∧
    (s.setEventPending l).trunk = s.trunk ∧ (s.setEventPending l).faults = s.faults ∧
    ∀ j, j ≠ l → (s.setEventPending l).link j = s.link j := by
  rcases setEventPending_cases l s with ⟨_, e⟩ | ⟨_, e⟩ <;> rw [e]
  · exact ⟨rfl, rfl, rfl, rfl, fun _ _ => rfl⟩
  · refine ⟨rfl, rfl, rfl, rfl, fun j hj => ?_⟩
    rw [State.link_listNotice, State.link_modLink_of_ne s _ hj.symm]

/-- R85: the failure of a renewal, up to the act of the profile. -/
theorem failRenewal_eq_failed (l : LinkId) (s : State) :
    failRenewal l s = if isolatesOnFailure (s.link l) then autoIsolate l (failed l s) else failedToBackoff l s := by
  rw [failRenewal, releaseSlots_eq_released]
  rfl

/-- R85, step 1: the next slot given up and released, before it is handed over. -/
def nextReleased (l : LinkId) (s : State) : State :=
  released (s.link l).next.toList (s.modLink l fun x => { x with next := none, lane := none })

theorem failed_eq_handOver (l : LinkId) (s : State) : failed l s =
    (handOver (nextReleased l s)).modRenewal l fun r => { r with offer := .stopped, failureMark := true } := rfl

theorem failed_state (l : LinkId) (s : State) : ((failed l s).link l).state = (s.link l).state := by
  have hkept := (handOver_frame (nextReleased l s)).1.kept l
  have hlink : (nextReleased l s).link l = { s.link l with next := none, lane := none } := by
    rw [nextReleased, released_link, State.link_modLink_self]
  rw [hlink] at hkept
  rw [failed_eq_handOver, State.link_modRenewal_self]
  exact (congrArg Link.state hkept :)

/-- R85: a slot that is neither the link's next slot nor FREE is untouched by the failure. -/
theorem failed_slot {l : LinkId} {s : State} {k : SlotNo} (hnext : (s.link l).next ≠ some k)
    (hk : (s.slot k).state ≠ .free) : (failed l s).slot k = s.slot k := by
  have hkept : (nextReleased l s).slot k = s.slot k :=
    released_slot_of_notMem fun hm => hnext (Option.mem_toList.1 hm)
  rw [failed_eq_handOver, State.slot_modRenewal, (handOver_frame _).1.slot_of_ne_free (by rwa [hkept]), hkept]

theorem failRenewal_backoff {p : Profile} (hp : (s.link l).profile = some p) (h : p.isolateOnFailure = false) :
    failRenewal l s = failedToBackoff l s := by
  rw [failRenewal_eq_failed, isolatesOnFailure, hp]
  exact if_neg (by simp [h])

theorem failRenewal_isolation {p : Profile} (hp : (s.link l).profile = some p) (h : p.isolateOnFailure = true)
    (hactive : (s.link l).state = .active) : failRenewal l s = failedToIsolation l s := by
  rw [failRenewal_eq_failed, isolatesOnFailure, hp, autoIsolate, failed_state, if_pos hactive,
    isolate_eq_isolated]
  exact if_pos h

end Control

end Sys2Proof.Machine

namespace Sys2Proof.Proofs

open Sys2Proof Sys2Proof.Machine

/-- Settles O46: the list before each start, and the branch of the sealing start for each message and frame. -/
theorem sealingStartAdmits : Obligations.SealingStartAdmits := by
  unfold Obligations.SealingStartAdmits
  refine ⟨fun s => ⟨_, listFollows_refreshRequests s, rfl⟩, settleBlocksFor_starts 1024,
    fun s hbuffer hsealer hopener hderiver => ?_, ?_⟩
  · rw [finish_requests hbuffer (nextStart_refreshed_eq_none hsealer hopener hderiver)]
    exact listFollows_refreshRequests s
  intro s l rest hcurrent hlist taken
  set emptied := (s.setSealRequests rest).modLink l fun x => { x with lane := none } with hemptied
  have hlink : emptied.link l = { s.link l with lane := none } := tget_tput_self _ _ _
  have hlimit : hardLimit emptied l = hardLimit s l := hardLimit_of_profile (by rw [hlink])
  refine ⟨?_, ?_, ?_, ?_, ?_⟩
  · intro k d ds x n hlane hk hq hx hnext
    have hstart := exec_sealingStart_head hcurrent hlist hlane
    refine ⟨fun hcost hseq => ?_, fun hlimit => ?_⟩
    · rw [hstart, startTraffic_admits (s := s.setSealRequests rest) hk hq hx
        (trafficAdmission_eq_some (s := s.setSealRequests rest) hnext hcost hseq),
        funext spendAllowance_eq]
      rfl
    · rw [hstart, startTraffic_holds (s := s.setSealRequests rest) hk hq hx
        (trafficAdmission_eq_none (s := s.setSealRequests rest) hnext hlimit)]
      rfl
  · intro k d ds x hlane hk hq hx hnext
    rw [exec_sealingStart_head hcurrent hlist hlane, startTraffic_holds (s := s.setSealRequests rest) hk hq hx
      (trafficAdmission_of_exhausted (s := s.setSealRequests rest) hnext)]
    rfl
  · intro k e nh attempt hlane hk hrefused p hp refused
    have hstart : exec .sealingStart s = .next (finish (failRenewal l emptied)) := by
      rw [exec_sealingStart_lane hcurrent hlist hlane, startControl_offer_refused (s := emptied) (k := k)
        (by rw [hlink]; exact hk) (controlAdmission_eq_none (by rw [hlimit]; exact hrefused))]
    refine ⟨fun haction => ?_, fun haction hactive => ?_, fun hnext hfree => ?_⟩
    · rw [hstart, failRenewal_backoff (by rw [hlink]; exact hp) haction]
      rfl
    · rw [hstart, failRenewal_isolation (by rw [hlink]; exact hp) haction (by rw [hlink]; exact hactive)]
      rfl
    · rw [failedToBackoff, State.slot_modRenewal]
      exact failed_slot (s := emptied) (by rw [hlink]; exact hnext) hfree
  · intro k e nh attempt n hlane hk hnext hcost hseq
    rw [exec_sealingStart_lane hcurrent hlist hlane, startControl_offer_admits (s := emptied) (k := k)
      (by rw [hlink]; exact hk) (controlAdmission_eq_some hnext (by rw [hlimit]; exact hcost) hseq)]
    rfl
  · intro e nh ns old new n hlane hprevious hk hn hserved hnext hseq hcost
    have hcut := cutover_eq (s := emptied) (l := l) (by rw [hlink]; exact hprevious) hserved
    have hself : (cutover l emptied).link l =
        { cutoverLink { s.link l with lane := none } with eventPending := true } := by
      rw [hcut, State.link_setEventPending_self, State.link_modLink_self, hlink]
    obtain ⟨hkeys, hstore, htrunk, hfaults, hothers⟩ := setEventPending_rest l (emptied.modLink l cutoverLink)
    rw [← hcut] at hkeys hstore htrunk hfaults hothers
    have hslot : (cutover l emptied).slot new = s.slot new := 
      (congrArg (fun x : KeyStore => tget x.slots new) hkeys :)
    have hlimit' : hardLimit (cutover l emptied) l = hardLimit s l :=
      hardLimit_of_profile (by rw [hself]; rfl)
    refine ⟨cutover l emptied, ?_, ?_, hkeys, hstore, htrunk, hfaults, fun j hj => ?_⟩
    · rw [exec_sealingStart_lane hcurrent hlist hlane, startControl_cutover_admits (s := emptied) (k := new)
        (by rw [hself]; exact hn)
        (controlAdmission_eq_some (hslot ▸ hnext) (by rw [hslot, hlimit']; exact hcost) hseq)]
      rfl
    · rw [hself, cutoverLink, ← hk, ← hn]
      rfl
    · rw [hothers j hj, State.link_modLink_of_ne _ _ hj.symm, hemptied, State.link_modLink_of_ne _ _ hj.symm]
      rfl

end Sys2Proof.Proofs
end

section
/-! The link frame header, and the circuit receiver as its bytes reach it. -/

namespace Sys2Proof.Machine

/-! ### The header check (R51, R138) -/

theorem byteSum_concat (bs : List Byte) (b : Byte) : byteSum (bs ++ [b]) = byteSum bs + b := by
  simp [byteSum]

/-- R51: the last header byte makes the sum of all ten FFh. -/
theorem byteSum_headerBytes (kind : FrameKind) (epoch seq p : Nat) :
    byteSum (headerBytes kind epoch seq p) = 0xFF := by
  rw [headerBytes, byteSum_concat, add_sub_cancel]

/-- The header's fields stand where the header check reads them. -/
theorem headerBytes_fields (kind : FrameKind) (epoch seq p : Nat) :
    (headerBytes kind epoch seq p).headD 0 = kind.code ∧
    ((headerBytes kind epoch seq p).drop 1).take 2 = beBytes 2 epoch ∧
    ((headerBytes kind epoch seq p).drop 3).take 4 = beBytes 4 seq ∧
    ((headerBytes kind epoch seq p).drop 7).take 2 = beBytes 2 (p + 8) :=
  ⟨rfl, rfl, rfl, rfl⟩

/-- R138: a header passes the check with the fields it was written from. -/
theorem checkHeader_headerBytes {kind : FrameKind} {epoch seq p maxPayload : Nat} (hepoch : epoch < 65536)
    (hseq : seq < 2 ^ 32) (hp : p + 8 < 65536) (hok : bodyLengthOk kind maxPayload (p + 8) = true) :
    checkHeader maxPayload (headerBytes kind epoch seq p) = some ⟨kind, epoch, seq, p + 8⟩ := by
  obtain ⟨hkind, he, hs, hl⟩ := headerBytes_fields kind epoch seq p
  have hepoch' : beNat (beBytes 2 epoch) = epoch := (beNat_beBytes 2 epoch).trans (Nat.mod_eq_of_lt hepoch)
  have hseq' : beNat (beBytes 4 seq) = seq := (beNat_beBytes 4 seq).trans (Nat.mod_eq_of_lt hseq)
  have hp' : beNat (beBytes 2 (p + 8)) = p + 8 := (beNat_beBytes 2 (p + 8)).trans (Nat.mod_eq_of_lt hp)
  simp only [checkHeader, byteSum_headerBytes, hkind, FrameKind.ofCode_code, he, hs, hl, hepoch', hseq', hp', hok,
    if_true]

theorem FrameKind.ofCode_eq_some {b : Byte} {kind : FrameKind} (h : FrameKind.ofCode b = some kind) :
    b = kind.code := by
  revert b
  cases kind <;> decide

theorem FrameKind.ofCode_eq_none_iff (b : Byte) :
    FrameKind.ofCode b = none ↔ b ∉ ([0x01, 0x11, 0x12, 0x13, 0x14] : List Byte) := by
  revert b
  decide

/-- R138: the header check fails at a wrong sum, at a kind that is none, and at a wrong length. -/
theorem checkHeader_eq_none_iff (maxPayload : Nat) (bs : List Byte) :
    checkHeader maxPayload bs = none ↔
      byteSum bs ≠ 0xFF ∨ FrameKind.ofCode (bs.headD 0) = none ∨
        ∃ kind : FrameKind, bs.headD 0 = kind.code ∧
          bodyLengthOk kind maxPayload (beNat ((bs.drop 7).take 2)) = false := by
  unfold checkHeader
  by_cases hsum : byteSum bs = 0xFF
  · rw [if_pos hsum]
    cases hkind : FrameKind.ofCode (bs.headD 0) with
    | none => simp
    | some kind =>
      have hcode := FrameKind.ofCode_eq_some hkind
      have hexists : (∃ k : FrameKind, bs.headD 0 = k.code ∧
          bodyLengthOk k maxPayload (beNat ((bs.drop 7).take 2)) = false) ↔
          bodyLengthOk kind maxPayload (beNat ((bs.drop 7).take 2)) = false :=
        ⟨fun ⟨_, hk, hlen⟩ => FrameKind.code_injective (hk.symm.trans hcode) ▸ hlen,
          fun hlen => ⟨kind, hcode, hlen⟩⟩
      rw [hexists]
      simp [hsum]
  · rw [if_neg hsum]
    exact iff_of_true rfl (.inl hsum)

/-! ### A header taken again (R138) -/

theorem foldl_huntByte_header (bs acc : List Byte) : bs.foldl huntByte (.header acc) = .header (acc ++ bs) := by
  induction bs generalizing acc with
  | nil => simp
  | cons b bs ih => simp [huntByte, ih]

/-- R137, R138: bytes taken again from HUNT: what follows the first start byte among them is a header begun. -/
theorem replayHeader_eq (bs : List Byte) :
    ((bs.dropWhile fun c => c ≠ 0xA3) = [] → replayHeader bs = .hunt) ∧
      ∀ c rest, (bs.dropWhile fun c => c ≠ 0xA3) = c :: rest → replayHeader bs = .header rest := by
  induction bs with
  | nil => exact ⟨fun _ => rfl, nofun⟩
  | cons b bs ih =>
    rw [List.dropWhile_cons]
    split
    · next hb =>
      have hskip : replayHeader (b :: bs) = replayHeader bs :=
        congrArg (fun r => bs.foldl huntByte r) (if_neg (of_decide_eq_true hb))
      rw [hskip]
      exact ih
    · next hb =>
      have hfound : replayHeader (b :: bs) = .header bs := by
        have hbegun : huntByte .hunt b = .header [] := if_pos (Decidable.not_not.1 fun e => hb (decide_eq_true e))
        exact (congrArg (fun r => bs.foldl huntByte r) hbegun).trans (foldl_huntByte_header bs [])
      exact ⟨nofun, fun c rest e => by rw [hfound, (List.cons.inj e).2]⟩

/-! ### One byte at a receiver, by its state (R137 to R139) -/

section Receiver

variable {s : State} {l : LinkId}

theorem State.setReceiver_receiver (s : State) (l : LinkId) : s.setReceiver l (s.receiver l) = s := by
  rw [State.setReceiver, State.receiver, tput_tget]

theorem receiverByte_hunt (h : s.receiver l = .hunt) (b : Byte) :
    receiverByte l b s = s.setReceiver l (huntByte .hunt b) := by
  simp only [receiverByte, h]

theorem receiverByte_header {bs : List Byte} (h : s.receiver l = .header bs) (hlen : bs.length < 9) (b : Byte) :
    receiverByte l b s = s.setReceiver l (.header (bs ++ [b])) := by
  simp only [receiverByte, h]
  exact if_pos (by omega)

theorem receiverByte_header_last {bs : List Byte} (h : s.receiver l = .header bs) (hlen : bs.length = 9) (b : Byte) :
    receiverByte l b s = headerCollected l (bs ++ [b]) s := by
  simp only [receiverByte, h]
  exact if_neg (by omega)

theorem receiverByte_body {d : DescNo} {n : Nat} {x : Descriptor} (h : s.receiver l = .body d n)
    (hx : s.desc d = some x) (hn : n + 1 < x.length + 8) (b : Byte) :
    receiverByte l b s = (s.writeUnits x.chain n [b]).setReceiver l (.body d (n + 1)) := by
  simp only [receiverByte, h, bodyByte, frameUnits, bodyLengthOf, State.desc_writeUnits, hx]
  exact if_neg (by omega)

theorem receiverByte_body_last {d : DescNo} {n : Nat} {x : Descriptor} (h : s.receiver l = .body d n)
    (hx : s.desc d = some x) (hn : n + 1 = x.length + 8) (b : Byte) :
    receiverByte l b s =
      settleBlocks (((s.writeUnits x.chain n [b]).setReceiver l .hunt).setOpenList (s.opener.waiting ++ [d])) := by
  simp only [receiverByte, h, bodyByte, frameUnits, bodyLengthOf, State.desc_writeUnits, hx]
  exact if_pos (by omega)

theorem receiverByte_skip {n : Nat} (h : s.receiver l = .skip n) (b : Byte) :
    receiverByte l b s = s.setReceiver l (if n ≤ 1 then .hunt else .skip (n - 1)) := by
  simp only [receiverByte, h]

/-! ### Bytes at a receiver, one after another -/

/-- R138: bytes short of a whole header are collected. -/
theorem feed_header (bs : List Byte) : ∀ {s : State} {acc : List Byte}, s.receiver l = .header acc →
    acc.length + bs.length < 10 →
    bs.foldl (fun t b => receiverByte l b t) s = s.setReceiver l (.header (acc ++ bs)) := by
  induction bs with
  | nil =>
    intro s acc h _
    rw [List.append_nil, ← h, State.setReceiver_receiver]
    rfl
  | cons b bs ih =>
    intro s acc h hlen
    rw [List.length_cons] at hlen
    rw [List.foldl_cons, receiverByte_header h (by omega), ih (State.receiver_setReceiver_self _ _ _)
      (by rw [List.length_append, List.length_singleton]; omega), State.setReceiver_setReceiver, List.append_assoc,
      List.singleton_append]

/-- R139: body bytes before the last are written into the frame's units. -/
theorem feed_body {d : DescNo} {x : Descriptor} (bs : List Byte) : ∀ {s : State} {n : Nat},
    s.receiver l = .body d n → s.desc d = some x → n + bs.length < x.length + 8 →
    bs.foldl (fun t b => receiverByte l b t) s =
      (s.writeUnits x.chain n bs).setReceiver l (.body d (n + bs.length)) := by
  induction bs with
  | nil =>
    intro s n h _ _
    have hnone : s.writeUnits x.chain n [] = s := rfl
    rw [List.length_nil, Nat.add_zero, hnone, ← h, State.setReceiver_receiver]
    rfl
  | cons b bs ih =>
    intro s n h hx hlen
    rw [List.length_cons] at hlen
    have hnext := ih (s := (s.writeUnits x.chain n [b]).setReceiver l (.body d (n + 1)))
      (State.receiver_setReceiver_self _ _ _) hx (by omega)
    rw [List.foldl_cons, receiverByte_body h hx (by omega), hnext, List.length_cons,
      Nat.add_right_comm n 1, ← Nat.add_assoc]
    exact State.setReceiver_setReceiver (s.writeUnits x.chain n (b :: bs)) l _ _

theorem writeChain_append (chain : List UnitNo) (bs cs : List Byte) : ∀ (n : Nat) (mem : List Host.Cell),
    writeChain chain n (bs ++ cs) mem = writeChain chain (n + bs.length) cs (writeChain chain n bs mem) := by
  induction bs with
  | nil => exact fun _ _ => rfl
  | cons b bs ih =>
    intro n mem
    rw [List.cons_append, writeChain, ih, writeChain, List.length_cons, Nat.add_right_comm n 1, ← Nat.add_assoc]

/-- R139: the last body byte hands the frame to the opener. -/
theorem feed_body_last {d : DescNo} {x : Descriptor} {n : Nat} {bs : List Byte} (h : s.receiver l = .body d n)
    (hx : s.desc d = some x) (hne : bs ≠ []) (hlen : n + bs.length = x.length + 8) :
    bs.foldl (fun t b => receiverByte l b t) s =
      settleBlocks (((s.writeUnits x.chain n bs).setReceiver l .hunt).setOpenList (s.opener.waiting ++ [d])) := by
  obtain ⟨init, b, rfl⟩ := (List.eq_nil_or_concat' bs).resolve_left hne
  rw [List.length_append, List.length_singleton] at hlen
  have hlast := receiverByte_body_last
    (s := (s.writeUnits x.chain n init).setReceiver l (.body d (n + init.length)))
    (State.receiver_setReceiver_self _ _ _) hx (by omega) b
  rw [List.foldl_append, feed_body init h hx (by omega), List.foldl_cons, List.foldl_nil, hlast]
  simp only [State.writeUnits, State.setReceiver, tput_tput, writeChain_append]

/-- R139: the bytes of a frame without room are counted off. -/
theorem feed_skip (bs : List Byte) : ∀ {s : State} {n : Nat}, s.receiver l = .skip n → bs.length < n →
    bs.foldl (fun t b => receiverByte l b t) s = s.setReceiver l (.skip (n - bs.length)) := by
  induction bs with
  | nil =>
    intro s n h _
    rw [List.length_nil, Nat.sub_zero, ← h, State.setReceiver_receiver]
    rfl
  | cons b bs ih =>
    intro s n h hlen
    rw [List.length_cons] at hlen ⊢
    rw [List.foldl_cons, receiverByte_skip h, if_neg (by omega), ih (State.receiver_setReceiver_self _ _ _) (by omega),
      State.setReceiver_setReceiver, Nat.sub_sub, Nat.add_comm 1]

theorem feed_skip_last {n : Nat} {bs : List Byte} (h : s.receiver l = .skip n) (hne : bs ≠ [])
    (hlen : bs.length = n) : bs.foldl (fun t b => receiverByte l b t) s = s.setReceiver l .hunt := by
  obtain ⟨init, b, rfl⟩ := (List.eq_nil_or_concat' bs).resolve_left hne
  rw [List.length_append, List.length_singleton] at hlen
  rw [List.foldl_append, feed_skip init h (by omega), List.foldl_cons, List.foldl_nil,
    receiverByte_skip (State.receiver_setReceiver_self _ _ _), if_pos (by omega), State.setReceiver_setReceiver]

/-! ### A header accepted (R115) -/

theorem acceptHeader_room {h : HeaderFields} {d : DescNo} {us : List UnitNo}
    (hroom : findRoom s true (unitsFor h.bodyLength) = some (d, us)) :
    acceptHeader l h s = (admitInbound l h d us s).setReceiver l (.body d 0) := by
  unfold acceptHeader
  rw [hroom]

theorem acceptHeader_noRoom {h : HeaderFields} (hroom : findRoom s true (unitsFor h.bodyLength) = none) :
    acceptHeader l h s = ((s.count l .noBuffer).modEvents l fun e =>
      { e with inboundOverrun := satInc e.inboundOverrun }).setReceiver l (.skip h.bodyLength) := by
  unfold acceptHeader
  rw [hroom]

theorem headerCollected_fails {bs : List Byte} (h : checkHeader (maxPayloadOf (s.link l)) bs = none) :
    headerCollected l bs s = ((s.count l .badHeader).modEvents l fun e =>
      { e with headerErrors := satInc e.headerErrors }).setReceiver l (replayHeader bs) := by
  rw [headerCollected, h]

theorem findRoom_setReceiver (l : LinkId) (r : Receiver) (inbound : Bool) (n : Nat) :
    findRoom (s.setReceiver l r) inbound n = findRoom s inbound n := by
  have hunits : frameUnits (s.setReceiver l r) = frameUnits s := rfl
  have hdesc : lowestFreeDesc (s.setReceiver l r) inbound = lowestFreeDesc s inbound := rfl
  have hfree : lowestFreeUnits (s.setReceiver l r) inbound n = lowestFreeUnits s inbound n := by
    rw [lowestFreeUnits, heldUnits, hunits, ← heldUnits, ← lowestFreeUnits]
  unfold findRoom
  rw [hdesc, hfree]

/-- The acceptance does not look at the receiver that it moves. -/
theorem acceptHeader_setReceiver (h : HeaderFields) (r : Receiver) :
    acceptHeader l h (s.setReceiver l r) = acceptHeader l h s := by
  have hroom := findRoom_setReceiver (s := s) l r true (unitsFor h.bodyLength)
  unfold acceptHeader
  rw [hroom]
  split
  · next d us _ => exact State.setReceiver_setReceiver (admitInbound l h d us s) l r _
  · exact State.setReceiver_setReceiver
      ((s.count l .noBuffer).modEvents l fun e => { e with inboundOverrun := satInc e.inboundOverrun }) l r _

/-- R137, R138: the start byte and a header that passes the check bring a receiver in HUNT to its acceptance. -/
theorem feed_headerBytes {kind : FrameKind} {epoch seq p : Nat} {h : HeaderFields} (hs : s.receiver l = .hunt)
    (hcheck : checkHeader (maxPayloadOf (s.link l)) (headerBytes kind epoch seq p) = some h) :
    (frameStart :: headerBytes kind epoch seq p).foldl (fun t b => receiverByte l b t) s = acceptHeader l h s := by
  have hstart : receiverByte l frameStart s = s.setReceiver l (.header []) := receiverByte_hunt hs _
  have hcollected : headerCollected l (headerBytes kind epoch seq p)
      (s.setReceiver l (.header (headerFields kind epoch seq p))) =
        acceptHeader l h (s.setReceiver l (.header (headerFields kind epoch seq p))) := by
    simp only [headerCollected, State.link_setReceiver, hcheck]
  have hlen : (headerFields kind epoch seq p).length = 9 := rfl
  have hfields := feed_header (l := l) (headerFields kind epoch seq p)
    (State.receiver_setReceiver_self s l (.header [])) (by rw [hlen]; decide)
  rw [List.foldl_cons, hstart, headerBytes, List.foldl_append, hfields, List.foldl_cons, List.foldl_nil,
    State.setReceiver_setReceiver, List.nil_append,
    receiverByte_header_last (State.receiver_setReceiver_self _ _ _) hlen]
  exact hcollected.trans (acceptHeader_setReceiver _ _)

end Receiver

end Sys2Proof.Machine
end

section
/-! A receive cycle: the port's monitor and the selection, and the bytes fed slot by slot. -/

namespace Sys2Proof.Machine

/-! ### What the bytes of a circuit move in the trunk -/

/-- What the blocks take up by themselves leaves the trunk. -/
theorem settleBlocks_trunk (s : State) : (settleBlocks s).trunk = s.trunk :=
  trunk_of_finishView (settleBlocks_keeps (finishView_blocks s) s rfl)

theorem acceptHeader_trunk (l : LinkId) (h : HeaderFields) (s : State) : ∃ r,
    (acceptHeader l h s).trunk = (s.setReceiver l r).trunk := by
  unfold acceptHeader
  split
  · exact ⟨_, rfl⟩
  · exact ⟨_, rfl⟩

/-- R137 to R139: a byte that reaches a link's receiver moves that receiver and nothing else of the trunk. -/
theorem receiverByte_trunk (l : LinkId) (b : Byte) (s : State) : ∃ r,
    (receiverByte l b s).trunk = (s.setReceiver l r).trunk := by
  unfold receiverByte
  split
  · exact ⟨_, rfl⟩
  · split
    · exact ⟨_, rfl⟩
    · unfold headerCollected
      split
      · exact acceptHeader_trunk l _ s
      · exact ⟨_, rfl⟩
  · unfold bodyByte
    dsimp only
    split
    · exact ⟨_, settleBlocks_trunk _⟩
    · exact ⟨_, rfl⟩
  · exact ⟨_, rfl⟩

theorem receiverByte_receiver_of_ne {l j : LinkId} (hj : j ≠ l) (b : Byte) (s : State) :
    (receiverByte l b s).receiver j = s.receiver j := by
  obtain ⟨r, h⟩ := receiverByte_trunk l b s
  rw [State.receiver, h]
  exact tget_tput_of_ne _ _ hj.symm

/-! ### The selection after a marker (R124, R125) -/

theorem foldl_abandonReception_trunk (ls : List LinkId) : ∀ s : State, ∃ receivers,
    (ls.foldl (fun s l => abandonReception l s) s).trunk = { s.trunk with receivers := receivers } := by
  induction ls with
  | nil => exact fun s => ⟨s.trunk.receivers, rfl⟩
  | cons l ls ih =>
    intro s
    obtain ⟨receivers, descs, h⟩ := abandonReception_eq l s
    obtain ⟨last, hlast⟩ := ih (abandonReception l s)
    refine ⟨last, ?_⟩
    rw [List.foldl_cons, hlast, h]

/-- R125: a switch moves the selection, counts it, and returns the receivers to HUNT; the rest of the trunk
stays. -/
theorem switchTo_trunk (p : Port) (s : State) : ∃ receivers,
    (switchTo p s).trunk =
      { s.trunk with receivers := receivers, selected := p, switchCount := satInc s.trunk.switchCount } := by
  obtain ⟨receivers, h⟩ := foldl_abandonReception_trunk (allFin 64) s
  refine ⟨receivers, ?_⟩
  simp only [switchTo, State.modFaults_trunk, h]

/-- R124: following a monitor moves at most the selection, the switch count and the receivers of the trunk. -/
theorem followMonitor_trunk (p : Port) (old : Monitor) (s : State) : ∃ receivers selected count,
    (followMonitor p old s).trunk =
      { s.trunk with receivers := receivers, selected := selected, switchCount := count } := by
  have stays : ∃ receivers selected count,
      s.trunk = { s.trunk with receivers := receivers, selected := selected, switchCount := count } :=
    ⟨_, _, _, rfl⟩
  have moves : ∀ q, ∃ receivers selected count, (switchTo q s).trunk =
      { s.trunk with receivers := receivers, selected := selected, switchCount := count } := fun q =>
    (switchTo_trunk q s).imp fun _ h => ⟨_, _, h⟩
  unfold followMonitor
  split
  · split
    · split
      · exact moves _
      · exact stays
    · split
      · exact moves _
      · exact stays
  · exact stays

theorem switchTo_selected (p : Port) (s : State) : (switchTo p s).trunk.selected = p := by
  obtain ⟨receivers, h⟩ := switchTo_trunk p s
  rw [h]

/-- R124: the selection that follows a port's new monitor value. -/
theorem followMonitor_selected (p : Port) (m : Monitor) (s : State) :
    (followMonitor p (s.monitor p) (s.setMonitor p m)).trunk.selected = selectionAfter s p m := by
  have hother := State.monitor_setMonitor_other s p m
  unfold followMonitor selectionAfter
  simp only [State.monitor_setMonitor_self, State.setMonitor_trunk_mode, State.setMonitor_trunk_selected, hother]
  split
  · split
    · split
      · exact switchTo_selected _ _
      · exact State.setMonitor_trunk_selected s p m
    · next hp =>
      have hkept : (s.setMonitor p m).monitor s.trunk.selected = s.monitor s.trunk.selected := by
        have hport : s.trunk.selected = otherPort p := by
          revert hp
          cases p <;> cases s.trunk.selected <;> simp [otherPort]
        rw [hport, hother]
      rw [hkept]
      split
      · exact switchTo_selected _ _
      · exact State.setMonitor_trunk_selected s p m
  · exact State.setMonitor_trunk_selected s p m

/-- R121, R122, R124: a port's new monitor value, the selection that follows it, and the live map as it was. -/
theorem monitorEvent_trunk (p : Port) (f : Monitor → Monitor) (s : State) :
    (monitorEvent p f s).monitor p = f (s.monitor p) ∧
    (monitorEvent p f s).trunk.selected = selectionAfter s p (f (s.monitor p)) ∧
    (monitorEvent p f s).trunk.live = s.trunk.live := by
  obtain ⟨receivers, selected, count, hfollow⟩ :=
    followMonitor_trunk p (s.monitor p) (s.setMonitor p (f (s.monitor p)))
  obtain ⟨⟨last, hreconcile⟩, _⟩ :=
    reconcileCircuits_keeps s (followMonitor p (s.monitor p) (s.setMonitor p (f (s.monitor p))))
  change (monitorEvent p f s).trunk = _ at hreconcile
  have hselected := followMonitor_selected p (f (s.monitor p)) s
  refine ⟨?_, ?_, ?_⟩
  · have hmonitor : (monitorEvent p f s).monitor p = (s.setMonitor p (f (s.monitor p))).monitor p := by
      unfold State.monitor
      cases p
      · exact (congrArg Trunk.monitorA hreconcile).trans (congrArg Trunk.monitorA hfollow :)
      · exact (congrArg Trunk.monitorB hreconcile).trans (congrArg Trunk.monitorB hfollow :)
    rw [hmonitor, State.monitor_setMonitor_self]
  · rw [hreconcile, ← hselected]
  · rw [hreconcile, hfollow]
    exact State.setMonitor_trunk_live s p _

/-! ### The bytes of a cycle (R122) -/

section Cycle

variable {bytes : Vector Byte 96} {s : State} {i : TrunkSlot}

theorem feedSlot_feeds {l : LinkId} (hl : tget s.trunk.live i = some l) (hlive : (s.link l).live = true)
    (hup : circuitUp s l = true) : feedSlot bytes s i = receiverByte l (tget bytes i) s := by
  simp only [feedSlot, hl, receiverRuns, hlive, hup, Bool.and_self, if_true]

theorem feedSlot_idle (h : ∀ l, tget s.trunk.live i = some l → (s.link l).live = false ∨ circuitUp s l = false) :
    feedSlot bytes s i = s := by
  unfold feedSlot
  split
  · next l hl =>
    refine if_neg ?_
    rcases h l hl with e | e <;> simp [receiverRuns, e]
  · rfl

theorem feedSlot_live (bytes : Vector Byte 96) (s : State) (i : TrunkSlot) :
    (feedSlot bytes s i).trunk.live = s.trunk.live := by
  unfold feedSlot
  split
  · split
    · obtain ⟨r, h⟩ := receiverByte_trunk _ _ s
      rw [h]
      rfl
    · rfl
  · rfl

/-- The state after the first slots of a cycle have been fed. -/
def fedSlots (bytes : Vector Byte 96) (s : State) (i : Nat) : State :=
  ((allFin 96).take i).foldl (feedSlot bytes) s

theorem fedSlots_succ (bytes : Vector Byte 96) (s : State) (i : TrunkSlot) :
    fedSlots bytes s (i.val + 1) = feedSlot bytes (fedSlots bytes s i.val) i := by
  have hget : (allFin 96)[i.val]? = some i := by simp [allFin]
  rw [fedSlots, List.take_add_one, hget, List.foldl_append]
  rfl

theorem fedSlots_all (bytes : Vector Byte 96) (s : State) : fedSlots bytes s 96 = feedCycle bytes s := by
  rw [fedSlots, List.take_of_length_le (by simp [allFin])]
  rfl

theorem fedSlots_live (bytes : Vector Byte 96) (s : State) (i : Nat) :
    (fedSlots bytes s i).trunk.live = s.trunk.live := by
  unfold fedSlots
  generalize (allFin 96).take i = slots
  induction slots generalizing s with
  | nil => rfl
  | cons j slots ih => rw [List.foldl_cons, ih, feedSlot_live]

end Cycle

end Sys2Proof.Machine

namespace Sys2Proof.Proofs

open Sys2Proof Sys2Proof.Machine

/-- Settles O58: the header check undoes the header's writing; the receiver's states byte by byte; a cycle's
bytes slot by slot. -/
theorem headerIsReadAsWritten : Obligations.HeaderIsReadAsWritten := by
  unfold Obligations.HeaderIsReadAsWritten
  refine ⟨?_, ?_, ?_, ?_, ?_, fun s l j b hj => receiverByte_receiver_of_ne hj b s, ?_⟩
  · intro kind epoch seq p maxPayload hepoch hseq hp hok
    have hcheck := checkHeader_headerBytes hepoch hseq hp hok
    refine ⟨byteSum_headerBytes _ _ _ _, hcheck, fun s l hs hmax => ?_⟩
    intro fed
    have hfed : fed = acceptHeader l ⟨kind, epoch, seq, p + 8⟩ s := feed_headerBytes hs (by rw [hmax, hcheck])
    refine ⟨hfed, fun d us hroom => ?_, fun hroom => ?_⟩
    · rw [hfed, acceptHeader_room (h := ⟨kind, epoch, seq, p + 8⟩) hroom]
      rfl
    · rw [hfed, acceptHeader_noRoom (h := ⟨kind, epoch, seq, p + 8⟩) hroom]
  · intro maxPayload bs _
    rw [checkHeader_eq_none_iff, FrameKind.ofCode_eq_none_iff]
  · intro s l bs b hs hlen hcheck
    rw [receiverByte_header_last hs hlen, headerCollected_fails hcheck]
    obtain ⟨hhunt, hheader⟩ := replayHeader_eq (bs ++ [b])
    split
    · next e => rw [hhunt e]
    · next e => rw [hheader _ _ e]
  · intro s l d n x bs hs hx hne fed mem
    exact ⟨fun hlen => feed_body bs hs hx hlen, fun hlen => feed_body_last hs hx hne hlen⟩
  · intro s l n bs hs hle hne
    split
    · next hlen => exact feed_skip_last hs hne hlen
    · next hlen => exact feed_skip bs hs (lt_of_le_of_ne hle hlen)
  · intro s port good bytes hinput u
    obtain ⟨hmonitor, hselected, hlive⟩ := monitorEvent_trunk port (fun m => m.mark good) s
    have hcycle : exec (.receiveCycle port good bytes) s = .next (finish
        (if u.trunk.selected = port ∧ (u.monitor port).state = .aligned then feedCycle bytes u else u)) := by
      change Host.Outcome.next (receiveCycle port good bytes s) = _
      rw [receiveCycle, hinput]
      rfl
    refine ⟨hmonitor, hselected, hlive, fun hport haligned => ?_, fun hnot => ?_⟩
    · refine ⟨fedSlots bytes u, rfl, fun i => ?_, ?_⟩
      · have hmap : (fedSlots bytes u i.val).trunk.live = s.trunk.live := (fedSlots_live _ _ _).trans hlive
        rw [fedSlots_succ, ← hmap]
        exact ⟨fun l => feedSlot_feeds, feedSlot_idle⟩
      · rw [hcycle, if_pos ⟨hport, haligned⟩, fedSlots_all]
    · rw [hcycle, if_neg fun ⟨hport, haligned⟩ => hnot.elim (absurd hport) (absurd haligned)]

end Sys2Proof.Proofs
end

section
/-! The block operations of a whole sealing. -/

namespace Sys2Proof.Machine

/-! ### The content of a unit chain after a write -/

/-- The address of every byte within a chain's units. -/
theorem chainAddress_of_lt {chain : List UnitNo} {j : Nat} (h : j < 64 * chain.length) :
    ∃ a, chainAddress chain j = some a := by
  have hunit : j / 64 < chain.length := Nat.div_lt_of_lt_mul h
  exact ⟨_, by rw [chainAddress, List.getElem?_eq_getElem hunit, Option.map_some]⟩

/-- In a chain that holds no unit twice, an address is that of one byte. -/
theorem chainAddress_injective {chain : List UnitNo} (hnodup : chain.Nodup) {i j a : Nat}
    (hi : chainAddress chain i = some a) (hj : chainAddress chain j = some a) : i = j := by
  simp only [chainAddress, Option.map_eq_some_iff] at hi hj
  obtain ⟨u, hu, rfl⟩ := hi
  obtain ⟨v, hv, hvu⟩ := hj
  have huv : v = u := Fin.ext (by omega)
  have hindex : i / 64 = j / 64 :=
    (List.getElem?_inj (List.getElem?_eq_some_iff.1 hu).1 hnodup).1 (by rw [hu, hv, huv])
  omega

theorem chainByte_write {chain : List UnitNo} (hnodup : chain.Nodup) {mem : List Host.Cell}
    (hwf : Memory.wf mem = true) {j a : Nat} (ha : chainAddress chain j = some a) (b : Byte) (i : Nat) :
    chainByte (Memory.write mem a b) chain i = if j = i then b else chainByte mem chain i := by
  unfold chainByte
  cases hi : chainAddress chain i with
  | none =>
    have hne : j ≠ i := fun e => by rw [e, hi] at ha; cases ha
    rw [if_neg hne]
  | some c =>
    have haddress : a = c ↔ j = i :=
      ⟨fun e => chainAddress_injective hnodup ha (e ▸ hi), fun e => Option.some.inj (by rw [← ha, e, hi])⟩
    dsimp only
    rw [Memory.read_write _ _ _ hwf]
    simp only [haddress]

/-- Bytes written into a chain stand there, and every other byte of its content is as it was. -/
theorem chainByte_writeChain {chain : List UnitNo} (hnodup : chain.Nodup) (i : Nat) (bs : List Byte) :
    ∀ (n : Nat) (mem : List Host.Cell), Memory.wf mem = true → n + bs.length ≤ 64 * chain.length →
      chainByte (writeChain chain n bs mem) chain i =
        if n ≤ i then bs[i - n]?.getD (chainByte mem chain i) else chainByte mem chain i := by
  induction bs with
  | nil => intro n mem _ _; simp [writeChain]
  | cons b bs ih =>
    intro n mem hwf hlen
    rw [List.length_cons] at hlen
    obtain ⟨a, ha⟩ := chainAddress_of_lt (chain := chain) (j := n) (by omega)
    simp only [writeChain, ha]
    rw [ih _ _ (Memory.wf_write _ _ hwf) (by omega), chainByte_write hnodup hwf ha]
    rcases Nat.lt_trichotomy i n with hlt | rfl | hgt
    · rw [if_neg (by omega), if_neg (by omega), if_neg (by omega)]
    · rw [if_neg (by omega), if_pos rfl, if_pos le_rfl, Nat.sub_self]
      rfl
    · obtain ⟨m, rfl⟩ : ∃ m, i = n + 1 + m := ⟨i - (n + 1), by omega⟩
      have hindex : n + 1 + m - n = m + 1 := by omega
      rw [if_pos (by omega), if_neg (by omega), if_pos (by omega), hindex, Nat.add_sub_cancel_left]
      rfl

theorem length_chainBytes (mem : List Host.Cell) (chain : List UnitNo) (j n : Nat) :
    (chainBytes mem chain j n).length = n := by
  simp [chainBytes]

theorem chainBytes_eq_take_drop (mem : List Host.Cell) (chain : List UnitNo) {j n p : Nat} (h : j + n ≤ p) :
    chainBytes mem chain j n = ((chainBytes mem chain 0 p).drop j).take n := by
  refine List.ext_getElem (by simp [length_chainBytes]; omega) fun i _ _ => ?_
  simp [chainBytes]

/-- A list with some bytes put over those from a place on. -/
def overwritten (bytes : List Byte) (j : Nat) (bs : List Byte) : List Byte :=
  bytes.take j ++ bs ++ bytes.drop (j + bs.length)

theorem getElem?_overwritten {bytes bs : List Byte} {j : Nat} (h : j + bs.length ≤ bytes.length) (i : Nat) :
    (overwritten bytes j bs)[i]? = if j ≤ i then bs[i - j]?.or bytes[i]? else bytes[i]? := by
  have hj : (bytes.take j).length = j := by rw [List.length_take]; omega
  unfold overwritten
  rw [List.append_assoc]
  split
  · next hi =>
    rw [List.getElem?_append_right (by omega), hj]
    by_cases hb : i - j < bs.length
    · rw [List.getElem?_append_left hb, List.getElem?_eq_getElem hb, Option.some_or]
    · have hindex : j + bs.length + (i - j - bs.length) = i := by omega
      rw [List.getElem?_append_right (by omega), List.getElem?_drop, hindex,
        List.getElem?_eq_none (Nat.le_of_not_lt hb), Option.none_or]
  · next hi => rw [List.getElem?_append_left (by omega), List.getElem?_take_of_lt (by omega)]

/-- What a chain's content is after bytes are written into it. -/
theorem chainBytes_writeChain {chain : List UnitNo} (hnodup : chain.Nodup) {mem : List Host.Cell}
    (hwf : Memory.wf mem = true) {j p : Nat} {bs : List Byte} (hj : j + bs.length ≤ p)
    (hp : p ≤ 64 * chain.length) :
    chainBytes (writeChain chain j bs mem) chain 0 p = overwritten (chainBytes mem chain 0 p) j bs := by
  refine List.ext_getElem? fun i => ?_
  rw [getElem?_overwritten (by rw [length_chainBytes]; exact hj)]
  have hbyte := chainByte_writeChain hnodup i bs j mem hwf (by omega)
  by_cases hi : i < p
  · have hold : (chainBytes mem chain 0 p)[i]? = some (chainByte mem chain i) := by
      simp [chainBytes, hi]
    have hnew : (chainBytes (writeChain chain j bs mem) chain 0 p)[i]? =
        some (chainByte (writeChain chain j bs mem) chain i) := by
      simp [chainBytes, hi]
    rw [hold, hnew, hbyte]
    split
    · cases bs[i - j]? <;> rfl
    · rfl
  · have hnone : ∀ m : List Host.Cell, (chainBytes m chain 0 p)[i]? = none := fun m =>
      List.getElem?_eq_none (by rw [length_chainBytes]; omega)
    rw [hnone, hnone, List.getElem?_eq_none (by omega)]
    simp

/-! ### Exclusive-or and the keystream (R52) -/

theorem length_blockBytes (x : Block) : (blockBytes x).length = 16 := length_beBytes _ _

theorem length_xorBytes (xs ys : List Byte) : (xorBytes xs ys).length = min xs.length ys.length :=
  List.length_zipWith

/-- The exclusive-or takes no more of the second list than the first is long. -/
theorem xorBytes_take (xs ys : List Byte) : xorBytes xs (ys.take xs.length) = xorBytes xs ys := by
  induction xs generalizing ys with
  | nil => rfl
  | cons x xs ih =>
    cases ys with
    | nil => rfl
    | cons y ys => exact congrArg (fun l => (x ^^^ y) :: l) (ih ys)

theorem xorBytes_drop_take (xs ys : List Byte) (j n : Nat) :
    ((xorBytes xs ys).drop j).take n = xorBytes ((xs.drop j).take n) ((ys.drop j).take n) := by
  rw [xorBytes, List.drop_zipWith, List.take_zipWith, xorBytes]

/-- One of the blocks that stand side by side. -/
theorem flatMap_blocks {f : Nat → List Byte} (hf : ∀ i, (f i).length = 16) {m k : Nat} (hk : k < m) :
    (((List.range m).flatMap f).drop (16 * k)).take 16 = f k := by
  have hfirst : ((List.range k).flatMap f).length = 16 * k := by
    induction k with
    | zero => rfl
    | succ k ih =>
      rw [List.range_succ, List.flatMap_append, List.length_append, ih (by omega)]
      simp [hf]
      omega
  obtain ⟨n, rfl⟩ : ∃ n, m = k + (n + 1) := ⟨m - k - 1, by omega⟩
  rw [List.range_add, List.flatMap_append, List.drop_left' hfirst, List.range_succ_eq_map, List.map_cons,
    List.flatMap_cons, Nat.add_zero, List.take_left' (hf k)]

/-- The bytes of a keystream that meet one chunk of the payload are those of its counter block. -/
theorem keystream_chunk {l : LinkId} {inbound : Bool} {epoch seq : Nat} {kind : FrameKind} {kc : Key} {p k : Nat}
    (hk : k < chunks p) :
    ((keystream l inbound epoch seq kind kc p).drop (16 * k)).take (chunkLength p k) =
      (blockBytes (encipher kc (counterBlock l inbound epoch seq kind k))).take (chunkLength p k) := by
  have hblock := flatMap_blocks
    (f := fun i => blockBytes (encipher kc (counterBlock l inbound epoch seq kind i)))
    (fun _ => length_blockBytes _) hk
  have hle : chunkLength p k ≤ 16 := Nat.min_le_left _ _
  have hin : chunkLength p k ≤ p - 16 * k := Nat.min_le_right _ _
  rw [keystream, List.drop_take, List.take_take, Nat.min_eq_left hin, ← hblock, List.take_take,
    Nat.min_eq_left hle]

theorem length_keystream (l : LinkId) (inbound : Bool) (epoch seq : Nat) (kind : FrameKind) (kc : Key) (p : Nat) :
    (keystream l inbound epoch seq kind kc p).length = p := by
  have hblocks : ∀ m, ((List.range m).flatMap fun i =>
      blockBytes (encipher kc (counterBlock l inbound epoch seq kind i))).length = 16 * m := fun m => by
    simp [List.length_flatMap, length_blockBytes, Nat.mul_comm]
  rw [keystream, List.length_take, hblocks, chunks]
  omega

end Sys2Proof.Machine
end

section
/-! A sealing from its first block operation to its last. -/

namespace Sys2Proof.Machine

/-! ### A payload with its first chunks done -/

/-- Content whose first `k` chunks are those of one list and whose others are those of another. -/
def doneChunks (done left : List Byte) (k : Nat) : List Byte := done.take (16 * k) ++ left.drop (16 * k)

section DoneChunks

variable {done left : List Byte} {p k : Nat}

theorem lt_of_lt_chunks (hk : k < chunks p) : 16 * k < p := by
  unfold chunks at hk
  omega

/-- A chunk lies within its payload. -/
theorem chunk_le (hk : k < chunks p) : 16 * k + chunkLength p k ≤ p := by
  have hlt := lt_of_lt_chunks hk
  have hle : chunkLength p k ≤ p - 16 * k := Nat.min_le_right _ _
  omega

theorem doneChunks_all (hdone : done.length = p) (hleft : left.length = p) :
    doneChunks done left (chunks p) = done := by
  have hall : p ≤ 16 * chunks p := by unfold chunks; omega
  rw [doneChunks, List.take_of_length_le (by omega), List.drop_of_length_le (by omega), List.append_nil]

/-- The next chunk is still that of the second list. -/
theorem doneChunks_next (hdone : done.length = p) (hk : k < chunks p) :
    (doneChunks done left k).drop (16 * k) = left.drop (16 * k) := by
  have hlen : (done.take (16 * k)).length = 16 * k := by
    have := lt_of_lt_chunks hk
    rw [List.length_take]
    omega
  rw [doneChunks, List.drop_left' hlen]

/-- A chunk cut to its length in the payload is that chunk cut to sixteen bytes. -/
theorem take_chunkLength (hdone : done.length = p) (k : Nat) :
    (done.drop (16 * k)).take (chunkLength p k) = (done.drop (16 * k)).take 16 := by
  have hrest : (done.drop (16 * k)).length = p - 16 * k := by rw [List.length_drop, hdone]
  rw [chunkLength, ← hrest, List.take_eq_take_min (i := 16)]

theorem length_chunk (hdone : done.length = p) (k : Nat) :
    ((done.drop (16 * k)).take (chunkLength p k)).length = chunkLength p k := by
  rw [List.length_take, List.length_drop, hdone]
  exact Nat.min_eq_left (Nat.min_le_right _ _)

/-- The chunk just done is that of the first list. -/
theorem doneChunks_last (hdone : done.length = p) (hk : k < chunks p) :
    ((doneChunks done left (k + 1)).drop (16 * k)).take (chunkLength p k) = (done.drop (16 * k)).take 16 := by
  have hlt := lt_of_lt_chunks hk
  have hchunk : (done.take (16 * (k + 1))).drop (16 * k) = (done.drop (16 * k)).take 16 := by
    rw [List.drop_take, Nat.mul_succ, Nat.add_sub_cancel_left]
  have hlen : ((done.drop (16 * k)).take 16).length = chunkLength p k := by
    rw [List.length_take, List.length_drop, hdone, chunkLength]
  rw [doneChunks, List.drop_append_of_le_length (by rw [List.length_take]; omega), hchunk, List.take_left' hlen]

/-- The next chunk done. -/
theorem overwritten_doneChunks (hdone : done.length = p) (hleft : left.length = p) (hk : k < chunks p) :
    overwritten (doneChunks done left k) (16 * k) ((done.drop (16 * k)).take (chunkLength p k)) =
      doneChunks done left (k + 1) := by
  have hlt := lt_of_lt_chunks hk
  have htake : (done.take (16 * k)).length = 16 * k := by rw [List.length_take]; omega
  have hfirst : (doneChunks done left k).take (16 * k) = done.take (16 * k) := List.take_left' htake
  have hrest : (doneChunks done left k).drop (16 * k + chunkLength p k) = left.drop (16 * (k + 1)) := by
    rw [← List.drop_drop, doneChunks_next hdone hk, List.drop_drop, chunkLength]
    rcases Nat.le_total 16 (p - 16 * k) with h | h
    · rw [Nat.min_eq_left h, Nat.mul_succ]
    · rw [Nat.min_eq_right h, List.drop_of_length_le (by omega), List.drop_of_length_le (by omega)]
  rw [overwritten, length_chunk hdone, hfirst, hrest, take_chunkLength hdone, ← List.take_add, ← Nat.mul_succ,
    doneChunks]

end DoneChunks

/-! ### The payload in sealing (R50, R52) -/

/-- The payload of a frame in sealing. -/
def Sealing.payload (r : Sealing) (s : State) : List Byte := sealingBytes s r 0 r.length

/-- The payload of a frame in sealing has its bytes: in the units of its descriptor, none of them twice, or in the
control buffer. -/
def Sealing.Held (r : Sealing) (s : State) : Prop :=
  match r.desc with
  | some d => Memory.wf s.store.mem = true ∧
      ∃ x, s.desc d = some x ∧ x.chain.Nodup ∧ r.length ≤ 64 * x.chain.length
  | none => r.length ≤ s.sealer.control.length

theorem Sealing.held_of_traffic {r : Sealing} {s : State} {d : DescNo} (hd : r.desc = some d) :
    r.Held s ↔ Memory.wf s.store.mem = true ∧
      ∃ x, s.desc d = some x ∧ x.chain.Nodup ∧ r.length ≤ 64 * x.chain.length := by
  simp only [Sealing.Held, hd]

theorem Sealing.held_of_control {r : Sealing} {s : State} (hd : r.desc = none) :
    r.Held s ↔ r.length ≤ s.sealer.control.length := by
  simp only [Sealing.Held, hd]

section Payload

variable {r : Sealing} {s : State} {d : DescNo}

theorem sealingBytes_traffic (hd : r.desc = some d) {x : Descriptor} (hx : s.desc d = some x) (j n : Nat) :
    sealingBytes s r j n = chainBytes s.store.mem x.chain j n := by
  simp only [sealingBytes, hd, frameUnits, hx]

theorem sealingBytes_control (hd : r.desc = none) (j n : Nat) :
    sealingBytes s r j n = (s.sealer.control.drop j).take n := by
  simp only [sealingBytes, hd]

theorem writeSealing_traffic (hd : r.desc = some d) {x : Descriptor} (hx : s.desc d = some x) (j : Nat)
    (bs : List Byte) : writeSealing r j bs s = s.writeUnits x.chain j bs := by
  simp only [writeSealing, hd, frameUnits, hx]

theorem writeSealing_control (hd : r.desc = none) (j : Nat) (bs : List Byte) :
    writeSealing r j bs s =
      { s with sealer := { s.sealer with control := overwritten s.sealer.control j bs } } := by
  simp only [writeSealing, hd, overwritten]

theorem Sealing.Held.length_payload (h : r.Held s) : (r.payload s).length = r.length := by
  cases hd : r.desc with
  | some d =>
    obtain ⟨_, x, hx, _, _⟩ := (held_of_traffic hd).1 h
    rw [payload, sealingBytes_traffic hd hx, length_chainBytes]
  | none =>
    rw [payload, sealingBytes_control hd, List.drop_zero, List.length_take,
      Nat.min_eq_left ((held_of_control hd).1 h)]

/-- Part of the payload. -/
theorem Sealing.Held.sealingBytes_eq (h : r.Held s) {j n : Nat} (hn : j + n ≤ r.length) :
    sealingBytes s r j n = ((r.payload s).drop j).take n := by
  cases hd : r.desc with
  | some d =>
    obtain ⟨_, x, hx, _, _⟩ := (held_of_traffic hd).1 h
    rw [payload, sealingBytes_traffic hd hx, sealingBytes_traffic hd hx, chainBytes_eq_take_drop _ _ hn]
  | none =>
    rw [payload, sealingBytes_control hd, sealingBytes_control hd, List.drop_zero, List.drop_take, List.take_take,
      Nat.min_eq_left (by omega)]

/-- The payload after some of its bytes are written over. -/
theorem Sealing.Held.payload_writeSealing (h : r.Held s) {j : Nat} {bs : List Byte} (hj : j + bs.length ≤ r.length) :
    r.payload (writeSealing r j bs s) = overwritten (r.payload s) j bs := by
  cases hd : r.desc with
  | some d =>
    obtain ⟨hwf, x, hx, hnodup, hlen⟩ := (held_of_traffic hd).1 h
    have hx' : (s.writeUnits x.chain j bs).desc d = some x := hx
    rw [payload, payload, writeSealing_traffic hd hx, sealingBytes_traffic hd hx, sealingBytes_traffic hd hx']
    exact chainBytes_writeChain hnodup hwf hj hlen
  | none =>
    have hlen := (held_of_control hd).1 h
    rw [payload, payload, writeSealing_control hd, sealingBytes_control hd, sealingBytes_control hd, List.drop_zero,
      List.drop_zero]
    refine List.ext_getElem? fun i => ?_
    rw [getElem?_overwritten (by rw [List.length_take, Nat.min_eq_left hlen]; exact hj)]
    by_cases hi : i < r.length
    · rw [List.getElem?_take_of_lt hi, List.getElem?_take_of_lt hi, getElem?_overwritten (by omega)]
    · rw [List.getElem?_take_eq_none (by omega), List.getElem?_take_eq_none (by omega),
        List.getElem?_eq_none (by omega)]
      simp

/-- A write into the payload keeps it held. -/
theorem Sealing.Held.write (h : r.Held s) (j : Nat) (bs : List Byte) : r.Held (writeSealing r j bs s) := by
  cases hd : r.desc with
  | some d =>
    obtain ⟨hwf, x, hx, hnodup, hlen⟩ := (held_of_traffic hd).1 h
    rw [writeSealing_traffic hd hx]
    exact (held_of_traffic hd).2 ⟨wf_writeChain _ _ _ _ hwf, x, hx, hnodup, hlen⟩
  | none =>
    have hlen := (held_of_control hd).1 h
    rw [writeSealing_control hd]
    refine (held_of_control hd).2 ?_
    simp only [overwritten, List.length_append, List.length_take, List.length_drop]
    omega

end Payload

/-! ### The operations of a sealing, one after another (R54) -/

section Operations

variable {r : Sealing}

theorem sealingOperation_cipher (r : Sealing) (k : Nat) (s : State) :
    sealingOperation r (2 * k + 1) s =
      (writeSealing r (16 * k) (xorBytes (sealingBytes s r (16 * k) (chunkLength r.length k))
        (blockBytes (encipher (s.slot r.slot).cipherKey
          (counterBlock r.link false r.epoch r.seq r.kind k)))) s, r.tagChain) := by
  have hhalf : (2 * k + 1) / 2 = k := by omega
  rw [sealingOperation, if_neg (by omega), if_pos (by omega), hhalf]

theorem sealingOperation_tag (r : Sealing) (k : Nat) (s : State) :
    sealingOperation r (2 * k + 2) s =
      (s, encipher (s.slot r.slot).integrityKey
        (r.tagChain ^^^ blockOf (sealingBytes s r (16 * k) (chunkLength r.length k)))) := by
  have hhalf : (2 * k + 2) / 2 - 1 = k := by omega
  rw [sealingOperation, if_neg (by omega), if_neg (by omega), hhalf]

/-- What every write into the payload keeps, the operations of a sealing keep. -/
theorem sealFor_keeps {P : State → Prop} (h : ∀ j bs s, P s → P (writeSealing r j bs s)) {s : State} (hs : P s) :
    ∀ n, P (sealFor r n s).1 := by
  intro n
  induction n with
  | zero => exact hs
  | succ n ih =>
    rw [sealFor, sealingOperation]
    dsimp only
    split
    · exact ih
    · split
      · exact h _ _ _ ih
      · exact ih

theorem writeSealing_slot (j : Nat) (bs : List Byte) (s : State) (k : SlotNo) :
    (writeSealing r j bs s).slot k = s.slot k := by
  unfold writeSealing
  split <;> rfl

theorem sealFor_slot (s : State) (n : Nat) (k : SlotNo) : (sealFor r n s).1.slot k = s.slot k :=
  sealFor_keeps (P := fun t => t.slot k = s.slot k) (fun j bs t ht => (writeSealing_slot j bs t k).trans ht) rfl n

theorem Sealing.Held.operations {s : State} (h : r.Held s) (n : Nat) : r.Held (sealFor r n s).1 :=
  sealFor_keeps (fun j bs _ ht => ht.write j bs) h n

/-- The keystream of a frame in sealing. -/
def Sealing.stream (r : Sealing) (s : State) : List Byte :=
  keystream r.link false r.epoch r.seq r.kind (s.slot r.slot).cipherKey r.length

/-- The ciphertext of a frame in sealing. -/
def Sealing.ciphertext (r : Sealing) (s : State) : List Byte := xorBytes (r.payload s) (r.stream s)

/-- The tag chain value after the first `k` chunks of a ciphertext (R53). -/
def Sealing.chainAfter (r : Sealing) (s : State) (k : Nat) : Block :=
  (List.range k).foldl
    (fun t i => encipher (s.slot r.slot).integrityKey (t ^^^ blockOf (((r.ciphertext s).drop (16 * i)).take 16)))
    (encipher (s.slot r.slot).integrityKey (tagStartBlock r.link false r.epoch r.seq r.kind r.length))

theorem Sealing.Held.length_ciphertext {s : State} (h : r.Held s) : (r.ciphertext s).length = r.length := by
  rw [ciphertext, length_xorBytes, h.length_payload, stream, length_keystream, Nat.min_self]

theorem Sealing.chainAfter_succ (r : Sealing) (s : State) (k : Nat) :
    r.chainAfter s (k + 1) = encipher (s.slot r.slot).integrityKey
      (r.chainAfter s k ^^^ blockOf (((r.ciphertext s).drop (16 * k)).take 16)) := by
  rw [chainAfter, List.range_succ, List.foldl_append]
  rfl

/-- One chunk of the payload enciphered is that chunk of the ciphertext. -/
theorem Sealing.Held.xor_chunk {s : State} (h : r.Held s) {k : Nat} (hk : k < chunks r.length) :
    xorBytes (((r.payload s).drop (16 * k)).take (chunkLength r.length k))
        (blockBytes (encipher (s.slot r.slot).cipherKey (counterBlock r.link false r.epoch r.seq r.kind k))) =
      ((r.ciphertext s).drop (16 * k)).take (chunkLength r.length k) := by
  rw [ciphertext, xorBytes_drop_take, stream, keystream_chunk hk, ← xorBytes_take, length_chunk h.length_payload]

/-- R52: the first operation of a chunk enciphers it, in a state where the chunks before it are. -/
theorem Sealing.Held.cipher_chunk {s t : State} (h : r.Held s) (ht : r.Held t)
    (hslot : t.slot r.slot = s.slot r.slot) {k : Nat} (hk : k < chunks r.length)
    (hdone : r.payload t = doneChunks (r.ciphertext s) (r.payload s) k) (chain : Block) :
    ∃ u, sealingOperation { r with tagChain := chain } (2 * k + 1) t = (u, chain) ∧
      r.payload u = doneChunks (r.ciphertext s) (r.payload s) (k + 1) := by
  have hcut := chunk_le hk
  have hchunk : xorBytes (sealingBytes t r (16 * k) (chunkLength r.length k))
      (blockBytes (encipher (t.slot r.slot).cipherKey (counterBlock r.link false r.epoch r.seq r.kind k))) =
        ((r.ciphertext s).drop (16 * k)).take (chunkLength r.length k) := by
    rw [hslot, ht.sealingBytes_eq hcut, hdone, doneChunks_next h.length_ciphertext hk, h.xor_chunk hk]
  refine ⟨_, sealingOperation_cipher _ k t, ?_⟩
  change r.payload (writeSealing r (16 * k) (xorBytes (sealingBytes t r (16 * k) (chunkLength r.length k))
    (blockBytes (encipher (t.slot r.slot).cipherKey (counterBlock r.link false r.epoch r.seq r.kind k)))) t) = _
  rw [hchunk, ht.payload_writeSealing (by rw [length_chunk h.length_ciphertext]; exact hcut), hdone,
    overwritten_doneChunks h.length_ciphertext h.length_payload hk]

/-- R53: the second operation of a chunk takes its ciphertext into the tag chain. -/
theorem Sealing.Held.tag_chunk {s t : State} (h : r.Held s) (ht : r.Held t)
    (hslot : t.slot r.slot = s.slot r.slot) {k : Nat} (hk : k < chunks r.length)
    (hdone : r.payload t = doneChunks (r.ciphertext s) (r.payload s) (k + 1)) :
    sealingOperation { r with tagChain := r.chainAfter s k } (2 * k + 2) t = (t, r.chainAfter s (k + 1)) := by
  have hchunk : sealingBytes t r (16 * k) (chunkLength r.length k) = ((r.ciphertext s).drop (16 * k)).take 16 := by
    rw [ht.sealingBytes_eq (chunk_le hk), hdone, doneChunks_last h.length_ciphertext hk]
  rw [Sealing.chainAfter_succ, ← hchunk, ← hslot]
  exact sealingOperation_tag _ k t

/-- R52 to R54: after the tag start block and the two operations of each of `k` chunks, those chunks are enciphered
and in the tag chain. -/
theorem Sealing.Held.sealFor_chunks {s : State} (h : r.Held s) : ∀ k, k ≤ chunks r.length →
    r.payload (sealFor r (2 * k + 1) s).1 = doneChunks (r.ciphertext s) (r.payload s) k ∧
      (sealFor r (2 * k + 1) s).2 = r.chainAfter s k := by
  intro k
  induction k with
  | zero => exact fun _ => ⟨rfl, rfl⟩
  | succ k ih =>
    intro hk
    obtain ⟨hpayload, hchain⟩ := ih (Nat.le_of_succ_le hk)
    obtain ⟨u, hcipher, hdone⟩ := h.cipher_chunk (h.operations (2 * k + 1)) (sealFor_slot s (2 * k + 1) r.slot) hk
      hpayload (sealFor r (2 * k + 1) s).2
    have htwo : sealFor r (2 * k + 2) s = (u, (sealFor r (2 * k + 1) s).2) := hcipher
    have hheld := h.operations (2 * k + 2)
    have hslot := sealFor_slot (r := r) s (2 * k + 2) r.slot
    rw [htwo] at hheld hslot
    have hthree : sealFor r (2 * k + 2 + 1) s = (u, r.chainAfter s (k + 1)) := by
      rw [sealFor, htwo, hchain]
      exact h.tag_chunk hheld hslot hk hdone
    rw [Nat.mul_succ, hthree]
    exact ⟨hdone, rfl⟩

/-- R52 to R54: the block operations of a sealing, all together. -/
theorem Sealing.Held.sealFor_all {s : State} (h : r.Held s) :
    r.payload (sealFor r (cost r.length) s).1 = r.ciphertext s ∧
      (sealFor r (cost r.length) s).2 =
        tagChainOf r.link false r.epoch r.seq r.kind (s.slot r.slot).integrityKey (r.ciphertext s) := by
  obtain ⟨hpayload, hchain⟩ := h.sealFor_chunks (chunks r.length) le_rfl
  rw [doneChunks_all h.length_ciphertext h.length_payload] at hpayload
  refine ⟨hpayload, hchain.trans ?_⟩
  rw [tagChainOf, h.length_ciphertext]
  rfl

/-- R52: a sealing in the units of a frame writes no other unit. -/
theorem sealFor_outside {s : State} {d : DescNo} {x : Descriptor} (hd : r.desc = some d) (hx : s.desc d = some x)
    (hwf : Memory.wf s.store.mem = true) {a : Nat} (ha : ∀ u ∈ x.chain, a / 64 ≠ u.val) (n : Nat) :
    Memory.read (sealFor r n s).1.store.mem a = Memory.read s.store.mem a := by
  have hkept := sealFor_keeps (r := r) (s := s) (P := fun t => t.desc d = some x ∧ Memory.wf t.store.mem = true ∧
    Memory.read t.store.mem a = Memory.read s.store.mem a) (fun j bs t ⟨hdesc, hmem, hread⟩ => by
      rw [writeSealing_traffic hd hdesc]
      exact ⟨hdesc, wf_writeChain _ _ _ _ hmem, (read_writeChain_of_notMem _ _ ha _ _ hmem).trans hread⟩)
    ⟨hx, hwf, rfl⟩ n
  exact hkept.2.2

/-- R50: a control frame's sealing writes no unit. -/
theorem sealFor_control_mem {s : State} (hd : r.desc = none) (n : Nat) :
    (sealFor r n s).1.store.mem = s.store.mem :=
  sealFor_keeps (P := fun t => t.store.mem = s.store.mem) (fun j bs t ht => by
    rw [writeSealing_control hd]
    exact ht) rfl n

theorem sealFor_desc (s : State) (n : Nat) (d : DescNo) : (sealFor r n s).1.desc d = s.desc d :=
  sealFor_keeps (P := fun t => t.desc d = s.desc d) (fun j bs t ht => by
    unfold writeSealing
    split <;> exact ht) rfl n

end Operations

end Sys2Proof.Machine

namespace Sys2Proof.Proofs

open Sys2Proof Sys2Proof.Machine

/-- Settles O12: after `2 * k + 1` block operations `k` chunks are enciphered and chained; after the last, all. -/
theorem sealingEnciphersTheFrame : Obligations.SealingEnciphersTheFrame := by
  unfold Obligations.SealingEnciphersTheFrame
  refine ⟨fun r s d x hmem hd hx hnodup hlen => ?_, fun r s hd hlen => ?_⟩
  · have hheld : r.Held s := (Sealing.held_of_traffic hd).2 ⟨hmem.1, x, hx, hnodup, hlen⟩
    obtain ⟨hpayload, hchain⟩ := hheld.sealFor_all
    have hplain : r.payload s = chainBytes s.store.mem x.chain 0 r.length := sealingBytes_traffic hd hx _ _
    rw [Sealing.payload, sealingBytes_traffic hd ((sealFor_desc s _ d).trans hx)] at hpayload
    rw [Sealing.ciphertext, hplain] at hpayload hchain
    exact ⟨hpayload, hchain, fun a ha => sealFor_outside hd hx hmem.1 ha _⟩
  · have hheld : r.Held s := (Sealing.held_of_control hd).2 hlen
    obtain ⟨hpayload, hchain⟩ := hheld.sealFor_all
    have hplain : ∀ t : State, r.payload t = t.sealer.control.take r.length := fun t => sealingBytes_control hd _ _
    rw [hplain] at hpayload
    rw [Sealing.ciphertext, hplain] at hpayload hchain
    exact ⟨hpayload, hchain, sealFor_control_mem hd _⟩

end Sys2Proof.Proofs
end

section
/-! The replay window of a key slot: which sequences are acceptable, and what an accepted one leaves (R62, R69). -/

namespace Sys2Proof.Machine

section Window

variable {x : KeySlot} {m n : Nat}

/-! ### The verdict on a sequence (R62) -/

theorem windowVerdict_badSeq (x : KeySlot) : windowVerdict x 0 = some .badSeq := rfl

theorem windowVerdict_stale (hn : 1 ≤ n) (hold : n + 64 ≤ x.highest) : windowVerdict x n = some .stale := by
  rw [windowVerdict, if_neg (by omega), if_pos (by omega), if_pos (by omega)]

theorem windowVerdict_repeated (hn : 1 ≤ n) (hle : n ≤ x.highest) (hin : x.highest < n + 64) (hm : n ∈ x.accepted) :
    windowVerdict x n = some .repeated := by
  rw [windowVerdict, if_neg (by omega), if_pos hle, if_neg (by omega), if_pos (List.contains_iff_mem.2 hm)]

theorem windowVerdict_acceptable (hn : 1 ≤ n) (h : x.highest < n ∨ (x.highest < n + 64 ∧ n ∉ x.accepted)) :
    windowVerdict x n = none := by
  rw [windowVerdict, if_neg (by omega)]
  split
  · next hle =>
    obtain ⟨hin, hm⟩ := h.resolve_left (by omega)
    rw [if_neg (by omega), if_neg fun hc => hm (List.contains_iff_mem.1 hc)]
  · rfl

/-- R62: a sequence is acceptable above the highest accepted, and within 63 below it while not in the set. -/
theorem windowVerdict_eq_none_iff : windowVerdict x n = none ↔
    1 ≤ n ∧ (x.highest < n ∨ (x.highest < n + 64 ∧ n ∉ x.accepted)) := by
  refine ⟨fun h => ?_, fun ⟨hn, hok⟩ => windowVerdict_acceptable hn hok⟩
  have hn : 1 ≤ n := Nat.one_le_iff_ne_zero.2 fun e => by rw [e, windowVerdict_badSeq] at h; cases h
  refine ⟨hn, or_iff_not_imp_left.2 fun hle => ?_⟩
  have hin : x.highest < n + 64 := Nat.not_le.1 fun hold => by rw [windowVerdict_stale hn hold] at h; cases h
  refine ⟨hin, fun hm => ?_⟩
  rw [windowVerdict_repeated hn (Nat.not_lt.1 hle) hin hm] at h
  cases h

/-! ### A sequence entered into the window (R69) -/

theorem insertDescending_perm {ms : List Nat} (h : n ∉ ms) : (insertDescending n ms).Perm (n :: ms) := by
  induction ms with
  | nil => exact .refl _
  | cons m ms ih =>
    obtain ⟨hne, hms⟩ := List.ne_and_not_mem_of_not_mem_cons h
    rw [insertDescending]
    split
    · exact .refl _
    · rw [if_neg hne.symm]
      exact ((ih hms).cons m).trans (.swap n m ms)

theorem enterWindow_above (h : x.highest < n) :
    enterWindow n x = { x with highest := n, accepted := n :: x.accepted.filter fun m => n ≤ m + 63 } :=
  if_pos h

theorem enterWindow_within (h : n ≤ x.highest) :
    enterWindow n x = { x with accepted := insertDescending n x.accepted } :=
  if_neg (Nat.not_lt.2 h)

theorem highest_enterWindow (n : Nat) (x : KeySlot) : (enterWindow n x).highest = max x.highest n := by
  rcases Nat.lt_or_ge x.highest n with h | h
  · rw [enterWindow_above h, Nat.max_eq_right h.le]
  · rw [enterWindow_within h, Nat.max_eq_left h]

/-- R69: an accepted sequence joins the set, and those more than 63 below a new highest leave it. -/
theorem mem_accepted_enterWindow (hn : windowVerdict x n = none) : m ∈ (enterWindow n x).accepted ↔
    m = n ∨ (m ∈ x.accepted ∧ (x.highest < n → n ≤ m + 63)) := by
  rcases Nat.lt_or_ge x.highest n with h | h
  · simp [enterWindow_above h, h]
  · have hnot : n ∉ x.accepted := ((windowVerdict_eq_none_iff.1 hn).2.resolve_left (by omega)).2
    simp [enterWindow_within h, (insertDescending_perm hnot).mem_iff, Nat.not_lt.2 h]

/-- Numbers within 63 of a highest, none twice, are at most 64. -/
theorem length_le_of_window {ms : List Nat} {top : Nat} (hnodup : ms.Nodup)
    (h : ∀ m ∈ ms, m ≤ top ∧ top ≤ m + 63) : ms.length ≤ 64 := by
  have hsub : ms ⊆ List.range' (top - 63) 64 := fun m hm => by
    obtain ⟨hle, hge⟩ := h m hm
    exact List.mem_range'_1.2 (by omega)
  simpa using (hnodup.subperm hsub).length_le

/-- R69: an accepted sequence leaves a window well kept. -/
theorem WindowOk.enterWindow (h : WindowOk x) (hn : windowVerdict x n = none) : WindowOk (enterWindow n x) := by
  obtain ⟨hnodup, hrange, hempty, htop, -⟩ := h
  obtain ⟨hpos, hok⟩ := windowVerdict_eq_none_iff.1 hn
  have hnodup' : (Machine.enterWindow n x).accepted.Nodup := by
    rcases Nat.lt_or_ge x.highest n with hlt | hle
    · rw [enterWindow_above hlt]
      refine List.nodup_cons.2 ⟨fun hm => ?_, hnodup.filter _⟩
      have := (hrange n (List.mem_of_mem_filter hm)).1
      omega
    · rw [enterWindow_within hle]
      have hnot := (hok.resolve_left (by omega)).2
      exact (insertDescending_perm hnot).nodup_iff.2 (List.nodup_cons.2 ⟨hnot, hnodup⟩)
  have hrange' : ∀ m ∈ (Machine.enterWindow n x).accepted, m ≤ (Machine.enterWindow n x).highest ∧
      (Machine.enterWindow n x).highest ≤ m + 63 ∧ m ≠ 0 := fun m hm => by
    rw [highest_enterWindow]
    rcases (mem_accepted_enterWindow hn).1 hm with rfl | ⟨hm, hkept⟩
    · have : x.highest < m + 64 := by omega
      omega
    · obtain ⟨hle, hge, hne⟩ := hrange m hm
      by_cases hlt : x.highest < n
      · have := hkept hlt
        omega
      · omega
  have hself : n ∈ (Machine.enterWindow n x).accepted := (mem_accepted_enterWindow hn).2 (.inl rfl)
  refine ⟨hnodup', hrange', fun e => absurd (e ▸ hself) List.not_mem_nil, fun _ => ?_,
    length_le_of_window hnodup' fun m hm => ⟨(hrange' m hm).1, (hrange' m hm).2.1⟩⟩
  rw [highest_enterWindow]
  rcases Nat.lt_or_ge x.highest n with hlt | hle
  · rwa [Nat.max_eq_right hlt.le]
  · have hne : x.accepted ≠ [] := fun e => by
      have := hempty e
      omega
    rw [Nat.max_eq_left hle]
    exact (mem_accepted_enterWindow hn).2 (.inr ⟨htop hne, by omega⟩)

/-- A sequence once entered stands in the window. -/
theorem windowVerdict_entered (hn : windowVerdict x n = none) :
    windowVerdict (enterWindow n x) n = some .repeated := by
  obtain ⟨hpos, hok⟩ := windowVerdict_eq_none_iff.1 hn
  have hhighest := highest_enterWindow n x
  exact windowVerdict_repeated hpos (by omega) (by omega) ((mem_accepted_enterWindow hn).2 (.inl rfl))

/-- A sequence that is not acceptable stays so: one that leaves the set is stale. -/
theorem windowVerdict_enterWindow_ne_none (hm : windowVerdict x m = none) (hn : windowVerdict x n ≠ none) :
    windowVerdict (enterWindow m x) n ≠ none := by
  intro hopen
  rw [windowVerdict_eq_none_iff, highest_enterWindow, mem_accepted_enterWindow hm] at hopen
  obtain ⟨hpos, hopen⟩ := hopen
  refine hn (windowVerdict_acceptable hpos (hopen.imp (by omega) fun ⟨hin, hnot⟩ => ⟨by omega, fun hmem => ?_⟩))
  exact hnot (.inr ⟨hmem, by omega⟩)

end Window

end Sys2Proof.Machine

namespace Sys2Proof.Proofs

open Sys2Proof Sys2Proof.Machine

/-- Settles O54: the highest accepted only rises, and a sequence leaves the set only as it becomes stale. -/
theorem windowNeverReopens : Obligations.WindowNeverReopens := by
  unfold Obligations.WindowNeverReopens
  intro x m n _ hm
  refine ⟨windowVerdict_entered hm, windowVerdict_enterWindow_ne_none hm, ?_⟩
  rw [highest_enterWindow]
  exact Nat.le_max_left _ _

end Sys2Proof.Proofs
end

section
/-! The replay windows through every step: an operation leaves the window of each key slot as it is or empties it,
and only an opening completion enters a sequence (R27, R29, R69). -/

namespace Sys2Proof.Machine

/-! ### Windows that stay or are emptied -/

/-- R69: the window of a key slot. -/
def windowOf (x : KeySlot) : Nat × List Nat := (x.highest, x.accepted)

/-- A key slot has the window that it had, or the empty one of its erasure or allocation. -/
def WindowStays (x y : KeySlot) : Prop := windowOf y = windowOf x ∨ windowOf y = (0, [])

theorem WindowStays.refl (x : KeySlot) : WindowStays x x := .inl rfl

theorem WindowStays.trans {x y z : KeySlot} (h : WindowStays x y) (h' : WindowStays y z) : WindowStays x z :=
  h'.elim (fun e => h.imp e.trans e.trans) .inr

theorem WindowStays.windowOk {x y : KeySlot} (h : WindowStays x y) (hx : WindowOk x) : WindowOk y := by
  unfold WindowOk at hx ⊢
  rcases h with e | e <;> obtain ⟨hhighest, haccepted⟩ := Prod.mk.inj e <;> rw [hhighest, haccepted]
  · exact hx
  · simp

/-- An acceptable sequence is acceptable to an empty window. -/
theorem WindowStays.acceptable {x y : KeySlot} (h : WindowStays x y) {n : Nat} (hn : windowVerdict x n = none) :
    windowVerdict y n = none := by
  rw [windowVerdict_eq_none_iff] at hn ⊢
  rcases h with e | e <;> obtain ⟨hhighest, haccepted⟩ := Prod.mk.inj e <;> rw [hhighest, haccepted]
  · exact hn
  · exact ⟨hn.1, .inl hn.1⟩

/-- The key slot and the sequence of the frame in opening. -/
def openingPlace (s : State) : Option (SlotNo × Nat) := s.opener.current.map fun r => (r.slot, r.seq)

theorem windowLaw_iff (s : State) : WindowLaw s ↔ (∀ k, WindowOk (s.slot k)) ∧
    ∀ p ∈ openingPlace s, windowVerdict (s.slot p.1) p.2 = none := by
  simp [WindowLaw, openingPlace]

/-- Every window stays or is emptied, and the frame in opening is under the slot and the sequence that it was. -/
structure WindowsStay (s t : State) : Prop where
  slot : ∀ k, WindowStays (s.slot k) (t.slot k)
  opening : openingPlace t = openingPlace s

theorem WindowsStay.refl (s : State) : WindowsStay s s := ⟨fun k => .refl (s.slot k), rfl⟩

theorem WindowLaw.of_stay {s t : State} (hs : WindowLaw s) (h : WindowsStay s t) : WindowLaw t := by
  rw [windowLaw_iff] at hs ⊢
  obtain ⟨hok, hopening⟩ := hs
  rw [h.opening]
  exact ⟨fun k => (h.slot k).windowOk (hok k), fun p hp => (h.slot p.1).acceptable (hopening p hp)⟩

namespace WindowsStay

variable {s t : State} (h : WindowsStay s t)
include h

/-! ### Changes of one part of the state -/

theorem of_same {u : State} (hs : u.keys.slots = t.keys.slots) (ho : openingPlace u = openingPlace t) :
    WindowsStay s u := by
  refine ⟨fun k => ?_, ho.trans h.opening⟩
  have e : u.slot k = t.slot k := congrArg (fun slots => tget slots k) hs
  exact e ▸ h.slot k

theorem modSlot {k : SlotNo} {f : KeySlot → KeySlot} (hf : WindowStays (t.slot k) (f (t.slot k))) :
    WindowsStay s (t.modSlot k f) := by
  refine ⟨fun i => ?_, h.opening⟩
  rw [State.slot_modSlot]
  split
  · next e =>
    subst e
    exact (h.slot k).trans hf
  · exact h.slot i

theorem modSlot_same {k : SlotNo} {f : KeySlot → KeySlot}
    (hf : ∀ x, windowOf (f x) = windowOf x := by exact fun _ => rfl) : WindowsStay s (t.modSlot k f) :=
  h.modSlot (.inl (hf _))

theorem modLink (l : LinkId) (f : Link → Link) : WindowsStay s (t.modLink l f) := h.of_same rfl rfl
theorem modRenewal (l : LinkId) (f : Renewal → Renewal) : WindowsStay s (t.modRenewal l f) := h.of_same rfl rfl
theorem setWaitList (w : List LinkId) : WindowsStay s (t.setWaitList w) := h.of_same rfl rfl
theorem setRequests (r : List DerivationRequest) : WindowsStay s (t.setRequests r) := h.of_same rfl rfl
theorem setDerivation (d : Option Derivation) : WindowsStay s (t.setDerivation d) := h.of_same rfl rfl
theorem setSealing (r : Option Sealing) : WindowsStay s (t.setSealing r) := h.of_same rfl rfl
theorem setSealRequests (r : List LinkId) : WindowsStay s (t.setSealRequests r) := h.of_same rfl rfl
theorem setDesc (d : DescNo) (x : Option Descriptor) : WindowsStay s (t.setDesc d x) := h.of_same rfl rfl
theorem setQueue (l : LinkId) (q : List DescNo) : WindowsStay s (t.setQueue l q) := h.of_same rfl rfl
theorem count (l : LinkId) (c : Counter) : WindowsStay s (t.count l c) := h.of_same rfl rfl
theorem modEvents (l : LinkId) (f : LinkEvents → LinkEvents) : WindowsStay s (t.modEvents l f) := h.of_same rfl rfl

theorem eventPending (l : LinkId) : WindowsStay s (t.setEventPending l) := by
  rcases setEventPending_cases l t with ⟨_, e⟩ | ⟨_, e⟩ <;> rw [e]
  · exact h
  · exact h.of_same rfl rfl

theorem grant : WindowsStay s (grant t) := by
  obtain ⟨engine, e⟩ := grant_rest t
  rw [e]
  exact h.of_same rfl rfl

/-! ### Key slots allocated, released and handed over -/

/-- R27: an allocated slot has an empty window. -/
theorem renewals {ls : List LinkId} {u : State} (hu : RenewalFrame ls t u) : WindowsStay s u := by
  refine ⟨fun k => (h.slot k).trans ?_, ?_⟩
  · rcases hu.slot k with e | ⟨_, l, epoch, e⟩ <;> rw [e]
    · exact .refl _
    · exact .inr rfl
  · rw [openingPlace, hu.rest]
    exact h.opening

theorem trigger (l : LinkId) : WindowsStay s (trigger l t) := h.renewals (trigger_frame l t)

theorem reevaluate (l : LinkId) : WindowsStay s (reevaluate l t) := h.renewals (reevaluate_frame l t)

theorem handOver : WindowsStay s (handOver t) := h.renewals (handOver_frame t).1

/-- R29: a released slot is erased, its window with it, or drains. -/
theorem released (ks : List SlotNo) : WindowsStay s (released ks t) := by
  refine ⟨fun k => (h.slot k).trans ?_, ?_⟩
  · rw [released_slot]
    split
    · split
      · exact .inr rfl
      · exact .inl rfl
    · exact .refl _
  · rw [openingPlace, released_opener]
    exact h.opening

theorem raiseInFlight (k : SlotNo) : WindowsStay s (raiseInFlight k t) := modSlot_same h

theorem lowerInFlight (k : SlotNo) : WindowsStay s (lowerInFlight k t) := by
  rcases lowerInFlight_cases k t with ⟨_, _, e⟩ | ⟨_, e⟩ <;> rw [e]
  · exact (h.modSlot (.inr rfl)).handOver
  · exact modSlot_same h

/-! ### Isolations, failures, cutovers and retirements -/

theorem isolate (l : LinkId) : WindowsStay s (isolate l t) := by
  rw [isolate_eq_isolated, isolated_eq]
  exact handOver (released (setWaitList (h.modLink l _) _) _)

theorem autoIsolate (l : LinkId) : WindowsStay s (autoIsolate l t) := by
  unfold Machine.autoIsolate
  split
  · exact (h.isolate l).eventPending l
  · exact h

theorem failRenewal (l : LinkId) : WindowsStay s (failRenewal l t) := by
  have hfailed : WindowsStay s (failed l t) := by
    rw [failed_eq_handOver]
    exact modRenewal (handOver (released (h.modLink l _) _)) l _
  rw [failRenewal_eq_failed]
  split
  · exact hfailed.autoIsolate l
  · exact hfailed.modRenewal l _

theorem retire (l : LinkId) : WindowsStay s (retire l t) := by
  rw [retire_eq_retired, retired_eq]
  exact reevaluate (modRenewal (handOver (released (h.modLink l _) _)) l _) l

theorem cutover (l : LinkId) : WindowsStay s (cutover l t) := by
  unfold Machine.cutover
  dsimp only
  rw [releaseSlots_eq_released]
  exact eventPending (handOver (released (h.modLink l _) _)) l

/-! ### Starts -/

theorem chargeSlot (k : SlotNo) (l : LinkId) (n : Nat) : WindowsStay s (chargeSlot k l n t) := by
  rw [chargeSlot_eq]
  split
  · exact trigger (modSlot_same h) l
  · exact modSlot_same h

theorem admitSealing (l : LinkId) (kind : FrameKind) (k : SlotNo) (seq p : Nat) (desc : Option DescNo)
    (payload : List Byte) : WindowsStay s (admitSealing l kind k seq p desc payload t) := by
  rw [admitSealing_eq]
  exact grant (of_same (raiseInFlight (chargeSlot (modSlot_same h) k l _) k) rfl rfl)

theorem startTraffic (l : LinkId) : WindowsStay s (startTraffic l t) := by
  unfold Machine.startTraffic
  split
  · split
    · split
      · exact admitSealing ((h.setQueue l _).modLink l _) _ _ _ _ _ _ _
      · exact trigger (h.modLink l _) l
    · exact h
  · exact h

theorem startControl (l : LinkId) (m : LaneMsg) : WindowsStay s (startControl l m t) := by
  unfold Machine.startControl
  split
  · split
    · split
      · exact h.admitSealing _ _ _ _ _ _ _
      · exact h.failRenewal l
    · exact h
  · have hcut := h.cutover l
    dsimp only
    split
    · split
      · exact hcut.admitSealing _ _ _ _ _ _ _
      · exact hcut
    · exact hcut

theorem startSealing : WindowsStay s (startSealing t) := by
  unfold Machine.startSealing
  split
  · next l rest _ _ =>
    have hlisted := h.setSealRequests rest
    dsimp only
    split
    · exact startControl (hlisted.modLink l _) l _
    · exact hlisted.startTraffic l
  · exact h

theorem rejectFrame (d : DescNo) (l : LinkId) (c : Counter) : WindowsStay s (rejectFrame d l c t) := by
  have hcounted : WindowsStay s ((t.freeFrame d).count l c) := (h.setDesc d none).count l c
  unfold Machine.rejectFrame countEpochEvent
  split
  · exact hcounted.modEvents l _
  · exact hcounted

theorem beginDerivation : WindowsStay s (beginDerivation t) := by
  unfold Machine.beginDerivation
  split
  · exact grant (setDerivation (raiseInFlight (h.setRequests _) _) _)
  · exact h

/-! ### Ends of operations -/

theorem freeSealed (r : Sealing) : WindowsStay s (freeSealed r t) := by
  unfold Machine.freeSealed
  split
  · exact h.setDesc _ none
  · exact h

theorem handToTransmitter (r : Sealing) : WindowsStay s (handToTransmitter r t) := by
  unfold Machine.handToTransmitter
  split <;> exact h.of_same rfl rfl

theorem reportSealed (r : Sealing) : WindowsStay s (reportSealed r t) := by
  unfold Machine.reportSealed
  split
  · unfold reportOffer
    split
    · exact h.modRenewal _ _
    · exact h
  · unfold reportCutover
    split
    · exact h.modRenewal _ _
    · exact h
  · exact h
  · exact h
  · exact h

theorem completeSealing (r : Sealing) : WindowsStay s (completeSealing r t) := by
  have htagged : WindowsStay s (writeTag r (tagOf r.tagChain) (t.setSealing none)) := by
    rcases writeTag_cases r (tagOf r.tagChain) (t.setSealing none) with ⟨_, e⟩ | ⟨d, _, e⟩ <;> rw [e] <;>
      exact h.of_same rfl rfl
  have hlowered := htagged.lowerInFlight r.slot
  unfold Machine.completeSealing
  dsimp only
  split
  · exact hlowered.freeSealed r
  · split
    · exact ((hlowered.count r.link _).handToTransmitter r).reportSealed r
    · exact (((hlowered.count r.link _).count r.link _).freeSealed r).reportSealed r

theorem handAccept (l : LinkId) (epoch : Nat) (echo ns : Nonce) : WindowsStay s (handAccept l epoch echo ns t) := by
  unfold Machine.handAccept
  dsimp only
  split
  · split
    · exact (h.modLink l _).setRequests _
    · exact h.modLink l _
  · exact h.count l _

theorem disposeGood (r : Opening) : WindowsStay s (disposeGood r t) := by
  unfold Machine.disposeGood
  dsimp only
  split
  · split
    · exact h.of_same rfl rfl
    · exact (h.setDesc _ none).count r.link _
  · exact (h.handAccept _ _ _ _).setDesc _ none
  · exact (h.trigger r.link).setDesc _ none
  · exact (h.setDesc _ none).count r.link _
  · exact (h.setDesc _ none).count r.link _

theorem reportEpoch (l : LinkId) (epoch : Nat) : WindowsStay s (reportEpoch l epoch t) := by
  unfold Machine.reportEpoch
  split
  · split
    · exact h.retire l
    · exact h
  · exact h

theorem completeDerivation (d : Derivation) : WindowsStay s (completeDerivation d t) := by
  have hcleared := h.setDerivation none
  unfold Machine.completeDerivation
  dsimp only
  split
  · have hready := hcleared.modSlot_same (k := d.request.slot) (f := keyedSlot d.results)
    split
    · exact modLink hready _ _
    · exact hready
  · exact hcleared.lowerInFlight _

/-! ### Expiries, teardowns and activations -/

theorem expireOffer (l : LinkId) : WindowsStay s (expireOffer l t) := by
  have hstopped := h.modRenewal l fun r => { r with offer := .stopped }
  unfold Machine.expireOffer
  dsimp only
  split
  · split
    · exact hstopped.modLink l _
    · exact hstopped.failRenewal l
  · exact hstopped

theorem expire (e : TimerName) (l : LinkId) : WindowsStay s (expire e l t) := by
  cases e with
  | interval => exact trigger (h.modRenewal l _) l
  | offer => exact h.expireOffer l
  | grace =>
    unfold Machine.expire expireGrace
    dsimp only
    split
    · exact retire (h.modRenewal l _) l
    · exact h.modRenewal l _
  | backoff =>
    unfold Machine.expire expireBackoff
    dsimp only
    split
    · exact reevaluate (modRenewal (h.modRenewal l _) l _) l
    · exact h.modRenewal l _

/-- R18: a teardown marks the frame in opening, and leaves its slot and its sequence. -/
theorem teardown (l : LinkId) : WindowsStay s (teardown l t) := by
  have hplace : openingPlace (tornDownState l t) = openingPlace t := by
    obtain ⟨_, _, e, _⟩ := disposeFrames_eq l t
    rw [tornDownState, e]
    change (t.opener.current.map (markedOpening l)).map _ = _
    rw [Option.map_map]
    refine congrArg (fun f => t.opener.current.map f) (funext fun r => ?_)
    simp only [Function.comp, markedOpening]
    split <;> rfl
  rw [teardown_eq]
  refine handOver (released ⟨fun k => ?_, hplace.trans h.opening⟩ _)
  rw [tornDownState_slot]
  exact h.slot k

theorem activateOn (l : LinkId) (k : SlotNo) : WindowsStay s (activateOn l k t) := by
  have hallocated : WindowsStay s (t.modSlot k fun _ => allocatedSlot l 0) := h.modSlot (.inr rfl)
  exact hallocated.of_same rfl rfl

end WindowsStay

/-! ### The law through openings and resets -/

theorem acceptable_of_preCheck {s : State} {x : Descriptor} {k : SlotNo} (h : preCheck s x = .ok k) :
    windowVerdict (s.slot k) (x.seq.getD 0) = none := by
  unfold preCheck at h
  split at h
  · cases h
  · split at h
    · cases h
    · next hverdict =>
      split at h
      · cases h
        exact hverdict
      · cases h

namespace WindowLaw

variable {s : State} (h : WindowLaw s)
include h

theorem closeOpening : WindowLaw (s.setOpening none) := ⟨h.1, fun _ e => nomatch e⟩

/-- R62: a frame goes into opening where its sequence is acceptable to the window of its slot. -/
theorem putOpening {r : Opening} (hr : windowVerdict (s.slot r.slot) r.seq = none) :
    WindowLaw (s.setOpening (some r)) :=
  ⟨h.1, fun _ e => Option.some.inj e ▸ hr⟩

/-- R61 to R63: the frame that becomes the frame in opening has passed its pre-checks. -/
theorem startOpening : WindowLaw (startOpening s) := by
  unfold Machine.startOpening
  split
  · next d rest _ _ =>
    have hlisted : WindowLaw (s.setOpenList rest) := h
    dsimp only
    split
    · next x _ =>
      split
      · next k hk =>
        have hstay := ((WindowsStay.refl (s.setOpenList rest)).chargeSlot k x.link (cost x.length)).raiseInFlight k
        exact ((hlisted.of_stay hstay).putOpening ((hstay.slot k).acceptable (acceptable_of_preCheck hk))).of_stay
          (WindowsStay.refl _).grant
      · exact hlisted.of_stay ((WindowsStay.refl _).rejectFrame d x.link _)
    · exact hlisted
  · exact h

/-- R69: with no frame in opening, a sequence acceptable to a slot's window is entered into it. -/
theorem enter (hopener : s.opener.current = none) {k : SlotNo} {n : Nat} (hn : windowVerdict (s.slot k) n = none) :
    WindowLaw (s.modSlot k (enterWindow n)) := by
  refine ⟨fun i => ?_, fun r hr => by rw [State.modSlot_opener, hopener] at hr; cases hr⟩
  rw [State.slot_modSlot]
  split
  · exact (h.1 k).enterWindow hn
  · exact h.1 i

/-- R69: an opening completion enters the sequence of the frame in opening, or leaves the windows. -/
theorem completeOpening {q r : Opening} (hq : s.opener.current = some q) (hr : r.slot = q.slot ∧ r.seq = q.seq) :
    WindowLaw (completeOpening r s) := by
  have hn : windowVerdict (s.slot r.slot) r.seq = none := by
    rw [hr.1, hr.2]
    exact h.2 q hq
  have hclosed := h.closeOpening
  unfold Machine.completeOpening
  dsimp only
  split
  · exact hclosed.of_stay (((WindowsStay.refl _).setDesc r.desc none).lowerInFlight r.slot)
  · split
    · exact (hclosed.enter rfl hn).of_stay
        ((((WindowsStay.refl _).lowerInFlight r.slot).reportEpoch r.link r.epoch).disposeGood r)
    · exact hclosed.of_stay
        (((((WindowsStay.refl _).setDesc r.desc none).count r.link _).modEvents r.link _).lowerInFlight r.slot)

end WindowLaw

theorem resetPart_windowLaw (cause : ResetCause) (input : Bool) (s : State) : WindowLaw (resetPart cause input s) := by
  have hslot : ∀ k, (resetPart cause input s).slot k = {} := fun k => by
    simp [resetPart, State.afterReset, KeyStore.reset, State.slot, tget]
  refine ⟨fun k => ?_, fun _ hr => nomatch hr⟩
  rw [hslot]
  simp [WindowOk]

/-! ### The law through every step -/

theorem windowLaw_engine : EngineKeep WindowLaw where
  written _ _ _ h := h
  sealing _ _ _ _ _ h := h
  sealed _ _ _ _ _ h := h.of_stay ((WindowsStay.refl _).completeSealing _)
  opening _ r _ _ hr h := h.putOpening (h.2 r hr)
  opened _ _ _ _ hr h := h.completeOpening hr ⟨rfl, rfl⟩
  derivation _ _ _ _ _ h := h
  derived _ _ _ _ _ h := h.of_stay ((WindowsStay.refl _).completeDerivation _)

theorem windowLaw_effects : EffectsKeep WindowLaw where
  refresh _ h := h
  draw _ _ h := h
  sealing _ _ _ h := h.of_stay (WindowsStay.refl _).startSealing
  opening _ _ h := h.startOpening
  derivation _ _ h := h.of_stay (WindowsStay.refl _).beginDerivation
  queue _ _ h := h
  host _ _ _ h := h
  traffic _ _ _ _ _ h := h
  sent _ _ _ _ _ h := h
  reset cause input s _ := resetPart_windowLaw cause input s
  report _ _ _ _ h := h
  holds _ _ _ _ _ h := h
  profile _ _ _ _ _ _ _ h := h
  root _ _ _ h := h
  activation _ l k _ _ h := h.of_stay ((WindowsStay.refl _).activateOn l k)
  isolation _ l _ h := h.of_stay ((WindowsStay.refl _).isolate l)
  resumption _ _ _ h := h
  triggered _ l h := h.of_stay ((WindowsStay.refl _).trigger l)
  torn _ l _ h := h.of_stay ((WindowsStay.refl _).teardown l)
  timers _ h := h
  offerTimer _ _ _ h := h
  expiry e l _ h := h.of_stay ((WindowsStay.refl _).expire e l)
  operation r s h := windowLaw_engine.endOperation r s h
  engine _ _ h := h
  outbound _ _ _ _ _ _ _ _ _ _ _ h := h
  dequeue s l n h := by
    obtain ⟨descs, e, _⟩ := freeFrames_eq ((s.queue l).take n) s
    rw [e]
    exact h
  units _ _ _ _ h := h
  trunk _ _ _ _ _ _ h := h
  monitor _ p _ _ h := by cases p <;> exact h
  reception s l h := by
    obtain ⟨_, _, e⟩ := abandonReception_eq l s
    rw [e]
    exact h
  transmission s l h := by
    obtain ⟨_, e, _⟩ := abandonTransmission_eq l s
    rw [e]
    exact h
  receiver _ _ _ _ h := h
  inbound _ _ _ _ _ _ _ _ h := h
  received _ _ _ _ _ h := h
  transmitter _ _ _ _ h := h
  transmitted _ _ _ _ _ h := h
  counts _ _ _ _ h := h
  policy _ _ _ _ h := h
  entries _ _ _ h := h

end Sys2Proof.Machine

namespace Sys2Proof.Proofs

open Sys2Proof Sys2Proof.Machine

/-- Settles O10: every operation leaves each window or empties it, but for the opening completion, which enters the
sequence that the law keeps acceptable; and so does every step. -/
theorem stepKeepsWindowLaw : Obligations.StepKeepsWindowLaw := by
  unfold Obligations.StepKeepsWindowLaw
  exact fun _ _ hs ht => windowLaw_effects.step hs ht

end Sys2Proof.Proofs
end

section
/-! The opening start: the pre-checks of the frame at the head of the open list, and its charge (R60 to R64). -/

namespace Sys2Proof.Machine

/-! ### The slot that an epoch resolves to (R61) -/

section Resolve

variable {s : State} {l : LinkId} {k : SlotNo} {epoch : Nat}

theorem resolveEpoch_current (hk : (s.link l).current = some k) (he : (s.slot k).epoch = epoch) :
    resolveEpoch s l epoch = if (s.slot k).state = .ready then .ok k else .error .noKey := by
  simp only [resolveEpoch, hk, he, if_true]

/-- An epoch that is not that of the current slot is looked for in the previous one. -/
theorem resolveEpoch_elsewhere (h : ∀ c, (s.link l).current = some c → (s.slot c).epoch ≠ epoch) :
    resolveEpoch s l epoch = resolvePrevious s (s.link l) epoch := by
  cases hc : (s.link l).current with
  | none => simp only [resolveEpoch, hc]
  | some c => simp only [resolveEpoch, hc, h c hc, if_false]

theorem resolveEpoch_previous (hk : (s.link l).previous = some k) (he : (s.slot k).epoch = epoch)
    (h : ∀ c, (s.link l).current = some c → (s.slot c).epoch ≠ epoch) : resolveEpoch s l epoch = .ok k := by
  rw [resolveEpoch_elsewhere h]
  simp only [resolvePrevious, hk, he, if_true]

theorem resolveEpoch_unknown
    (h : ∀ k, (s.link l).current = some k ∨ (s.link l).previous = some k → (s.slot k).epoch ≠ epoch) :
    resolveEpoch s l epoch = .error .unknownEpoch := by
  rw [resolveEpoch_elsewhere fun c hc => h c (.inl hc)]
  cases hp : (s.link l).previous with
  | none => simp only [resolvePrevious, hp]
  | some p => simp only [resolvePrevious, hp, h p (.inr hp), if_false]

end Resolve

/-! ### The pre-checks in their order (R61 to R63) -/

section PreCheck

variable {s : State} {x : Descriptor} {k : SlotNo} {epoch seq : Nat}

theorem preCheck_unresolved (he : x.epoch = some epoch) {c : Counter}
    (h : resolveEpoch s x.link epoch = .error c) : preCheck s x = .error c := by
  simp only [preCheck, he, Option.getD_some, h]

theorem preCheck_refused (he : x.epoch = some epoch) (hseq : x.seq = some seq)
    (h : resolveEpoch s x.link epoch = .ok k) {c : Counter} (hc : windowVerdict (s.slot k) seq = some c) :
    preCheck s x = .error c := by
  simp only [preCheck, he, hseq, Option.getD_some, h, hc]

theorem preCheck_acceptable (he : x.epoch = some epoch) (hseq : x.seq = some seq)
    (h : resolveEpoch s x.link epoch = .ok k) (hc : windowVerdict (s.slot k) seq = none) :
    preCheck s x = if (s.slot k).used + cost x.length ≤ openingLimit s x.link x.kind then .ok k
      else .error .budget := by
  simp only [preCheck, he, hseq, Option.getD_some, h, hc]

end PreCheck

/-! ### A frame rejected (R64) -/

theorem rejectFrame_counts {c : Counter} (h : c ≠ .unknownEpoch ∧ c ≠ .noKey) (d : DescNo) (l : LinkId) (s : State) :
    rejectFrame d l c s = (s.setDesc d none).count l c := by
  rw [rejectFrame, countEpochEvent, if_neg (not_or.2 h)]
  rfl

/-- R61, R143: both rejections for an epoch count its event. -/
theorem rejectFrame_epoch {c : Counter} (h : c = .unknownEpoch ∨ c = .noKey) (d : DescNo) (l : LinkId) (s : State) :
    rejectFrame d l c s = ((s.setDesc d none).count l c).modEvents l fun e =>
      { e with unknownEpoch := satInc e.unknownEpoch } := by
  rw [rejectFrame, countEpochEvent, if_pos h]
  rfl

/-! ### The opening start as a row (R60) -/

section OpeningStart

variable {s : State} {d : DescNo} {rest : List DescNo} {x : Descriptor}

theorem exec_openingStart (hidle : s.opener.current = none) (hwaiting : s.opener.waiting = d :: rest) :
    exec .openingStart s = .next (finish (startOpening s)) := by
  have hready : openerReady s = true := by simp [openerReady, hidle, hwaiting]
  change execOpeningStart s = _
  rw [execOpeningStart, if_pos hready]

theorem startOpening_rejects (hidle : s.opener.current = none) (hwaiting : s.opener.waiting = d :: rest)
    (hx : s.desc d = some x) {c : Counter} (hc : preCheck s x = .error c) :
    startOpening s = rejectFrame d x.link c (s.setOpenList rest) := by
  have hx' : (s.setOpenList rest).desc d = some x := hx
  have hc' : preCheck (s.setOpenList rest) x = .error c := hc
  simp only [startOpening, hidle, hwaiting, hx', hc']

theorem startOpening_charges (hidle : s.opener.current = none) (hwaiting : s.opener.waiting = d :: rest)
    (hx : s.desc d = some x) {k : SlotNo} (hk : preCheck s x = .ok k) :
    startOpening s = chargeOpening d x k (s.setOpenList rest) := by
  have hx' : (s.setOpenList rest).desc d = some x := hx
  have hk' : preCheck (s.setOpenList rest) x = .ok k := hk
  simp only [startOpening, hidle, hwaiting, hx', hk']

end OpeningStart

/-! ### The charge (R63) -/

theorem startRenewal_setOpenList (l : LinkId) (k : SlotNo) (w : List DescNo) (s : State) :
    startRenewal l k (s.setOpenList w) = (startRenewal l k s).setOpenList w := by
  cases hc : (s.link l).current with
  | none => rw [startRenewal_of_none hc, startRenewal_of_none (s := s.setOpenList w) hc]
  | some c =>
    rw [startRenewal_of_some hc, startRenewal_of_some (s := s.setOpenList w) hc]
    rfl

/-- A trigger neither reads nor changes the open list. -/
theorem trigger_setOpenList (l : LinkId) (w : List DescNo) (s : State) :
    trigger l (s.setOpenList w) = (trigger l s).setOpenList w := by
  have hfree : lowestFreeSlot (s.setOpenList w) = lowestFreeSlot s := rfl
  unfold trigger actOnTrigger
  rw [State.link_setOpenList, hfree]
  split
  · cases (s.link l).current with
    | none => rfl
    | some c =>
      dsimp only
      rw [State.slot_setOpenList]
      split
      · rfl
      · cases lowestFreeSlot s with
        | none => rfl
        | some k => exact startRenewal_setOpenList l k w s
  · rfl

theorem chargeSlot_setOpenList (k : SlotNo) (l : LinkId) (n : Nat) (w : List DescNo) (s : State) :
    chargeSlot k l n (s.setOpenList w) = (chargeSlot k l n s).setOpenList w := by
  have hlimit : hardLimit (s.setOpenList w) l = hardLimit s l := rfl
  rw [chargeSlot_eq, chargeSlot_eq, hlimit, State.slot_setOpenList]
  split
  · exact trigger_setOpenList l w (s.modSlot k (chargedSlot (softLimitOf (hardLimit s l)) n))
  · rfl

/-- R60: the opening record of a frame that passes its pre-checks. -/
def openedFrame (d : DescNo) (x : Descriptor) (k : SlotNo) (epoch seq : Nat) : Opening :=
  ⟨x.link, x.kind, k, epoch, seq, x.length, d, cost x.length, 0, false⟩

/-- R63: a frame that passes, before the unit is granted: its slot charged and in use, and its record filled. -/
def openedState (d : DescNo) (rest : List DescNo) (x : Descriptor) (k : SlotNo) (epoch seq : Nat) (s : State) :
    State :=
  ((raiseInFlight k (chargeSlot k x.link (cost x.length) s)).setOpenList rest).setOpening
    (some (openedFrame d x k epoch seq))

theorem chargeOpening_setOpenList {x : Descriptor} {epoch seq : Nat} (he : x.epoch = some epoch)
    (hseq : x.seq = some seq) (d : DescNo) (rest : List DescNo) (k : SlotNo) (s : State) :
    chargeOpening d x k (s.setOpenList rest) = grant (openedState d rest x k epoch seq s) := by
  rw [chargeOpening, chargeSlot_setOpenList, he, hseq]
  rfl

/-- R63: what a passed frame's charge does to its slot, and what it leaves of the rest. -/
theorem openedState_charges (d : DescNo) (rest : List DescNo) (x : Descriptor) {k : SlotNo} (epoch seq : Nat)
    {s : State} (hk : (s.slot k).state ≠ .free) :
    let soft := softLimitOf (hardLimit s x.link)
    let charged := chargedSlot soft (cost x.length) (s.slot k)
    let t := openedState d rest x k epoch seq s
    t.slot k = { charged with inFlight := (s.slot k).inFlight + 1 } ∧
    ChargeActs x.link k (reachesSoft soft (cost x.length) (s.slot k) = true ∧ (s.slot k).softCrossed = false)
      { s with keys := { s.keys with slots := tput s.keys.slots k charged } } t ∧
    t.engine = s.engine ∧ t.sealer = s.sealer ∧ t.faults = s.faults ∧ t.store = s.store ∧ t.trunk = s.trunk ∧
    t.host = s.host := by
  intro soft charged t
  obtain ⟨htrigger, hnone, hframe⟩ := chargeSlot_acts k x.link (cost x.length) s
  have ht : t = ((raiseInFlight k (chargeSlot k x.link (cost x.length) s)).setOpenList rest).setOpening
    (some (openedFrame d x k epoch seq)) := rfl
  clear_value t
  generalize chargeSlot k x.link (cost x.length) s = u at htrigger hnone hframe ht
  subst ht
  have hslot : u.slot k = charged := by
    have hself := State.slot_modSlot_self s k (chargedSlot soft (cost x.length))
    exact (hframe.slot_of_ne_free (by rw [hself]; exact hk)).trans hself
  refine ⟨?_, ⟨u, htrigger, hnone, rfl, rfl, rfl, rfl, rfl, rfl, fun j hj => raiseInFlight_slot_of_ne hj u⟩,
    ?_, ?_, ?_, ?_, ?_, ?_⟩
  · have hraised := raiseInFlight_slot_self k u
    rw [hslot] at hraised
    exact hraised
  · exact (congrArg State.engine hframe.rest :)
  · exact (congrArg State.sealer hframe.rest :)
  · exact (congrArg State.faults hframe.rest :)
  · exact (congrArg State.store hframe.rest :)
  · exact (congrArg State.trunk hframe.rest :)
  · exact (congrArg State.host hframe.rest :)

end Sys2Proof.Machine

namespace Sys2Proof.Proofs

open Sys2Proof Sys2Proof.Machine

/-- Settles O52: the pre-checks in their order, each with its rejection; and the charge of a frame that passes. -/
theorem openingStartChecksAndCharges : Obligations.OpeningStartChecksAndCharges := by
  unfold Obligations.OpeningStartChecksAndCharges
  intro s d rest x epoch seq hidle hwaiting hx he hseq taken reject
  have rejects : ∀ {c}, preCheck s x = .error c →
      exec .openingStart s = .next (finish (rejectFrame d x.link c taken)) := fun hc => by
    rw [exec_openingStart hidle hwaiting, startOpening_rejects hidle hwaiting hx hc]
    rfl
  refine ⟨fun k hk => ?_, fun hunknown => ?_, fun k hcurrent hepoch hstate => ?_⟩
  · have hresolve : resolveEpoch s x.link epoch = .ok k := by
      rcases hk with ⟨hcurrent, hepoch, hready⟩ | ⟨hprevious, hepoch, helse⟩
      · rw [resolveEpoch_current hcurrent hepoch, if_pos hready]
      · exact resolveEpoch_previous hprevious hepoch helse
    have refused : ∀ {c}, windowVerdict (s.slot k) seq = some c → c ≠ .unknownEpoch ∧ c ≠ .noKey →
        exec .openingStart s = .next (finish (reject c)) := fun hc hkind => by
      rw [rejects (preCheck_refused he hseq hresolve hc), rejectFrame_counts hkind]
    refine ⟨fun hzero => refused (hzero ▸ windowVerdict_badSeq _) (by decide),
      fun hpos hold => refused (windowVerdict_stale hpos hold) (by decide),
      fun hpos hle hin hmem => refused (windowVerdict_repeated hpos hle hin hmem) (by decide),
      fun hpos hopen => ?_⟩
    intro limit
    have hcheck := preCheck_acceptable he hseq hresolve (windowVerdict_acceptable hpos hopen)
    refine ⟨fun hover => ?_, fun hwithin hfree => ?_⟩
    · have hbudget : preCheck s x = .error .budget := hcheck.trans (if_neg (Nat.not_le.2 hover))
      rw [rejects hbudget, rejectFrame_counts (by decide)]
    · have hpassed : preCheck s x = .ok k := hcheck.trans (if_pos hwithin)
      obtain ⟨hslot, hacts, hrest⟩ := openedState_charges d rest x epoch seq hfree
      refine ⟨openedState d rest x k epoch seq s, ?_, rfl, ⟨hslot, hacts⟩, hrest⟩
      rw [exec_openingStart hidle hwaiting, startOpening_charges hidle hwaiting hx hpassed,
        chargeOpening_setOpenList he hseq]
  · rw [rejects (preCheck_unresolved he (resolveEpoch_unknown hunknown)), rejectFrame_epoch (.inl rfl)]
  · have hnoKey : resolveEpoch s x.link epoch = .error .noKey := by
      rw [resolveEpoch_current hcurrent hepoch, if_neg hstate]
    rw [rejects (preCheck_unresolved he hnoKey), rejectFrame_epoch (.inr rfl)]

end Sys2Proof.Proofs
end

section
/-! The block operations of a whole opening (R65, R66). -/

namespace Sys2Proof.Machine

/-- Bytes written into a chain leave its content behind them as it was. -/
theorem chainBytes_writeChain_behind {chain : List UnitNo} (hnodup : chain.Nodup) {mem : List Host.Cell}
    (hwf : Memory.wf mem = true) {j p : Nat} {bs : List Byte} (hj : j + bs.length ≤ p)
    (hp : p ≤ 64 * chain.length) (n : Nat) :
    chainBytes (writeChain chain j bs mem) chain p n = chainBytes mem chain p n := by
  refine List.map_congr_left fun i _ => ?_
  rw [chainByte_writeChain hnodup _ bs j mem hwf (by omega), if_pos (by omega),
    List.getElem?_eq_none (by omega), Option.getD_none]

/-- An exclusive-or with the same bytes taken twice. -/
theorem xorBytes_xorBytes {xs ys : List Byte} (h : xs.length = ys.length) : xorBytes (xorBytes xs ys) ys = xs := by
  refine List.ext_getElem (by simp [length_xorBytes, h]) fun i _ _ => ?_
  simp [xorBytes]

/-! ### The tag chain over the first chunks of some bytes (R53, R66) -/

/-- The tag chain value after the first `k` chunks of some bytes, from a first value on. -/
def chunksChained (ki : Key) (first : Block) (bytes : List Byte) (k : Nat) : Block :=
  (List.range k).foldl (fun t i => encipher ki (t ^^^ blockOf ((bytes.drop (16 * i)).take 16))) first

theorem chunksChained_succ (ki : Key) (first : Block) (bytes : List Byte) (k : Nat) :
    chunksChained ki first bytes (k + 1) =
      encipher ki (chunksChained ki first bytes k ^^^ blockOf ((bytes.drop (16 * k)).take 16)) := by
  rw [chunksChained, List.range_succ, List.foldl_append]
  rfl

theorem tagChainOf_eq_chunksChained (l : LinkId) (inbound : Bool) (epoch seq : Nat) (kind : FrameKind) (ki : Key)
    (bytes : List Byte) : tagChainOf l inbound epoch seq kind ki bytes =
      chunksChained ki (encipher ki (tagStartBlock l inbound epoch seq kind bytes.length)) bytes
        (chunks bytes.length) := rfl

/-! ### The frame in opening -/

/-- The frame of an opening stands in the units of its descriptor, none of them twice, its tag behind its payload. -/
structure Opening.Held (r : Opening) (x : Descriptor) (s : State) : Prop where
  wf : Memory.wf s.store.mem = true
  desc : s.desc r.desc = some x
  nodup : x.chain.Nodup
  room : r.length + 8 ≤ 64 * x.chain.length

/-- The payload bytes of a frame in opening as they stand in its units. -/
def Opening.payload (r : Opening) (x : Descriptor) (s : State) : List Byte :=
  chainBytes s.store.mem x.chain 0 r.length

/-- The keystream of a frame in opening. -/
def Opening.stream (r : Opening) (s : State) : List Byte :=
  keystream r.link true r.epoch r.seq r.kind (s.slot r.slot).cipherKey r.length

/-- The payload of a frame in opening, deciphered. -/
def Opening.plaintext (r : Opening) (x : Descriptor) (s : State) : List Byte :=
  xorBytes (r.payload x s) (r.stream s)

/-- The tag chain value after the first `k` chunks of a payload as received. -/
def Opening.chainAfter (r : Opening) (x : Descriptor) (s : State) (k : Nat) : Block :=
  chunksChained (s.slot r.slot).integrityKey
    (encipher (s.slot r.slot).integrityKey (tagStartBlock r.link true r.epoch r.seq r.kind r.length))
    (r.payload x s) k

section Opening

variable {r : Opening} {x : Descriptor} {s t : State} {k : Nat}

theorem Opening.length_payload (r : Opening) (x : Descriptor) (s : State) : (r.payload x s).length = r.length :=
  length_chainBytes _ _ _ _

theorem Opening.length_plaintext (r : Opening) (x : Descriptor) (s : State) :
    (r.plaintext x s).length = r.length := by
  rw [plaintext, length_xorBytes, length_payload, stream, length_keystream, Nat.min_self]

/-- One chunk of the payload deciphered is that chunk of the plaintext. -/
theorem Opening.xor_chunk (r : Opening) (x : Descriptor) (s : State) (hk : k < chunks r.length) :
    xorBytes (((r.payload x s).drop (16 * k)).take (chunkLength r.length k))
        (blockBytes (encipher (s.slot r.slot).cipherKey (counterBlock r.link true r.epoch r.seq r.kind k))) =
      ((r.plaintext x s).drop (16 * k)).take (chunkLength r.length k) := by
  rw [plaintext, xorBytes_drop_take, stream, keystream_chunk hk, ← xorBytes_take,
    length_chunk (r.length_payload x s)]

/-! ### The two operations of a chunk -/

/-- The chunk of the payload that stands in the frame's units. -/
def Opening.chunk (r : Opening) (x : Descriptor) (k : Nat) (s : State) : List Byte :=
  chainBytes s.store.mem x.chain (16 * k) (chunkLength r.length k)

/-- R65: the second operation of a chunk: its bytes deciphered in place. -/
def Opening.decipherChunk (r : Opening) (x : Descriptor) (k : Nat) (s : State) : State :=
  s.writeUnits x.chain (16 * k) (xorBytes (r.chunk x k s)
    (blockBytes (encipher (s.slot r.slot).cipherKey (counterBlock r.link true r.epoch r.seq r.kind k))))

theorem openingOperation_tag (hx : s.desc r.desc = some x) (k : Nat) :
    openingOperation r (2 * k + 1) s =
      (s, encipher (s.slot r.slot).integrityKey (r.tagChain ^^^ blockOf (r.chunk x k s))) := by
  have hhalf : (2 * k + 1) / 2 = k := by omega
  have hunits : frameUnits s r.desc = x.chain := by rw [frameUnits, hx]
  rw [openingOperation, if_neg (by omega), if_pos (by omega), hhalf, hunits, Opening.chunk]

theorem openingOperation_cipher (hx : s.desc r.desc = some x) (k : Nat) :
    openingOperation r (2 * k + 2) s = (r.decipherChunk x k s, r.tagChain) := by
  have hhalf : (2 * k + 2) / 2 - 1 = k := by omega
  have hunits : frameUnits s r.desc = x.chain := by rw [frameUnits, hx]
  rw [openingOperation, if_neg (by omega), if_neg (by omega), hhalf, hunits, Opening.decipherChunk, Opening.chunk]

/-! ### The payload with its first chunks deciphered -/

/-- A state in which the first `k` chunks of the frame in opening are deciphered, and the rest of the frame, its
tag and its key slot are as they were. -/
structure Opening.Deciphered (r : Opening) (x : Descriptor) (s : State) (k : Nat) (t : State) : Prop where
  held : r.Held x t
  slot : t.slot r.slot = s.slot r.slot
  payload : r.payload x t = doneChunks (r.plaintext x s) (r.payload x s) k
  tag : chainBytes t.store.mem x.chain r.length 8 = chainBytes s.store.mem x.chain r.length 8

theorem Opening.Held.received (h : r.Held x s) : r.Deciphered x s 0 s :=
  ⟨h, rfl, by simp [doneChunks], rfl⟩

/-- The next chunk stands as it was received. -/
theorem Opening.Deciphered.chunk_eq (h : r.Deciphered x s k t) (hk : k < chunks r.length) :
    r.chunk x k t = ((r.payload x s).drop (16 * k)).take (chunkLength r.length k) := by
  have hpayload := h.payload
  rw [Opening.payload] at hpayload
  rw [chunk, chainBytes_eq_take_drop _ _ (chunk_le hk), hpayload, doneChunks_next (r.length_plaintext x s) hk]

/-- R65: the next chunk deciphered. -/
theorem Opening.Deciphered.decipher (h : r.Deciphered x s k t) (hk : k < chunks r.length) :
    r.Deciphered x s (k + 1) (r.decipherChunk x k t) := by
  obtain ⟨hwf, hdesc, hnodup, hroom⟩ := h.held
  have hbytes : r.decipherChunk x k t =
      t.writeUnits x.chain (16 * k) (((r.plaintext x s).drop (16 * k)).take (chunkLength r.length k)) := by
    rw [decipherChunk, h.chunk_eq hk, h.slot, r.xor_chunk x s hk]
  have hcut : 16 * k + (((r.plaintext x s).drop (16 * k)).take (chunkLength r.length k)).length ≤ r.length := by
    rw [length_chunk (r.length_plaintext x s)]
    exact chunk_le hk
  rw [hbytes]
  refine ⟨⟨wf_writeChain _ _ _ _ hwf, hdesc, hnodup, hroom⟩, h.slot, ?_, ?_⟩
  · refine (chainBytes_writeChain hnodup hwf hcut (by omega)).trans ?_
    change overwritten (r.payload x t) _ _ = _
    rw [h.payload, overwritten_doneChunks (r.length_plaintext x s) (r.length_payload x s) hk]
  · exact (chainBytes_writeChain_behind hnodup hwf hcut (by omega) 8).trans h.tag

/-- R66: the first operation of a chunk takes it into the tag chain as it was received. -/
theorem Opening.Deciphered.chain (h : r.Deciphered x s k t) (hk : k < chunks r.length) :
    openingOperation { r with tagChain := r.chainAfter x s k } (2 * k + 1) t = (t, r.chainAfter x s (k + 1)) := by
  have hchunk : r.chunk x k t = ((r.payload x s).drop (16 * k)).take 16 := by
    rw [h.chunk_eq hk, take_chunkLength (r.length_payload x s)]
  rw [openingOperation_tag (r := { r with tagChain := r.chainAfter x s k }) h.held.desc, chainAfter, chainAfter,
    chunksChained_succ, ← hchunk, ← h.slot]
  rfl

/-- R65, R66: after the tag start block and the two operations of each of `k` chunks, those chunks are in the tag
chain as received, and deciphered. -/
theorem Opening.Held.openFor_chunks (h : r.Held x s) : ∀ k, k ≤ chunks r.length →
    ∃ t, r.Deciphered x s k t ∧ openFor r (2 * k + 1) s = (t, r.chainAfter x s k) := by
  intro k
  induction k with
  | zero => exact fun _ => ⟨s, h.received, rfl⟩
  | succ k ih =>
    intro hk
    obtain ⟨t, ht, hopen⟩ := ih (Nat.le_of_succ_le hk)
    have htwo : openFor r (2 * k + 2) s = (t, r.chainAfter x s (k + 1)) := by
      rw [openFor, hopen]
      exact ht.chain hk
    refine ⟨_, ht.decipher hk, ?_⟩
    rw [Nat.mul_succ, openFor, htwo]
    exact openingOperation_cipher (r := { r with tagChain := r.chainAfter x s (k + 1) }) ht.held.desc k

/-- R65, R66: the block operations of an opening, all together. -/
theorem Opening.Held.openFor_all (h : r.Held x s) :
    (openFor r (cost r.length) s).2 =
      tagChainOf r.link true r.epoch r.seq r.kind (s.slot r.slot).integrityKey (r.payload x s) ∧
    r.payload x (openFor r (cost r.length) s).1 = r.plaintext x s ∧
    chainBytes (openFor r (cost r.length) s).1.store.mem x.chain r.length 8 =
      chainBytes s.store.mem x.chain r.length 8 := by
  obtain ⟨t, ht, hopen⟩ := h.openFor_chunks (chunks r.length) le_rfl
  have hall : openFor r (cost r.length) s = (t, r.chainAfter x s (chunks r.length)) := hopen
  rw [hall, tagChainOf_eq_chunksChained, r.length_payload x s]
  refine ⟨rfl, ht.payload.trans ?_, ht.tag⟩
  exact doneChunks_all (r.length_plaintext x s) (r.length_payload x s)

end Opening

end Sys2Proof.Machine

namespace Sys2Proof.Proofs

open Sys2Proof Sys2Proof.Machine

/-- Settles O13: after `2 * k + 1` block operations `k` chunks are chained as received, and deciphered; after the
last, all. The same keystream taken twice gives a sealed payload back. -/
theorem openingDeciphersTheFrame : Obligations.OpeningDeciphersTheFrame := by
  unfold Obligations.OpeningDeciphersTheFrame
  intro r s x hmem hx hnodup hlen received stream t
  have hheld : r.Held x s := ⟨hmem.1, hx, hnodup, hlen⟩
  obtain ⟨hchain, hpayload, htag⟩ := hheld.openFor_all
  refine ⟨hchain, hpayload, htag, fun plain hlength hsealed => ?_⟩
  have hdeciphered : chainBytes t.1.store.mem x.chain 0 r.length = xorBytes received stream := hpayload
  rw [hdeciphered, hsealed, xorBytes_xorBytes (hlength.trans (length_keystream _ _ _ _ _ _ _).symm)]

end Sys2Proof.Proofs
end

section
/-! RENEW and the renewal triggers. -/

namespace Sys2Proof.Machine

theorem atLastEpoch_of_current {s : State} {l : LinkId} {c : SlotNo} (hc : (s.link l).current = some c) :
    atLastEpoch s l = decide ((s.slot c).epoch = 65535) := by
  rw [atLastEpoch, hc]

/-- R79, R96: RENEW of an ACTIVE, QUIET link without a pending trigger: refused at the last epoch, and a trigger
below it. -/
theorem renewCommand_quiet {s : State} {link : Byte} {l : LinkId} {c : SlotNo} (hl : linkOfByte link = some l)
    (hactive : (s.link l).state = .active) (hquiet : (s.link l).renewal.state = .quiet)
    (hpending : (s.link l).renewal.pendingTrigger = false) (hc : (s.link l).current = some c) :
    renewCommand link s = if (s.slot c).epoch = 65535 then refuse .wrongState s else ok (trigger l s) := by
  simp [renewCommand, onLink_some hl, hactive, hquiet, hpending, atLastEpoch_of_current hc]

/-- R96: RENEW of an ACTIVE link with a renewal under way or pending is refused. -/
theorem renewCommand_renewing {s : State} {link : Byte} {l : LinkId} (hl : linkOfByte link = some l)
    (hactive : (s.link l).state = .active)
    (hbusy : (s.link l).renewal.state ≠ .quiet ∨ (s.link l).renewal.pendingTrigger = true) :
    renewCommand link s = refuse .renewing s := by
  rw [renewCommand, onLink_some hl]
  exact (if_neg (not_not_intro hactive)).trans (if_pos hbusy)

end Sys2Proof.Machine

namespace Sys2Proof.Proofs

open Sys2Proof Sys2Proof.Machine

/-- Settles O27: a trigger acts as R77 to R81 list it, and RENEW is a trigger wherever it is not refused. -/
theorem renewActsAsATrigger : Obligations.RenewActsAsATrigger := by
  unfold Obligations.RenewActsAsATrigger
  refine ⟨fun s l => triggerActs_trigger l s, fun s tag link l h hl hactive => ⟨fun hbusy => ?_, fun c hquiet hpending hc => ?_⟩⟩
  · exact commandArrives_of_takesAtOnce h (Nat.le_of_ble_eq_true rfl) (renewCommand_renewing hl hactive hbusy)
  · have hrenew := renewCommand_quiet hl hactive hquiet hpending hc
    refine ⟨fun hlast => ?_, fun hbelow => ?_⟩
    · rw [if_pos hlast] at hrenew
      exact commandArrives_of_takesAtOnce h (Nat.le_of_ble_eq_true rfl) hrenew
    · rw [if_neg hbelow] at hrenew
      have htrigger : ∀ t, trigger l s = t → exec (.renew tag link) s = .next (replied tag .ok [] t) :=
        fun t ht => commandArrives_of_takesAtOnce h (Nat.le_of_ble_eq_true rfl) (ht ▸ hrenew)
      obtain ⟨hstarts, hwaits⟩ := (triggerActs_trigger l s).1 ⟨hactive, hquiet, hpending, c, hc, hbelow⟩
      exact ⟨fun k hfree hlow => htrigger _ (hstarts k hfree hlow), fun hnone => htrigger _ (hwaits hnone)⟩

end Sys2Proof.Proofs
end

section
/-! The selection of a port: the effects of a switch, and the circuits that follow it, for PORT_MODE and for the
events of a port alike. -/

namespace Sys2Proof.Machine

/-! ### The circuits that follow a change (R83, R132) -/

/-- R83, R132: an offer timer over a change of its link's circuit. -/
def followedTimer (was up : Bool) (t : Timer) : Timer :=
  match was, up with
  | true, false => t.pause
  | false, true => t.resume
  | true, true => t
  | false, false => t

/-- R132: a receiver over a change of its link's circuit. -/
def followedReceiver (was up : Bool) (r : Receiver) : Receiver := if was = true ∧ up = false then .hunt else r

/-- R83: a link context over a change of its circuit. -/
def followedLink (was up : Bool) (k : Link) : Link :=
  { k with renewal := { k.renewal with offer := followedTimer was up k.renewal.offer } }

theorem followedTimer_self (was : Bool) (t : Timer) : followedTimer was was t = t := by cases was <;> rfl

theorem followedLink_self (was : Bool) (k : Link) : followedLink was was k = k := by
  rw [followedLink, followedTimer_self]

theorem followedReceiver_self (was : Bool) (r : Receiver) : followedReceiver was was r = r := by
  cases was <;> rfl

theorem offerFollowing_eq (s t : State) (l : LinkId) :
    offerFollowing s t l = followedTimer (circuitUp s l) (circuitUp t l) (s.link l).renewal.offer := by
  unfold offerFollowing
  cases circuitUp s l <;> cases circuitUp t l <;> rfl

theorem reconcileCircuit_of_same {before s : State} {l : LinkId} (h : circuitUp before l = circuitUp s l) :
    reconcileCircuit before s l = s := by
  unfold reconcileCircuit
  rw [h]
  cases circuitUp s l <;> rfl

/-- R132: one link's circuit followed: its timer and its receiver, and the descriptor of a frame it abandons. -/
theorem reconcileCircuit_follows (before s : State) (j : LinkId) : ∃ descs,
    reconcileCircuit before s j = { s with
      links := tput s.links j (followedLink (circuitUp before j) (circuitUp s j) (s.link j))
      trunk := { s.trunk with
        receivers :=
          tput s.trunk.receivers j (followedReceiver (circuitUp before j) (circuitUp s j) (s.receiver j)) }
      store := { s.store with descs := descs } } := by
  have hlinks : tput s.links j (s.link j) = s.links := tput_tget _ _
  have hreceivers : tput s.trunk.receivers j (s.receiver j) = s.trunk.receivers := tput_tget _ _
  by_cases hsame : circuitUp before j = circuitUp s j
  · refine ⟨s.store.descs, ?_⟩
    rw [reconcileCircuit_of_same hsame, hsame, followedLink_self, followedReceiver_self, hlinks, hreceivers]
  · unfold reconcileCircuit
    cases hb : circuitUp before j <;> cases hs : circuitUp s j
    · exact absurd (hb.trans hs.symm) hsame
    · refine ⟨s.store.descs, ?_⟩
      have hkept : followedReceiver false true (s.receiver j) = s.receiver j := rfl
      rw [hkept, hreceivers]
      rfl
    · obtain ⟨descs, h, _⟩ := abandonReception_eq_hunt j s
      refine ⟨descs, ?_⟩
      dsimp only [circuitGoesDown]
      rw [h]
      rfl
    · exact absurd (hb.trans hs.symm) hsame

/-- R132: every circuit of a list followed, one after another. -/
theorem foldl_reconcileCircuit (before : State) : ∀ (ls : List LinkId) (s : State), ls.Nodup →
    ∃ links receivers descs,
      ls.foldl (reconcileCircuit before) s = { s with
        links := links, trunk := { s.trunk with receivers := receivers }
        store := { s.store with descs := descs } } ∧
      ∀ l, tget links l =
          (if l ∈ ls then followedLink (circuitUp before l) (circuitUp s l) (s.link l) else s.link l) ∧
        tget receivers l =
          if l ∈ ls then followedReceiver (circuitUp before l) (circuitUp s l) (s.receiver l)
          else s.receiver l := by
  intro ls
  induction ls with
  | nil => exact fun s _ => ⟨s.links, s.trunk.receivers, s.store.descs, rfl, fun l => ⟨rfl, rfl⟩⟩
  | cons j ls ih =>
    intro s hnodup
    obtain ⟨hj, hls⟩ := List.nodup_cons.1 hnodup
    obtain ⟨descs, hstep⟩ := reconcileCircuit_follows before s j
    obtain ⟨links, receivers, last, hfold, hl⟩ := ih (reconcileCircuit before s j) hls
    have hup : ∀ l, circuitUp (reconcileCircuit before s j) l = circuitUp s l := fun l => by
      rw [hstep]
      exact circuitUp_congr rfl rfl rfl rfl l
    have hlink : ∀ l, (reconcileCircuit before s j).link l =
        if j = l then followedLink (circuitUp before j) (circuitUp s j) (s.link j) else s.link l := fun l => by
      rw [hstep]
      exact tget_tput _ _ _ _
    have hreceiver : ∀ l, (reconcileCircuit before s j).receiver l =
        if j = l then followedReceiver (circuitUp before j) (circuitUp s j) (s.receiver j)
        else s.receiver l := fun l => by
      rw [hstep]
      exact tget_tput _ _ _ _
    refine ⟨links, receivers, last, ?_, fun l => ?_⟩
    · rw [List.foldl_cons, hfold, hstep]
    · obtain ⟨hk, hr⟩ := hl l
      rw [hk, hr, hup, hlink, hreceiver]
      by_cases h : j = l
      · subst h
        simp [hj]
      · simp [h, Ne.symm h]

/-- R83, R132: what following every circuit leaves, link by link and receiver by receiver. -/
theorem reconcileCircuits_follows (before s : State) : ∃ links receivers descs,
    reconcileCircuits before s = { s with
      links := links, trunk := { s.trunk with receivers := receivers }
      store := { s.store with descs := descs } } ∧
    ∀ l, tget links l = followedLink (circuitUp before l) (circuitUp s l) (s.link l) ∧
      tget receivers l = followedReceiver (circuitUp before l) (circuitUp s l) (s.receiver l) := by
  obtain ⟨links, receivers, descs, h, hl⟩ := foldl_reconcileCircuit before (allFin 64) s (List.nodup_finRange 64)
  exact ⟨links, receivers, descs, h, fun l => by simpa using hl l⟩

/-- Where no circuit changes there is nothing to follow. -/
theorem reconcileCircuits_of_same {before s : State} (h : ∀ l, circuitUp before l = circuitUp s l) :
    reconcileCircuits before s = s :=
  List.foldlRecOn (motive := fun t => t = s) _ _ rfl fun _ ht l _ => by
    rw [ht, reconcileCircuit_of_same (h l)]

/-! ### A switch (R125) -/

/-- R125: the receivers of a list of links returned to HUNT, one after another. -/
theorem foldl_abandonReception (ls : List LinkId) : ∀ s : State, ∃ receivers descs,
    ls.foldl (fun s l => abandonReception l s) s = { s with
      trunk := { s.trunk with receivers := receivers }, store := { s.store with descs := descs } } ∧
    ∀ l, tget receivers l = if l ∈ ls then .hunt else s.receiver l := by
  induction ls with
  | nil => exact fun s => ⟨s.trunk.receivers, s.store.descs, rfl, fun _ => rfl⟩
  | cons j ls ih =>
    intro s
    obtain ⟨descs, hstep, _⟩ := abandonReception_eq_hunt j s
    obtain ⟨receivers, last, hfold, hr⟩ := ih (abandonReception j s)
    have hreceiver : ∀ l, (abandonReception j s).receiver l = if j = l then .hunt else s.receiver l := fun l => by
      rw [hstep]
      exact tget_tput _ _ _ _
    refine ⟨receivers, last, ?_, fun l => ?_⟩
    · rw [List.foldl_cons, hfold, hstep]
    · rw [hr, hreceiver]
      by_cases h : j = l
      · simp [h]
      · simp [h, Ne.symm h]

/-- R125: a switch leaves every receiver in HUNT, and moves and counts the selection. -/
theorem switchTo_eq (p : Port) (s : State) : ∃ receivers descs,
    switchTo p s = { s with
      trunk := { s.trunk with
        receivers := receivers, selected := p, switchCount := satInc s.trunk.switchCount }
      store := { s.store with descs := descs }
      faults := { s.faults with protectionSwitches := satInc s.faults.protectionSwitches } } ∧
    ∀ l, tget receivers l = .hunt := by
  obtain ⟨receivers, descs, h, hr⟩ := foldl_abandonReception (allFin 64) s
  refine ⟨receivers, descs, ?_, fun l => by simpa using hr l⟩
  simp only [switchTo, h]
  rfl

/-! ### A port selected, and the circuits as they follow -/

/-- R83, R125, R132: `t` is the part `s` with its trunk as in `v` and a port then selected: where that moves the
selection, every receiver is in HUNT and the switch is counted twice over; and every circuit has been followed. -/
structure Reselected (v : Trunk) (p : Port) (s t : State) : Prop where
  rest : t = { s with
    links := t.links
    trunk := { v with
      receivers := t.trunk.receivers, selected := p, switchCount := t.trunk.switchCount }
    store := { s.store with descs := t.store.descs }
    faults := { s.faults with protectionSwitches := t.faults.protectionSwitches } }
  stays : p = s.trunk.selected → t.trunk.switchCount = s.trunk.switchCount
  moves : p ≠ s.trunk.selected → t.trunk.switchCount = satInc s.trunk.switchCount ∧
    t.faults.protectionSwitches = satInc s.faults.protectionSwitches
  link : ∀ l, t.link l = { s.link l with
    renewal := { (s.link l).renewal with offer := offerFollowing s t l } }
  receiver : ∀ l, t.receiver l =
    if p ≠ s.trunk.selected ∨ (circuitUp s l = true ∧ circuitUp t l = false) then .hunt else s.receiver l

namespace Reselected

variable {v : Trunk} {p : Port} {s t : State} (h : Reselected v p s t)
include h

theorem trunk : t.trunk = { v with
    receivers := t.trunk.receivers, selected := p, switchCount := t.trunk.switchCount } :=
  (congrArg State.trunk h.rest :)

theorem selected : t.trunk.selected = p := (congrArg Trunk.selected h.trunk :)
theorem mode : t.trunk.mode = v.mode := (congrArg Trunk.mode h.trunk :)
theorem live : t.trunk.live = v.live := (congrArg Trunk.live h.trunk :)
theorem shadow : t.trunk.shadow = v.shadow := (congrArg Trunk.shadow h.trunk :)
theorem transmitters : t.trunk.transmitters = v.transmitters := (congrArg Trunk.transmitters h.trunk :)

theorem monitor (q : Port) : t.monitor q = ({ s with trunk := v } : State).monitor q := by
  cases q
  · exact (congrArg Trunk.monitorA h.trunk :)
  · exact (congrArg Trunk.monitorB h.trunk :)

theorem keys : t.keys = s.keys := (congrArg State.keys h.rest :)
theorem engine : t.engine = s.engine := (congrArg State.engine h.rest :)
theorem sealer : t.sealer = s.sealer := (congrArg State.sealer h.rest :)
theorem opener : t.opener = s.opener := (congrArg State.opener h.rest :)
theorem host : t.host = s.host := (congrArg State.host h.rest :)
theorem mem : t.store.mem = s.store.mem := (congrArg (fun u => u.store.mem) h.rest :)
theorem queues : t.store.queues = s.store.queues := (congrArg (fun u => u.store.queues) h.rest :)
theorem delivery : t.store.delivery = s.store.delivery := (congrArg (fun u => u.store.delivery) h.rest :)

/-- R125: a selection that moves returns every receiver to HUNT. -/
theorem hunts (hp : p ≠ s.trunk.selected) (l : LinkId) : t.receiver l = .hunt :=
  (h.receiver l).trans (if_pos (.inl hp))

end Reselected

/-- A port selected in a part whose trunk has changed but for its receivers, its selection and its switch count. -/
theorem reselected {v : Trunk} {s : State} (hreceivers : v.receivers = s.trunk.receivers)
    (hselected : v.selected = s.trunk.selected) (hcount : v.switchCount = s.trunk.switchCount) (p : Port) :
    Reselected v p s (reconcileCircuits s (selectPort p { s with trunk := v })) := by
  have hreceiver : ∀ l, ({ s with trunk := v } : State).receiver l = s.receiver l := fun l => by
    rw [State.receiver, hreceivers, State.receiver]
  have hfollow := reconcileCircuits_follows s (selectPort p { s with trunk := v })
  have hup := circuitUp_reconcileCircuits s (selectPort p { s with trunk := v })
  obtain ⟨links, receivers, descs, h, hl⟩ := hfollow
  generalize reconcileCircuits s (selectPort p { s with trunk := v }) = t at h hup ⊢
  simp only [← hup] at hl
  have hlinks : t.links = links := by rw [h]
  have hheld : t.trunk.receivers = receivers := by rw [h]
  by_cases hp : p = s.trunk.selected
  · have hstay : selectPort p { s with trunk := v } = { s with trunk := v } := by
      rw [selectPort, hselected, if_pos hp]
    rw [hstay] at h hl
    refine ⟨?_, fun _ => ?_, absurd hp, fun l => ?_, fun l => ?_⟩
    · rw [hlinks, hheld, h, hp, ← hselected]
    · rw [h, ← hcount]
    · rw [offerFollowing_eq, State.link, hlinks, (hl l).1]
      rfl
    · rw [State.receiver, hheld, (hl l).2, hreceiver, followedReceiver]
      simp [hp]
  · have hmove : selectPort p { s with trunk := v } = switchTo p { s with trunk := v } := by
      rw [selectPort, hselected, if_neg hp]
    obtain ⟨hunting, freed, hswitch, hhunt⟩ := switchTo_eq p { s with trunk := v }
    rw [hmove, hswitch] at h hl
    refine ⟨?_, fun e => absurd e hp, fun _ => ?_, fun l => ?_, fun l => ?_⟩
    · rw [hlinks, hheld, h]
    · rw [h, ← hcount]
      exact ⟨rfl, rfl⟩
    · rw [offerFollowing_eq, State.link, hlinks, (hl l).1]
      rfl
    · rw [if_pos (.inl hp), State.receiver, hheld, (hl l).2]
      have e : ∀ was up, followedReceiver was up .hunt = .hunt := fun was up => ite_self _
      exact (congrArg (followedReceiver _ _) (hhunt l)).trans (e _ _)

end Sys2Proof.Machine
end

section
/-! PORT_MODE. -/

namespace Sys2Proof.Machine

theorem otherPort_ne (p : Port) : otherPort p ≠ p := by cases p <;> decide

theorem ProtectionMode.ofCode_code (m : ProtectionMode) : ProtectionMode.ofCode m.code = some m := by
  cases m <;> rfl

theorem ProtectionMode.ofCode_eq_none {b : Byte} (h : 2 < b.toNat) : ProtectionMode.ofCode b = none := by
  have hne : ∀ c : Byte, c.toNat ≤ 2 → b ≠ c := fun c hc e => absurd h (Nat.not_lt.2 (e ▸ hc))
  rw [ProtectionMode.ofCode, if_neg (hne 0 (by decide)), if_neg (hne 1 (by decide)), if_neg (hne 2 (by decide))]

theorem selectPort_self (s : State) : selectPort s.trunk.selected s = s := if_pos rfl

theorem selectPort_of_ne {p : Port} {s : State} (h : p ≠ s.trunk.selected) : selectPort p s = switchTo p s :=
  if_neg h

/-- R126: the port that PORT_MODE selects. -/
def modeSelection (m : ProtectionMode) (s : State) : Port :=
  match m with
  | .fixedA => .a
  | .fixedB => .b
  | .auto =>
    if (s.monitor s.trunk.selected).state ≠ .aligned ∧ (s.monitor (otherPort s.trunk.selected)).state = .aligned
    then otherPort s.trunk.selected else s.trunk.selected

theorem State.monitor_setMode (s : State) (m : ProtectionMode) (p : Port) :
    ({ s with trunk := { s.trunk with mode := m } } : State).monitor p = s.monitor p := by cases p <;> rfl

/-- R126: a mode is set, and its port selected. -/
theorem applyMode_selects (m : ProtectionMode) (s : State) :
    applyMode m s = selectPort (modeSelection m s) { s with trunk := { s.trunk with mode := m } } := by
  rw [applyMode_eq]
  cases m with
  | fixedA => rfl
  | fixedB => rfl
  | auto =>
    simp only [followMode, modeSelection, State.monitor_setMode]
    split
    · exact (selectPort_of_ne (otherPort_ne _)).symm
    · exact (selectPort_self { s with trunk := { s.trunk with mode := .auto } }).symm

theorem portMode_of_code (m : ProtectionMode) (s : State) {t : State}
    (ht : reconcileCircuits s
      (selectPort (modeSelection m s) { s with trunk := { s.trunk with mode := m } }) = t) :
    portMode m.code s = okWith [t.trunk.mode.code, portCode t.trunk.selected, flagByte (trunkUp t)] t := by
  rw [← ht, ← applyMode_selects, portMode, ProtectionMode.ofCode_code]

/-- R126: a mode that leaves the selection leaves everything but the mode. -/
theorem portMode_stays {m : ProtectionMode} {s : State} (h : modeSelection m s = s.trunk.selected) :
    reconcileCircuits s (selectPort (modeSelection m s) { s with trunk := { s.trunk with mode := m } }) =
      { s with trunk := { s.trunk with mode := m } } := by
  rw [h, selectPort_self { s with trunk := { s.trunk with mode := m } }]
  exact reconcileCircuits_of_same fun l => (circuitUp_congr rfl rfl rfl rfl l).symm

end Sys2Proof.Machine

namespace Sys2Proof.Proofs

open Sys2Proof Sys2Proof.Machine

/-- Settles O33: a mode's port is selected in the part with the mode set, and the circuits follow. -/
theorem portModeSelects : Obligations.PortModeSelects := by
  unfold Obligations.PortModeSelects
  intro s tag mode h
  refine ⟨fun hmode => ?_, fun m hmode => ?_⟩
  · refine commandArrives_of_takesAtOnce h (Nat.le_of_ble_eq_true rfl) ?_
    rw [portMode, ProtectionMode.ofCode_eq_none hmode]
    rfl
  · subst hmode
    have hacts := reselected (v := { s.trunk with mode := m }) rfl rfl rfl (modeSelection m s)
    have hstays := portMode_stays (m := m) (s := s)
    have hcommand := portMode_of_code m s rfl
    generalize reconcileCircuits s _ = t at hacts hstays hcommand
    refine ⟨t, commandArrives_of_takesAtOnce h (Nat.le_of_ble_eq_true rfl) ?_, hacts.mode, hacts.selected,
      hacts.link, fun hsame => hstays (hacts.selected ▸ hsame), fun hmoved => ?_⟩
    · rw [hcommand, hacts.mode]
      rfl
    · rw [hacts.selected] at hmoved
      obtain ⟨hcount, hswitches⟩ := hacts.moves hmoved
      exact ⟨hacts.hunts hmoved, hcount, hswitches, hacts.live, hacts.shadow,
        fun p => (hacts.monitor p).trans (State.monitor_setMode s m p), hacts.transmitters, hacts.keys,
        hacts.host, hacts.mem⟩

end Sys2Proof.Proofs
end

section
/-! The events of a port: its monitor, and the selection and the circuits that follow it. -/

namespace Sys2Proof.Machine

/-! ### The selection after a monitor's new value (R124) -/

theorem eq_otherPort {p q : Port} (h : p ≠ q) : p = otherPort q := by
  cases p <;> cases q <;> simp_all [otherPort]

section

variable {s : State} {p : Port} {m : Monitor}

/-- R124: the selection moves in AUTO alone: from a port that enters LOST to one that is ALIGNED, or to a port that
becomes ALIGNED from one that is not. -/
theorem selectionAfter_moves (h : selectionAfter s p m ≠ s.trunk.selected) :
    s.trunk.mode = .auto ∧ selectionAfter s p m = otherPort s.trunk.selected ∧
    ((p = s.trunk.selected ∧ (s.monitor p).state ≠ .lost ∧ m.state = .lost ∧
        (s.monitor (otherPort p)).state = .aligned) ∨
      (p = otherPort s.trunk.selected ∧ (s.monitor p).state ≠ .aligned ∧ m.state = .aligned ∧
        (s.monitor s.trunk.selected).state ≠ .aligned)) := by
  unfold selectionAfter at h ⊢
  dsimp only at h ⊢
  split at h
  · next hauto =>
    obtain ⟨hmode, hchange⟩ := hauto
    rw [if_pos ⟨hmode, hchange⟩]
    split at h
    · next hp =>
      split at h
      · next hlost =>
        obtain ⟨hlost, hother⟩ := hlost
        rw [if_pos hp, if_pos ⟨hlost, hother⟩, hp]
        exact ⟨hmode, rfl, .inl ⟨rfl, fun e => hchange (by rw [hlost, hp, e]), hlost, hp ▸ hother⟩⟩
      · exact absurd rfl h
    · next hp =>
      split at h
      · next haligned =>
        obtain ⟨haligned, hselected⟩ := haligned
        rw [if_neg hp, if_pos ⟨haligned, hselected⟩]
        exact ⟨hmode, eq_otherPort hp,
          .inr ⟨eq_otherPort hp, fun e => hchange (by rw [haligned, e]), haligned, hselected⟩⟩
      · exact absurd rfl h
  · exact absurd rfl h

/-- R124: a selected port that enters LOST is left for one that is ALIGNED. -/
theorem selectionAfter_leaves (hmode : s.trunk.mode = .auto) (hm : m.state = .lost)
    (hbefore : (s.monitor s.trunk.selected).state ≠ .lost)
    (hother : (s.monitor (otherPort s.trunk.selected)).state = .aligned) :
    selectionAfter s s.trunk.selected m = otherPort s.trunk.selected := by
  rw [selectionAfter, if_pos ⟨hmode, fun e => hbefore (e ▸ hm)⟩, if_pos rfl, if_pos ⟨hm, hother⟩]

/-- R124: a port that becomes ALIGNED is taken where the selected one is not. -/
theorem selectionAfter_takes (hmode : s.trunk.mode = .auto) (hm : m.state = .aligned)
    (hbefore : (s.monitor (otherPort s.trunk.selected)).state ≠ .aligned)
    (hselected : (s.monitor s.trunk.selected).state ≠ .aligned) :
    selectionAfter s (otherPort s.trunk.selected) m = otherPort s.trunk.selected := by
  rw [selectionAfter, if_pos ⟨hmode, fun e => hbefore (e ▸ hm)⟩, if_neg (otherPort_ne _), if_pos ⟨hm, hselected⟩]

/-- R124: the monitor of the selected port moves the selection to no port that is not ALIGNED. -/
theorem selectionAfter_stays (hother : (s.monitor (otherPort s.trunk.selected)).state ≠ .aligned) :
    selectionAfter s s.trunk.selected m = s.trunk.selected := by
  by_contra h
  rcases (selectionAfter_moves h).2.2 with ⟨_, _, _, haligned⟩ | ⟨hp, _⟩
  · exact hother haligned
  · exact otherPort_ne _ hp.symm

end

/-- R124: following a monitor is selecting the port that it leaves selected. -/
theorem followMonitor_selects (p : Port) (m : Monitor) (s : State) :
    followMonitor p (s.monitor p) (s.setMonitor p m) = selectPort (selectionAfter s p m) (s.setMonitor p m) := by
  have hselected : (s.setMonitor p m).trunk.selected = s.trunk.selected := State.setMonitor_trunk_selected s p m
  have hstay : s.setMonitor p m = selectPort s.trunk.selected (s.setMonitor p m) := by
    rw [← hselected, selectPort_self]
  have hmove : ∀ q, q ≠ s.trunk.selected → switchTo q (s.setMonitor p m) = selectPort q (s.setMonitor p m) :=
    fun _ hq => (selectPort_of_ne (hselected ▸ hq)).symm
  unfold followMonitor selectionAfter
  simp only [State.monitor_setMonitor_self, State.setMonitor_trunk_mode, hselected,
    State.monitor_setMonitor_other s p m]
  split
  · split
    · next hp =>
      split
      · exact hmove _ (hp ▸ otherPort_ne p)
      · exact hstay
    · next hp =>
      have hkept : (s.setMonitor p m).monitor s.trunk.selected = s.monitor s.trunk.selected := by
        rw [eq_otherPort (Ne.symm hp), State.monitor_setMonitor_other]
      rw [hkept]
      split
      · exact hmove _ hp
      · exact hstay
  · exact hstay

/-! ### The event of a port (R121, R122) -/

theorem State.setMonitor_eq (s : State) (p : Port) (m : Monitor) :
    s.setMonitor p m = { s with trunk := (s.setMonitor p m).trunk } := by cases p <;> rfl

/-- R122, parts 1 and 2: the port that the selection moves to is selected in the part with the monitor's new
value. -/
theorem monitorEvent_reselects (p : Port) (f : Monitor → Monitor) (s : State) :
    Reselected (s.setMonitor p (f (s.monitor p))).trunk (selectionAfter s p (f (s.monitor p))) s
      (monitorEvent p f s) := by
  rw [monitorEvent, followMonitor_selects, State.setMonitor_eq]
  refine reselected ?_ (State.setMonitor_trunk_selected s p _) ?_ _ <;> cases p <;> rfl

/-- R121: a port's event gives its monitor a new value, and leaves that of the other port. -/
theorem monitorEvent_monitor (p : Port) (f : Monitor → Monitor) (s : State) :
    (monitorEvent p f s).monitor p = f (s.monitor p) ∧
    (monitorEvent p f s).monitor (otherPort p) = s.monitor (otherPort p) := by
  have h := (monitorEvent_reselects p f s).monitor
  rw [h, h, ← State.setMonitor_eq]
  exact ⟨State.monitor_setMonitor_self s p _, State.monitor_setMonitor_other s p _⟩

theorem trunkUp_eq {t : State} {p : Port} (h : t.trunk.selected = p) :
    trunkUp t = decide ((t.monitor p).state = .aligned) := by
  rw [trunkUp, h]

/-- R122, part 3: the bytes of a cycle move the receivers of the trunk and nothing else of it. -/
theorem feedCycle_trunk (bytes : Vector Byte 96) (s : State) : ∃ receivers,
    (feedCycle bytes s).trunk = { s.trunk with receivers := receivers } := by
  refine List.foldlRecOn (motive := fun t : State => ∃ receivers, t.trunk = { s.trunk with receivers := receivers })
    _ _ ⟨s.trunk.receivers, rfl⟩ fun t ⟨receivers, ht⟩ i _ => ?_
  unfold feedSlot
  split
  · next l _ =>
    split
    · obtain ⟨r, hr⟩ := receiverByte_trunk l (tget bytes i) t
      refine ⟨tput t.trunk.receivers l r, hr.trans ?_⟩
      exact congrArg (fun k : Trunk => { k with receivers := tput t.trunk.receivers l r }) ht
    · exact ⟨receivers, ht⟩
  · exact ⟨receivers, ht⟩

/-- R122: a receive cycle with the reset input released: the port's event, and then the bytes where they are
fed. -/
theorem exec_receiveCycle {s : State} (hinput : s.host.resetInput = false) (port : Port) (good : Bool)
    (bytes : Vector Byte 96) :
    exec (.receiveCycle port good bytes) s =
      let u := monitorEvent port (fun m => m.mark good) s
      .next (finish
        (if u.trunk.selected = port ∧ (u.monitor port).state = .aligned then feedCycle bytes u else u)) := by
  change Host.Outcome.next (receiveCycle port good bytes s) = _
  rw [receiveCycle, hinput]
  rfl

theorem exec_signalAbsence (port : Port) (s : State) :
    exec (.signalAbsence port) s = .next (finish (monitorEvent port (fun _ => ⟨.lost, 0, 0⟩) s)) := rfl

/-- R121: the events of a port, with what each does to the port's monitor. -/
def PortEvent (port : Port) (good : Bool) (bytes : Vector Byte 96) (i : Instr) (f : Monitor → Monitor) : Prop :=
  (i = .receiveCycle port good bytes ∧ f = fun m => m.mark good) ∨
    (i = .signalAbsence port ∧ f = fun _ => ⟨.lost, 0, 0⟩)

section Events

variable {s : State} {port : Port} {good : Bool} {bytes : Vector Byte 96} {i : Instr} {f : Monitor → Monitor}

/-- R122: a port's event ends with its monitor, selection and circuits, or with the bytes of its cycle besides. -/
theorem exec_portEvent (hinput : s.host.resetInput = false) (hi : PortEvent port good bytes i f) :
    exec i s = .next (finish (monitorEvent port f s)) ∨
      (i = .receiveCycle port good bytes ∧ exec i s = .next (finish (feedCycle bytes (monitorEvent port f s)))) := by
  rcases hi with ⟨rfl, rfl⟩ | ⟨rfl, rfl⟩
  · rw [exec_receiveCycle hinput]
    dsimp only
    split
    · exact .inr ⟨rfl, rfl⟩
    · exact .inl rfl
  · exact .inl (exec_signalAbsence port s)

/-- Whether or not bytes are fed, all of the trunk but its receivers is as the port's monitor left it. -/
theorem exec_portEvent_trunk (hinput : s.host.resetInput = false) (hi : PortEvent port good bytes i f) :
    ∃ t receivers, exec i s = .next (finish t) ∧
      t.trunk = { (monitorEvent port f s).trunk with receivers := receivers } := by
  rcases exec_portEvent hinput hi with h | ⟨_, h⟩
  · exact ⟨_, _, h, rfl⟩
  · obtain ⟨receivers, ht⟩ := feedCycle_trunk bytes (monitorEvent port f s)
    exact ⟨_, receivers, h, ht⟩

/-- R124: at a port's event the selection moves as it enters LOST, or becomes ALIGNED, and at no other. -/
theorem portEvent_moves (hinput : s.host.resetInput = false) (hi : PortEvent port good bytes i f) :
    ∃ t : State, exec i s = .next (finish t) ∧
      (t.trunk.selected ≠ s.trunk.selected →
        s.trunk.mode = .auto ∧ t.trunk.selected = otherPort s.trunk.selected ∧
        ((port = s.trunk.selected ∧ (s.monitor port).state ≠ .lost ∧ (t.monitor port).state = .lost ∧
            (s.monitor (otherPort port)).state = .aligned) ∨
          (port = otherPort s.trunk.selected ∧ (s.monitor port).state ≠ .aligned ∧
            (t.monitor port).state = .aligned ∧ (s.monitor s.trunk.selected).state ≠ .aligned))) ∧
      (t.trunk.selected = s.trunk.selected → t.trunk.switchCount = s.trunk.switchCount) := by
  obtain ⟨t, receivers, hexec, ht⟩ := exec_portEvent_trunk hinput hi
  have hacts := monitorEvent_reselects port f s
  have hselected : t.trunk.selected = selectionAfter s port (f (s.monitor port)) := by
    rw [ht]
    exact hacts.selected
  have hcount : t.trunk.switchCount = (monitorEvent port f s).trunk.switchCount := by rw [ht]
  have hmonitor : t.monitor port = f (s.monitor port) := by
    rw [← (monitorEvent_monitor port f s).1]
    cases port
    · exact (congrArg Trunk.monitorA ht :)
    · exact (congrArg Trunk.monitorB ht :)
  refine ⟨t, hexec, ?_⟩
  rw [hselected, hcount, hmonitor]
  exact ⟨selectionAfter_moves, hacts.stays⟩

end Events

/-! ### The switches of AUTO (R124, R125) -/

theorem Monitor.mark_fourth_bad {m : Monitor} (hstate : m.state = .aligned) (hbad : m.bad = 3) :
    m.mark false = ⟨.lost, 0, 0⟩ := by
  simp [Monitor.mark, hstate, hbad]

theorem Monitor.mark_third_good {m : Monitor} (hstate : m.state = .seeking) (hgood : m.good = 2) :
    m.mark true = ⟨.aligned, 0, 0⟩ := by
  simp [Monitor.mark, hstate, hgood]

/-- R125: the part after a switch to the other port, which is ALIGNED. -/
structure Switched (s t : State) : Prop where
  selected : t.trunk.selected = otherPort s.trunk.selected
  up : trunkUp t = true
  switchCount : t.trunk.switchCount = satInc s.trunk.switchCount
  protectionSwitches : t.faults.protectionSwitches = satInc s.faults.protectionSwitches
  receiver : ∀ l, t.receiver l = .hunt
  transmitters : t.trunk.transmitters = s.trunk.transmitters
  keys : t.keys = s.keys

section Switches

variable {s : State} {port : Port} {f : Monitor → Monitor}

/-- R125: a port's event that moves the selection to a port that is then ALIGNED. -/
theorem monitorEvent_switches
    (hmoves : selectionAfter s port (f (s.monitor port)) = otherPort s.trunk.selected)
    (haligned : ((monitorEvent port f s).monitor (otherPort s.trunk.selected)).state = .aligned) :
    Switched s (monitorEvent port f s) := by
  have hacts := monitorEvent_reselects port f s
  rw [hmoves] at hacts
  obtain ⟨hcount, hswitches⟩ := hacts.moves (otherPort_ne _)
  refine ⟨hacts.selected, ?_, hcount, hswitches, hacts.hunts (otherPort_ne _), ?_, hacts.keys⟩
  · rw [trunkUp_eq hacts.selected, haligned]
    rfl
  · exact hacts.transmitters.trans (State.setMonitor_trunk_transmitters s port _)

/-- R124: in AUTO, as the selected port enters LOST, the other port is taken where it is ALIGNED. -/
theorem monitorEvent_leaves (hmode : s.trunk.mode = .auto)
    (hbefore : (s.monitor s.trunk.selected).state ≠ .lost)
    (hlost : (f (s.monitor s.trunk.selected)).state = .lost)
    (hother : (s.monitor (otherPort s.trunk.selected)).state = .aligned) :
    Switched s (monitorEvent s.trunk.selected f s) := by
  refine monitorEvent_switches (selectionAfter_leaves hmode hlost hbefore hother) ?_
  rw [(monitorEvent_monitor s.trunk.selected f s).2, hother]

/-- R124: in AUTO, as the other port becomes ALIGNED, it is taken where the selected one is not ALIGNED. -/
theorem monitorEvent_takes (hmode : s.trunk.mode = .auto)
    (hselected : (s.monitor s.trunk.selected).state ≠ .aligned)
    (hbefore : (s.monitor (otherPort s.trunk.selected)).state ≠ .aligned)
    (haligned : (f (s.monitor (otherPort s.trunk.selected))).state = .aligned) :
    Switched s (monitorEvent (otherPort s.trunk.selected) f s) := by
  refine monitorEvent_switches (selectionAfter_takes hmode haligned hbefore hselected) ?_
  rw [(monitorEvent_monitor (otherPort s.trunk.selected) f s).1, haligned]

/-- R124: the selection stays on a port that enters LOST where the other is not ALIGNED, and the trunk is down. -/
theorem monitorEvent_stays (hlost : (f (s.monitor s.trunk.selected)).state = .lost)
    (hother : (s.monitor (otherPort s.trunk.selected)).state ≠ .aligned) :
    let t := monitorEvent s.trunk.selected f s
    t.trunk.selected = s.trunk.selected ∧ trunkUp t = false ∧ t.trunk.switchCount = s.trunk.switchCount := by
  intro t
  have hacts := monitorEvent_reselects s.trunk.selected f s
  rw [selectionAfter_stays hother] at hacts
  refine ⟨hacts.selected, ?_, hacts.stays rfl⟩
  rw [trunkUp_eq hacts.selected, (monitorEvent_monitor s.trunk.selected f s).1, hlost]
  rfl

/-- R124: in a fixed mode the selection stays, and a link whose circuit stays is left as it is. -/
theorem monitorEvent_fixed (hmode : s.trunk.mode ≠ .auto) (port : Port) (f : Monitor → Monitor) :
    let t := monitorEvent port f s
    t.trunk.selected = s.trunk.selected ∧ t.trunk.switchCount = s.trunk.switchCount ∧
      ∀ l, circuitUp s l = circuitUp t l → t.link l = s.link l ∧ t.receiver l = s.receiver l := by
  intro t
  have hacts := monitorEvent_reselects port f s
  have hstay : selectionAfter s port (f (s.monitor port)) = s.trunk.selected := by
    by_contra h
    exact hmode (selectionAfter_moves h).1
  rw [hstay] at hacts
  refine ⟨hacts.selected, hacts.stays rfl, fun l hsame => ⟨?_, ?_⟩⟩
  · rw [hacts.link l, offerFollowing_eq, hsame, followedTimer_self]
  · have hnot : ¬(circuitUp s l = true ∧ circuitUp t l = false) := by
      rw [hsame]
      simp
    exact (hacts.receiver l).trans (if_neg fun h => hnot (h.resolve_left fun e => e rfl))

end Switches

end Sys2Proof.Machine
end

section
/-! What leaves the selection of a port: every operation but a switch, a mode set and a reset. -/

namespace Sys2Proof.Machine

/-! ### The selection and the waiting records through the operations -/

/-- The selected port, and the records that wait to be taken. -/
def selectionView (s : State) : Port × List InRecord := (s.trunk.selected, s.host.buffer)

theorem selectionView_of_finishView {s t : State} (h : finishView t = finishView s) :
    selectionView t = selectionView s := by
  rw [selectionView, trunk_of_finishView h, buffer_of_finishView h, selectionView]

section Updates

variable (s : State)

@[simp] theorem selectionView_modLink (l : LinkId) (f : Link → Link) :
    selectionView (s.modLink l f) = selectionView s := rfl
@[simp] theorem selectionView_modRenewal (l : LinkId) (f : Renewal → Renewal) :
    selectionView (s.modRenewal l f) = selectionView s := rfl
@[simp] theorem selectionView_modSlot (k : SlotNo) (f : KeySlot → KeySlot) :
    selectionView (s.modSlot k f) = selectionView s := rfl
@[simp] theorem selectionView_setDerivation (d : Option Derivation) :
    selectionView (s.setDerivation d) = selectionView s := rfl
@[simp] theorem selectionView_freeFrame (d : DescNo) : selectionView (s.freeFrame d) = selectionView s := rfl
@[simp] theorem selectionView_setDelivery (q : List DescNo) :
    selectionView (s.setDelivery q) = selectionView s := rfl
@[simp] theorem selectionView_setTransmitter (l : LinkId) (t : Transmitter) :
    selectionView (s.setTransmitter l t) = selectionView s := rfl
@[simp] theorem selectionView_setSealing (r : Option Sealing) :
    selectionView (s.setSealing r) = selectionView s := rfl
@[simp] theorem selectionView_setOpening (r : Option Opening) :
    selectionView (s.setOpening r) = selectionView s := rfl
@[simp] theorem selectionView_modFaults (f : Supervisor → Supervisor) :
    selectionView (s.modFaults f) = selectionView s := rfl
@[simp] theorem selectionView_modEvents (l : LinkId) (f : LinkEvents → LinkEvents) :
    selectionView (s.modEvents l f) = selectionView s := rfl
@[simp] theorem selectionView_count (l : LinkId) (c : Counter) :
    selectionView (s.count l c) = selectionView s := rfl
@[simp] theorem selectionView_replaceEntry (e : FaultEntry) :
    selectionView (replaceEntry e s) = selectionView s := rfl

/-! ### Renewals, triggers and releases -/

@[simp] theorem selectionView_trigger (l : LinkId) : selectionView (trigger l s) = selectionView s :=
  selectionView_of_finishView (finishView_trigger s l)
@[simp] theorem selectionView_reevaluate (l : LinkId) : selectionView (reevaluate l s) = selectionView s :=
  selectionView_of_finishView (finishView_of_frame (reevaluate_frame l s))
@[simp] theorem selectionView_handOver : selectionView (handOver s) = selectionView s :=
  selectionView_of_finishView (finishView_handOver s)
@[simp] theorem selectionView_releaseSlots (ks : List SlotNo) :
    selectionView (releaseSlots ks s) = selectionView s :=
  selectionView_of_finishView (finishView_releaseSlots s ks)
@[simp] theorem selectionView_isolate (l : LinkId) : selectionView (isolate l s) = selectionView s :=
  selectionView_of_finishView (finishView_isolate s l)
@[simp] theorem selectionView_autoIsolate (l : LinkId) : selectionView (autoIsolate l s) = selectionView s :=
  selectionView_of_finishView (finishView_autoIsolate s l)
@[simp] theorem selectionView_failRenewal (l : LinkId) : selectionView (failRenewal l s) = selectionView s :=
  selectionView_of_finishView (finishView_failRenewal s l)
@[simp] theorem selectionView_grant : selectionView (grant s) = selectionView s :=
  selectionView_of_finishView (finishView_grant s)

@[simp] theorem selectionView_settleBlocks : selectionView (settleBlocks s) = selectionView s :=
  selectionView_of_finishView (settleBlocks_keeps (finishView_blocks s) s rfl)

@[simp] theorem selectionView_retire (l : LinkId) : selectionView (retire l s) = selectionView s := by
  simp [retire]

/-! ### Expiries -/

theorem selectionView_expire (e : TimerName) (l : LinkId) : selectionView (expire e l s) = selectionView s := by
  cases e with
  | interval => simp [expire, expireInterval]
  | offer =>
    unfold expire expireOffer
    dsimp only
    split
    · split <;> simp
    · simp
  | grace =>
    unfold expire expireGrace
    dsimp only
    split <;> simp
  | backoff =>
    unfold expire expireBackoff
    dsimp only
    split <;> simp

/-! ### Ends of operations -/

@[simp] theorem selectionView_lowerInFlight (k : SlotNo) :
    selectionView (lowerInFlight k s) = selectionView s := by
  rcases lowerInFlight_cases k s with ⟨_, _, e⟩ | ⟨_, e⟩ <;> simp [e]

@[simp] theorem selectionView_writeTag (r : Sealing) (tag : List Byte) :
    selectionView (writeTag r tag s) = selectionView s := by
  rcases writeTag_cases r tag s with ⟨_, e⟩ | ⟨d, _, e⟩ <;> rw [e] <;> rfl

@[simp] theorem selectionView_freeSealed (r : Sealing) : selectionView (freeSealed r s) = selectionView s := by
  unfold freeSealed
  split <;> rfl

@[simp] theorem selectionView_handToTransmitter (r : Sealing) :
    selectionView (handToTransmitter r s) = selectionView s := by
  unfold handToTransmitter
  split <;> rfl

@[simp] theorem selectionView_reportSealed (r : Sealing) :
    selectionView (reportSealed r s) = selectionView s := by
  unfold reportSealed reportOffer reportCutover
  split
  · split <;> rfl
  · split <;> rfl
  · rfl
  · rfl
  · rfl

theorem selectionView_completeSealing (r : Sealing) :
    selectionView (completeSealing r s) = selectionView s := by
  unfold completeSealing
  dsimp only
  split
  · simp
  · split <;> simp

@[simp] theorem selectionView_reportEpoch (l : LinkId) (epoch : Nat) :
    selectionView (reportEpoch l epoch s) = selectionView s := by
  unfold reportEpoch
  split
  · split
    · exact selectionView_retire s l
    · rfl
  · rfl

@[simp] theorem selectionView_handAccept (l : LinkId) (epoch : Nat) (echo ns : Nonce) :
    selectionView (handAccept l epoch echo ns s) = selectionView s := by
  unfold handAccept
  dsimp only
  split
  · split <;> rfl
  · rfl

@[simp] theorem selectionView_disposeGood (r : Opening) :
    selectionView (disposeGood r s) = selectionView s := by
  unfold disposeGood handAsk
  dsimp only
  split
  · split <;> simp
  all_goals simp

theorem selectionView_completeOpening (r : Opening) :
    selectionView (completeOpening r s) = selectionView s := by
  unfold completeOpening
  dsimp only
  split
  · simp
  · split <;> simp

theorem selectionView_completeDerivation (d : Derivation) :
    selectionView (completeDerivation d s) = selectionView s := by
  unfold completeDerivation queueCutover
  dsimp only
  split
  · split <;> simp
  · simp

theorem selectionView_engine : EngineKeep fun t => selectionView t = selectionView s where
  written _ _ _ h := h
  sealing _ _ _ _ _ h := h
  sealed t _ _ _ _ h := (selectionView_completeSealing t _).trans h
  opening _ _ _ _ _ h := h
  opened t _ _ _ _ h := (selectionView_completeOpening t _).trans h
  derivation _ _ _ _ _ h := h
  derived t _ _ _ _ h := (selectionView_completeDerivation t _).trans h

theorem selectionView_endOperation (r : Requester) : selectionView (endOperation r s) = selectionView s :=
  (selectionView_engine s).endOperation r s rfl

/-! ### The sampling -/

@[simp] theorem selectionView_declarationAct (source : FaultSource) (kind : FaultKind) :
    selectionView (declarationAct source kind s) = selectionView s := by
  unfold declarationAct tagFaultAction
  split
  · split
    · split <;> simp
    · rfl
  · rfl

theorem selectionView_stepEntry (now : W32) (c : Condition) (e : FaultEntry) :
    selectionView (stepEntry now c e s) = selectionView s := by
  have hjoin : ∀ (b : Bool) (n : NoticeItem) (t : State),
      selectionView (if b = true then t.listNotice n else t) = selectionView t := fun b n t => by
    split <;> rfl
  unfold stepEntry
  dsimp only
  split
  · rw [selectionView_declarationAct, hjoin, selectionView_replaceEntry]
  · rw [hjoin, selectionView_replaceEntry]

theorem selectionView_sampleCondition (now : W32) (c : Condition) :
    selectionView (sampleCondition now s c) = selectionView s := by
  unfold sampleCondition createEntry
  split
  · exact selectionView_stepEntry s now c _
  · split
    · split
      · rw [selectionView_stepEntry, selectionView_modFaults]
      · rfl
    · rfl

theorem selectionView_sampling : selectionView (sampling s) = selectionView s := by
  have hfold : selectionView ((conditions s).foldl (sampleCondition s.host.clock) s) = selectionView s :=
    List.foldlRecOn (motive := fun t => selectionView t = selectionView s) _ _ rfl fun t ht c _ =>
      (selectionView_sampleCondition t _ c).trans ht
  unfold sampling
  rw [selectionView_modFaults, selectionView_sampleCondition, hfold]

/-! ### The circuits -/

@[simp] theorem selectionView_abandonReception (l : LinkId) :
    selectionView (abandonReception l s) = selectionView s := by
  obtain ⟨_, _, e⟩ := abandonReception_eq l s
  rw [e]
  rfl

@[simp] theorem selectionView_abandonTransmission (l : LinkId) :
    selectionView (abandonTransmission l s) = selectionView s := by
  obtain ⟨_, e, _⟩ := abandonTransmission_eq l s
  rw [e]
  rfl

theorem selectionView_reconcileCircuits (before : State) :
    selectionView (reconcileCircuits before s) = selectionView s := by
  obtain ⟨_, _, _, e, _⟩ := reconcileCircuits_follows before s
  rw [e]
  rfl

theorem selectionView_linkSlotByte (l : LinkId) : selectionView (linkSlotByte l s).2 = selectionView s := by
  unfold linkSlotByte sendFrameByte
  split
  · split
    · rfl
    · split
      · dsimp only
        split <;> simp
      · rfl
    · rfl
  · rfl

theorem selectionView_transmitCycle : selectionView (transmitCycle s) = selectionView s := by
  have hfold : selectionView ((allFin 96).foldl transmitSlot ([], s)).2 = selectionView s := by
    refine List.foldlRecOn (motive := fun r : List Byte × State => selectionView r.2 = selectionView s) _ _ rfl
      fun r hr i _ => ?_
    unfold transmitSlot
    split
    · exact hr
    · exact (selectionView_linkSlotByte r.2 _).trans hr
  unfold transmitCycle
  generalize (allFin 96).foldl transmitSlot ([], s) = r at hfold ⊢
  exact hfold

/-! ### Teardowns -/

theorem selectionView_teardown (l : LinkId) : selectionView (teardown l s) = selectionView s := by
  obtain ⟨_, _, e, _⟩ := disposeFrames_eq l s
  unfold teardown
  dsimp only
  rw [selectionView_handOver, selectionView_releaseSlots, e]
  rfl

end Updates

/-! ### The effects of the commands -/

/-- A command whose effect leaves the selection, and the records that wait. -/
def LeavesSelection (e : State → State × Answer) : Prop := ∀ s, selectionView (e s).1 = selectionView s

section Commands

theorem refuse_leaves (c : ResultCode) : LeavesSelection (refuse c) := fun _ => rfl

/-- A check decides between two effects. -/
theorem ite_leaves {c : State → Prop} [∀ s, Decidable (c s)] {e e' : State → State × Answer}
    (he : LeavesSelection e) (he' : LeavesSelection e') : LeavesSelection fun s => if c s then e s else e' s :=
  fun s => by
    dsimp only
    split
    · exact he s
    · exact he' s

theorem onLink_leaves {f : LinkId → State → State × Answer} (h : ∀ l, LeavesSelection (f l)) (b : Byte) :
    LeavesSelection (onLink b f) :=
  fun s => onLink_keeps (P := fun t => selectionView t = selectionView s) b f s rfl fun l => h l s

theorem onLiveLink_leaves {f : LinkId → State → State × Answer} (h : ∀ l, LeavesSelection (f l)) (b : Byte) :
    LeavesSelection (onLiveLink b f) :=
  onLink_leaves (fun l => ite_leaves (h l) (refuse_leaves _)) b

theorem configure_leaves (link : Byte) (p : Option Profile) : LeavesSelection (configure link p) := by
  refine onLink_leaves (fun l => ite_leaves ?_ (refuse_leaves _)) link
  cases p with
  | none => exact refuse_leaves _
  | some p => exact fun _ => rfl

theorem unconfigure_leaves (link : Byte) : LeavesSelection (unconfigure link) :=
  onLink_leaves (fun _ => ite_leaves (fun _ => rfl) (refuse_leaves _)) link

theorem activate_leaves (link : Byte) : LeavesSelection (activate link) := by
  refine onLink_leaves (fun l => ite_leaves (ite_leaves (fun _ => rfl) fun s => ?_) (refuse_leaves _)) link
  split <;> rfl

theorem isolateCommand_leaves (link : Byte) : LeavesSelection (isolateCommand link) :=
  onLiveLink_leaves (fun l => ite_leaves (fun s => selectionView_isolate s l) fun _ => rfl) link

theorem resume_leaves (link : Byte) : LeavesSelection (resume link) :=
  onLiveLink_leaves (fun l => ite_leaves
    (fun s => selectionView_reevaluate (s.modLink l fun k => { k with state := .active }) l) fun _ => rfl) link

theorem deactivate_leaves (link : Byte) : LeavesSelection (deactivate link) :=
  onLiveLink_leaves (fun l s => selectionView_teardown s l) link

theorem linkStatus_leaves (link clear : Byte) : LeavesSelection (linkStatus link clear) := by
  refine onLink_leaves (fun l s => ?_) link
  split <;> rfl

theorem rootLoad_leaves (link : Byte) (key : List Byte) : LeavesSelection (rootLoad link key) :=
  onLink_leaves (fun _ => ite_leaves (refuse_leaves _) (ite_leaves (fun _ => rfl) (refuse_leaves _))) link

theorem rootErase_leaves (link : Byte) : LeavesSelection (rootErase link) :=
  onLink_leaves (fun _ => ite_leaves (refuse_leaves _) fun _ => rfl) link

theorem storeStatus_leaves : LeavesSelection storeStatus := fun _ => rfl

theorem renewCommand_leaves (link : Byte) : LeavesSelection (renewCommand link) :=
  onLink_leaves (fun l => ite_leaves (refuse_leaves _) (ite_leaves (refuse_leaves _)
    (ite_leaves (refuse_leaves _) fun s => selectionView_trigger s l))) link

theorem trafficOut_leaves (tag link : Byte) (payload : List Byte) :
    LeavesSelection (trafficOut tag link payload) := fun s => by
  unfold trafficOut
  split
  · rfl
  · split
    · split
      · unfold admitTraffic
        dsimp only
        split
        · rfl
        · split
          · rfl
          · split <;> rfl
      · rfl
    · rfl

theorem hold_leaves (link : Byte) : LeavesSelection (hold link) :=
  onLiveLink_leaves (fun l s => selectionView_settleBlocks (s.modLink l fun k => { k with hold := true })) link

theorem release_leaves (link count : Byte) : LeavesSelection (release link count) :=
  onLiveLink_leaves (fun l => ite_leaves (refuse_leaves _) fun s =>
    selectionView_settleBlocks (s.modLink l fun k => { k with allowance := count.toNat })) link

theorem unhold_leaves (link : Byte) : LeavesSelection (unhold link) :=
  onLiveLink_leaves
    (fun l s => selectionView_settleBlocks (s.modLink l fun k => { k with hold := false, allowance := 0 })) link

theorem discard_leaves (link : Byte) (count : W16) : LeavesSelection (discard link count) := by
  refine onLiveLink_leaves (fun l => ite_leaves (refuse_leaves _) fun s => ?_) link
  obtain ⟨_, e, _⟩ := freeFrames_eq (discarded s l count.toNat) s
  dsimp only [okWith]
  rw [selectionView_settleBlocks, e]
  rfl

theorem mapSet_leaves (first count entry : Byte) : LeavesSelection (mapSet first count entry) := fun s => by
  unfold mapSet
  split
  · split
    · simp only [ok, okWith, selectionView]
    · rfl
  · rfl

theorem mapRead_leaves (selector : Byte) : LeavesSelection (mapRead selector) := fun s => by
  rw [mapRead_state]

theorem mapCommit_leaves : LeavesSelection mapCommit := fun s => by
  have hcommitted : selectionView { s with trunk := { s.trunk with live := s.trunk.shadow } } = selectionView s := rfl
  unfold mapCommit
  dsimp only [okWith]
  rw [selectionView_reconcileCircuits]
  refine List.foldlRecOn (motive := fun t => selectionView t = selectionView s) _ _ hcommitted fun t ht l _ => ?_
  rw [abandonAffected, selectionView_abandonTransmission, selectionView_abandonReception, ht]

theorem trunkStatus_leaves (clear : Byte) : LeavesSelection (trunkStatus clear) := fun s => by
  unfold trunkStatus
  split <;> rfl

theorem faultPolicy_leaves (kind declare clear report : Byte) :
    LeavesSelection (faultPolicy kind declare clear report) := fun s => by
  unfold faultPolicy
  split
  · rfl
  · split
    · rfl
    · split
      · split <;> rfl
      · rfl

theorem faultList_leaves (selector : Byte) : LeavesSelection (faultList selector) := fun s => by
  rw [faultList_state]

theorem faultRead_leaves (source kind : Byte) : LeavesSelection (faultRead source kind) := fun s => by
  rw [faultRead_state]

theorem faultPurge_leaves : LeavesSelection faultPurge := fun _ => rfl
theorem setClock_leaves (value : W32) : LeavesSelection (setClock value) := fun _ => rfl
theorem identify_leaves : LeavesSelection identify := fun _ => rfl
theorem resetCommand_leaves : LeavesSelection resetCommand := fun _ => rfl

end Commands

end Sys2Proof.Machine
end

section
/-! The selection through every command and event that may not move it, and the switches of a port. -/

namespace Sys2Proof.Machine

/-- A port is selected, and no record that waits to be taken can move the selection. -/
def SelectionHeld (p : Port) (s : State) : Prop :=
  s.trunk.selected = p ∧ ∀ x ∈ s.host.buffer, ∀ t, selectionView (answerRecord x t) = selectionView t

/-- A command's record leaves the selection where the command's effect does. -/
theorem selectionView_answerRecord {kind : RecordKind} {tag : Byte} {body : List Byte}
    {effect : State → State × Answer}
    (he : ∀ s, answer tag (effect s) = answerRecord (.record kind tag body) s) (hleaves : LeavesSelection effect)
    (t : State) : selectionView (answerRecord (.record kind tag body) t) = selectionView t := by
  rw [← he]
  exact hleaves t

namespace SelectionHeld

variable {p : Port} {s : State} (h : SelectionHeld p s)
include h

theorem of_view {t : State} (ht : selectionView t = selectionView s) : SelectionHeld p t := by
  simp only [selectionView, Prod.mk.injEq] at ht
  obtain ⟨hselected, hbuffer⟩ := ht
  obtain ⟨hp, hrecords⟩ := h
  exact ⟨hselected.trans hp, hbuffer ▸ hrecords⟩

/-- The buffer may lose records. -/
theorem of_sublist {t : State} (ht : t.trunk.selected = s.trunk.selected)
    (hbuffer : t.host.buffer.Sublist s.host.buffer) : SelectionHeld p t :=
  ⟨ht.trans h.1, fun x hx => h.2 x (hbuffer.subset hx)⟩

/-- A record that leaves the selection may be taken. -/
theorem answerRecord {x : InRecord} (hx : ∀ t, selectionView (answerRecord x t) = selectionView t) :
    SelectionHeld p (answerRecord x s) :=
  h.of_view (hx s)

theorem takeRecord : SelectionHeld p (takeRecord s) := by
  unfold Machine.takeRecord
  split
  · exact h
  · next x rest hbuffer =>
    have hrest : SelectionHeld p (s.modHost fun k => { k with buffer := rest }) :=
      h.of_sublist rfl (by rw [hbuffer]; exact List.sublist_cons_self x rest)
    exact hrest.answerRecord (h.2 x (by rw [hbuffer]; exact List.mem_cons_self))

/-- R161, R162: a record that leaves the selection may arrive. -/
theorem receive {x : InRecord} (hx : ∀ t, selectionView (Machine.answerRecord x t) = selectionView t) :
    SelectionHeld p (receive x s) := by
  unfold Machine.receive arrive
  split
  · exact h.answerRecord hx
  · split
    · refine ⟨h.1, fun y hy => ?_⟩
      rcases List.mem_append.1 hy with hy | hy
      · exact h.2 y hy
      · exact List.mem_singleton.1 hy ▸ hx
    · exact h.of_view rfl

end SelectionHeld

/-! ### The end of an event -/

theorem selectionHeld_port (p : Port) : PortKeeps (SelectionHeld p) where
  requests _ _ h := h
  draw _ _ h := h
  sealing s _ _ h := h.of_view (selectionView_of_finishView (finishView_startSealing s))
  opening s _ h := h.of_view (selectionView_of_finishView (finishView_startOpening s))
  derivation s _ h := h.of_view (selectionView_of_finishView (finishView_beginDerivation s))
  take _ _ h := h.takeRecord
  send s _ h := h.of_view (selectionView_of_finishView (finishView_startSending s))

namespace SelectionHeld

variable {p : Port} {s : State} (h : SelectionHeld p s)
include h

theorem finish : SelectionHeld p (finish s) :=
  (settle_keeps (selectionHeld_port p) s h).of_view rfl

theorem startWaiting : SelectionHeld p (startWaiting s) := by
  unfold Machine.startWaiting
  split
  · exact h.finish
  · exact h

/-! ### The commands and the events -/

/-- A command whose effect leaves the selection, with the record receiver in HUNT. -/
theorem commandArrives {kind : RecordKind} {tag : Byte} {body : List Byte} {effect : State → State × Answer}
    (hreceiver : s.host.receiver = .hunt) (hbody : body.length ≤ 1038) (hleaves : LeavesSelection effect)
    (he : ∀ s, answer tag (effect s) = Machine.answerRecord (.record kind tag body) s) :
    SelectionHeld p (commandArrives kind tag body effect s) := by
  rw [commandArrives_eq_receive he]
  split
  · exact h
  · rw [if_pos ⟨hreceiver, hbody⟩]
    exact (h.startWaiting.receive (selectionView_answerRecord he hleaves)).finish

theorem endSending (hreset : ∀ r, s.host.line = some r → r.forReset = false) :
    SelectionHeld p (endSending s) := by
  unfold Machine.endSending
  split
  · exact h
  · next r hr =>
    rw [hreset r hr]
    simp only [Bool.false_eq_true, if_false]
    split <;> exact finish (h.of_view rfl)

theorem expiryEvent (e : TimerName) (l : LinkId) : SelectionHeld p (expiryEvent e l s) := by
  unfold Machine.expiryEvent
  split
  · exact (h.of_view (selectionView_expire s e l)).finish
  · exact h

theorem operationEnds (r : Requester) : SelectionHeld p (operationEnds r s) := by
  refine (h.of_view ?_).finish
  rw [freeUnit, selectionView_grant]
  exact (selectionView_settleBlocks _).trans (selectionView_endOperation s r)

theorem runAgenda : ∀ (n : Nat) (items : List TickItem), SelectionHeld p (runAgenda n items s) := by
  intro n
  induction n generalizing s with
  | zero => exact fun _ => h
  | succ n ih =>
    intro items
    simp only [Machine.runAgenda]
    split
    · next i _ =>
      refine ih (settle_keeps (selectionHeld_port p) _ ?_) _
      have hspent : SelectionHeld p (spendDraw items s) := by
        unfold spendDraw
        split <;> exact h
      cases i with
      | sampling => exact hspent.of_view (selectionView_sampling _)
      | expiry e l =>
        simp only [takeItem]
        split
        · exact hspent.of_view (selectionView_expire _ e l)
        · exact hspent
    · exact h

theorem tickPart : SelectionHeld p (tickPart s) := by
  unfold Machine.tickPart
  split
  · exact h
  · have hcounted : SelectionHeld p (countTimers (advanceClock s)) := h
    exact (hcounted.runAgenda _ _).of_view rfl

/-- R124, R126, R168: no other command or event moves the selection. -/
theorem exec {i : Instr} (hwf : WellFormed i = true) (hmay : mayMoveSelection i = false)
    (hreceiver : s.host.receiver = .hunt)
    (hreset : i = .sendEnd → ∀ r, s.host.line = some r → r.forReset = false) :
    ∃ t, exec i s = .next t ∧ SelectionHeld p t := by
  have hwhen : ∀ (b : Bool) (t : State), SelectionHeld p t → SelectionHeld p (if b then Machine.finish t else s) :=
    fun b t ht => by
      split
      · exact ht.finish
      · exact h
  have hfixed : ∀ {kind tag body effect}, LeavesSelection effect → Nat.ble body.length 1038 = true →
      (∀ s, answer tag (effect s) = Machine.answerRecord (.record kind tag body) s) →
      SelectionHeld p (Machine.commandArrives kind tag body effect s) := fun hleaves hbody he =>
    h.commandArrives hreceiver (Nat.le_of_ble_eq_true hbody) hleaves he
  have hends : ∀ (b : Bool) (r : Requester), SelectionHeld p (if b then Machine.operationEnds r s else s) :=
    fun b r => by
      split
      · exact h.operationEnds r
      · exact h
  cases i with
  | linkConfigure =>
    exact ⟨_, rfl, hfixed (configure_leaves _ _) rfl fun s => by
      simp only [Machine.answerRecord, runCommand_linkConfigure]⟩
  | linkActivate => exact ⟨_, rfl, hfixed (activate_leaves _) rfl fun _ => rfl⟩
  | linkIsolate => exact ⟨_, rfl, hfixed (isolateCommand_leaves _) rfl fun _ => rfl⟩
  | linkResume => exact ⟨_, rfl, hfixed (resume_leaves _) rfl fun _ => rfl⟩
  | linkDeactivate => exact ⟨_, rfl, hfixed (deactivate_leaves _) rfl fun _ => rfl⟩
  | linkUnconfigure => exact ⟨_, rfl, hfixed (unconfigure_leaves _) rfl fun _ => rfl⟩
  | linkStatus => exact ⟨_, rfl, hfixed (linkStatus_leaves _ _) rfl fun _ => rfl⟩
  | rootLoad tag link key =>
    have hkey : key.length ≤ 1036 := by simpa [WellFormed] using hwf
    refine ⟨_, rfl, h.commandArrives hreceiver ?_ (rootLoad_leaves _ _) fun _ => rfl⟩
    simp only [List.length_cons]
    omega
  | rootErase => exact ⟨_, rfl, hfixed (rootErase_leaves _) rfl fun _ => rfl⟩
  | storeStatus => exact ⟨_, rfl, hfixed storeStatus_leaves rfl fun _ => rfl⟩
  | renew => exact ⟨_, rfl, hfixed (renewCommand_leaves _) rfl fun _ => rfl⟩
  | trafficOut tag link payload =>
    have hpayload : payload.length ≤ 1037 := by simpa [WellFormed] using hwf
    refine ⟨_, rfl, h.commandArrives hreceiver ?_ (trafficOut_leaves _ _ _) fun _ => rfl⟩
    simp only [List.length_cons]
    omega
  | queueHold => exact ⟨_, rfl, hfixed (hold_leaves _) rfl fun _ => rfl⟩
  | queueRelease => exact ⟨_, rfl, hfixed (release_leaves _ _) rfl fun _ => rfl⟩
  | queueUnhold => exact ⟨_, rfl, hfixed (unhold_leaves _) rfl fun _ => rfl⟩
  | queueDiscard =>
    exact ⟨_, rfl, hfixed (discard_leaves _ _) rfl fun s => by
      simp only [Machine.answerRecord, runCommand_queueDiscard]⟩
  | mapSet => exact ⟨_, rfl, hfixed (mapSet_leaves _ _ _) rfl fun _ => rfl⟩
  | mapRead => exact ⟨_, rfl, hfixed (mapRead_leaves _) rfl fun _ => rfl⟩
  | mapCommit => exact ⟨_, rfl, hfixed mapCommit_leaves rfl fun _ => rfl⟩
  | trunkStatus => exact ⟨_, rfl, hfixed (trunkStatus_leaves _) rfl fun _ => rfl⟩
  | faultPolicy => exact ⟨_, rfl, hfixed (faultPolicy_leaves _ _ _ _) rfl fun _ => rfl⟩
  | faultList => exact ⟨_, rfl, hfixed (faultList_leaves _) rfl fun _ => rfl⟩
  | faultRead => exact ⟨_, rfl, hfixed (faultRead_leaves _ _) rfl fun _ => rfl⟩
  | faultPurge => exact ⟨_, rfl, hfixed faultPurge_leaves rfl fun _ => rfl⟩
  | setClock =>
    exact ⟨_, rfl, hfixed (setClock_leaves _) rfl fun s => by
      simp only [Machine.answerRecord, runCommand_setClock]⟩
  | identify => exact ⟨_, rfl, hfixed identify_leaves rfl fun _ => rfl⟩
  | reset => exact ⟨_, rfl, hfixed resetCommand_leaves rfl fun _ => rfl⟩
  | portMode | recordArrival | malformedRecord | powerOn | resetLineAssert | receiveCycle | signalAbsence =>
    cases hmay
  | takeRecord => exact ⟨_, rfl, hwhen _ _ h.takeRecord⟩
  | sendStart =>
    exact ⟨_, rfl, hwhen _ _ (h.of_view (selectionView_of_finishView (finishView_startSending s)))⟩
  | sendEnd => exact ⟨_, rfl, h.endSending (hreset rfl)⟩
  | resetLineRelease => exact ⟨_, rfl, hwhen _ _ (h.of_view rfl)⟩
  | tick => exact ⟨_, rfl, h.tickPart⟩
  | intervalTimerExpiry l => exact ⟨_, rfl, h.expiryEvent .interval l⟩
  | offerTimerExpiry l => exact ⟨_, rfl, h.expiryEvent .offer l⟩
  | graceTimerExpiry l => exact ⟨_, rfl, h.expiryEvent .grace l⟩
  | backoffTimerExpiry l => exact ⟨_, rfl, h.expiryEvent .backoff l⟩
  | sealingStart =>
    exact ⟨_, rfl, hwhen _ _
      (h.of_view (selectionView_of_finishView (finishView_startSealing (refreshRequests s))))⟩
  | blockOperationEnd =>
    refine ⟨_, rfl, ?_⟩
    split
    · exact h.operationEnds _
    · exact h
  | sealingCompletion => exact ⟨_, rfl, hends _ _⟩
  | openingStart =>
    exact ⟨_, rfl, hwhen _ _ (h.of_view (selectionView_of_finishView (finishView_startOpening s)))⟩
  | openingCompletion => exact ⟨_, rfl, hends _ _⟩
  | derivationBegin =>
    exact ⟨_, rfl, hwhen _ _ (h.of_view (selectionView_of_finishView (finishView_beginDerivation s)))⟩
  | derivationCompletion => exact ⟨_, rfl, hends _ _⟩
  | transmitCycleRequest => exact ⟨_, rfl, (h.of_view (selectionView_transmitCycle s)).finish⟩

end SelectionHeld

end Sys2Proof.Machine

namespace Sys2Proof.Proofs

open Sys2Proof Sys2Proof.Machine

/-- Settles O56: a port's event selects the port that R124 names and the circuits follow; of the other commands and
events none moves the selection but PORT_MODE and the resets. -/
theorem protectionSwitches : Obligations.ProtectionSwitches := by
  unfold Obligations.ProtectionSwitches
  refine ⟨?_, ?_, ?_, ?_, ?_, ?_, ?_, ?_⟩
  · intro s port good bytes hinput
    change Host.Outcome.next (receiveCycle port good bytes s) = _
    rw [receiveCycle, if_pos hinput]
  · intro s hmode hbefore hother
    have h := monitorEvent_leaves (f := fun _ => ⟨.lost, 0, 0⟩) hmode hbefore rfl hother
    exact ⟨_, exec_signalAbsence _ s, h.selected, h.up, h.switchCount, h.protectionSwitches, h.receiver,
      h.transmitters, h.keys⟩
  · intro s bytes hinput hmode hselected hseeking hgood
    have hmark := Monitor.mark_third_good hseeking hgood
    have h := monitorEvent_takes (f := fun m => m.mark true) hmode hselected (by rw [hseeking]; decide)
      (by rw [hmark])
    refine ⟨_, ?_, h.selected, h.up, h.switchCount, h.receiver⟩
    rw [exec_receiveCycle hinput]
    dsimp only
    rw [if_pos ⟨h.selected, by rw [(monitorEvent_monitor _ _ s).1, hmark]⟩]
  · intro s bytes hinput hmode haligned hbad
    have hmark := Monitor.mark_fourth_bad haligned hbad
    refine ⟨monitorEvent s.trunk.selected (fun m => m.mark false) s, ?_, fun hother => ?_, fun hother => ?_⟩
    · rw [exec_receiveCycle hinput]
      dsimp only
      rw [if_neg fun h => by rw [(monitorEvent_monitor _ _ s).1, hmark] at h; exact nomatch h.2]
    · have h := monitorEvent_leaves (f := fun m => m.mark false) hmode (by rw [haligned]; decide)
        (by rw [hmark]) hother
      exact ⟨h.selected, h.up, h.switchCount, h.protectionSwitches, h.receiver⟩
    · exact monitorEvent_stays (f := fun m => m.mark false) (by rw [hmark]) hother
  · intro s port good bytes i hinput hi
    rcases hi with rfl | rfl
    · exact portEvent_moves hinput (.inl ⟨rfl, rfl⟩)
    · exact portEvent_moves (good := good) (bytes := bytes) hinput (.inr ⟨rfl, rfl⟩)
  · intro s port good bytes i f hinput hi u
    have hacts := monitorEvent_reselects port f s
    obtain ⟨hmonitor, hother⟩ := monitorEvent_monitor port f s
    refine ⟨exec_portEvent hinput hi, hmonitor, hother, hacts.selected, hacts.link, fun l => ?_,
      hacts.live.trans (State.setMonitor_trunk_live s port _),
      hacts.shadow.trans (State.setMonitor_trunk_shadow s port _),
      hacts.mode.trans (State.setMonitor_trunk_mode s port _),
      hacts.transmitters.trans (State.setMonitor_trunk_transmitters s port _), hacts.keys, hacts.sealer,
      hacts.opener, hacts.engine, hacts.host, hacts.mem, hacts.queues, hacts.delivery⟩
    have hselected : u.trunk.selected = selectionAfter s port (f (s.monitor port)) := hacts.selected
    rw [hselected]
    exact hacts.receiver l
  · intro s t i hwf hmay hbuffer hreceiver hreset hexec
    have hheld : SelectionHeld s.trunk.selected s := ⟨rfl, by simp [hbuffer]⟩
    obtain ⟨t', hnext, hselected, _⟩ := hheld.exec hwf hmay hreceiver hreset
    rw [hnext] at hexec
    cases hexec
    exact hselected
  · intro s port hmode
    obtain ⟨hselected, hcount, hkept⟩ := monitorEvent_fixed hmode port fun _ => ⟨.lost, 0, 0⟩
    exact ⟨_, exec_signalAbsence port s, hselected, hcount, hkept⟩

end Sys2Proof.Proofs
end

section
/-! Room in a share (R102, R104): the lowest-numbered free descriptor and the lowest-numbered free units. -/

namespace Sys2Proof.Machine

/-! ### The first members of an ascending list -/

theorem takeSuch_eq (p : UnitNo → Bool) (n : Nat) (us : List UnitNo) : takeSuch p n us = (us.filter p).take n := by
  induction us generalizing n with
  | nil => cases n <;> rfl
  | cons u us ih =>
    cases n with
    | zero => rfl
    | succ n => by_cases hu : p u = true <;> simp [takeSuch, hu, ih]

/-- In an ascending list, what is below one of the first members is one of them. -/
theorem mem_take_of_lt {m n : Nat} {xs : List (Fin m)} (h : xs.Pairwise (· < ·)) {u v : Fin m} (hu : u ∈ xs.take n)
    (hv : v ∈ xs) (hlt : v < u) : v ∈ xs.take n := by
  rw [← List.take_append_drop n xs] at h hv
  obtain ⟨-, -, hbelow⟩ := List.pairwise_append.1 h
  exact (List.mem_append.1 hv).resolve_right fun hd => absurd hlt (Nat.not_lt.2 (Nat.le_of_lt (hbelow u hu v hd)))

/-- In an ascending list, the first member that passes a test has none below it that does. -/
theorem find?_ascending {m : Nat} {xs : List (Fin m)} (h : xs.Pairwise (· < ·)) {p : Fin m → Bool} {d : Fin m}
    (hd : xs.find? p = some d) {e : Fin m} (he : e ∈ xs) (hlt : e < d) : p e = false := by
  obtain ⟨-, before, after, rfl, hbefore⟩ := List.find?_eq_some_iff_append.1 hd
  obtain ⟨-, habove, -⟩ := List.pairwise_append.1 h
  rcases List.mem_append.1 he with he | he
  · simpa using hbefore e he
  · rcases List.mem_cons.1 he with rfl | he
    · exact absurd hlt (lt_irrefl _)
    · exact absurd hlt (Nat.not_lt.2 (Nat.le_of_lt ((List.pairwise_cons.1 habove).1 e he)))

/-! ### The free descriptors and units of a share -/

theorem mem_shareDescs {inbound : Bool} {d : DescNo} : d ∈ shareDescs inbound ↔ decide (384 ≤ d.val) = inbound := by
  simp [shareDescs]

theorem mem_shareUnits {inbound : Bool} {u : UnitNo} : u ∈ shareUnits inbound ↔ decide (1280 ≤ u.val) = inbound := by
  simp [shareUnits]

theorem shareDescs_ascending (inbound : Bool) : (shareDescs inbound).Pairwise (· < ·) :=
  (List.pairwise_lt_finRange 512).filter _

theorem shareUnits_ascending (inbound : Bool) : (shareUnits inbound).Pairwise (· < ·) :=
  (List.pairwise_lt_finRange 2048).filter _

/-- R102: the units of a share that no frame holds, in ascending order. -/
def freeUnits (s : State) (inbound : Bool) : List UnitNo :=
  (shareUnits inbound).filter fun u => !(heldUnits s inbound).contains u

theorem mem_freeUnits {s : State} {inbound : Bool} {u : UnitNo} :
    u ∈ freeUnits s inbound ↔ decide (1280 ≤ u.val) = inbound ∧ u ∉ heldUnits s inbound := by
  simp [freeUnits, mem_shareUnits]

theorem freeUnits_ascending (s : State) (inbound : Bool) : (freeUnits s inbound).Pairwise (· < ·) :=
  (shareUnits_ascending inbound).filter _

theorem lowestFreeUnits_eq (s : State) (inbound : Bool) (n : Nat) :
    lowestFreeUnits s inbound n = (freeUnits s inbound).take n :=
  takeSuch_eq _ n _

theorem lowestFreeDesc_eq_some {s : State} {inbound : Bool} {d : DescNo} (h : lowestFreeDesc s inbound = some d) :
    s.desc d = none ∧ d ∈ shareDescs inbound := by
  unfold lowestFreeDesc at h
  exact ⟨by simpa using List.find?_some h, List.mem_of_find?_eq_some h⟩

/-- R102: every descriptor of the share below the one found is held. -/
theorem lowestFreeDesc_below {s : State} {inbound : Bool} {d e : DescNo} (h : lowestFreeDesc s inbound = some d)
    (he : e ∈ shareDescs inbound) (hlt : e < d) : s.desc e ≠ none := by
  unfold lowestFreeDesc at h
  rw [Option.ne_none_iff_isSome]
  simpa using find?_ascending (shareDescs_ascending inbound) h he hlt

theorem lowestFreeDesc_eq_none {s : State} {inbound : Bool} (h : lowestFreeDesc s inbound = none) :
    ∀ d ∈ shareDescs inbound, s.desc d ≠ none := by
  simpa [lowestFreeDesc] using h

/-! ### The room found -/

/-- R104: what is found is a free descriptor of the share and as many of its lowest free units as asked for. -/
theorem findRoom_eq_some_iff {s : State} {inbound : Bool} {n : Nat} {d : DescNo} {us : List UnitNo} :
    findRoom s inbound n = some (d, us) ↔
      lowestFreeDesc s inbound = some d ∧ us = (freeUnits s inbound).take n ∧ us.length = n := by
  unfold findRoom
  rw [lowestFreeUnits_eq]
  cases lowestFreeDesc s inbound with
  | none => simp
  | some e =>
    by_cases hn : ((freeUnits s inbound).take n).length = n
    · simp only [hn, if_true, Option.some.injEq, Prod.mk.injEq]
      constructor
      · rintro ⟨rfl, rfl⟩
        exact ⟨rfl, rfl, hn⟩
      · rintro ⟨rfl, rfl, -⟩
        exact ⟨rfl, rfl⟩
    · simp only [hn, if_false, reduceCtorEq, false_iff]
      rintro ⟨-, rfl, hlength⟩
      exact hn hlength

theorem findRoom_eq_none {s : State} {inbound : Bool} {n : Nat} (h : findRoom s inbound n = none) :
    lowestFreeDesc s inbound = none ∨ (freeUnits s inbound).length < n := by
  by_contra hroom
  rw [not_or, Option.eq_none_iff_forall_ne_some, not_forall] at hroom
  obtain ⟨⟨d, hd⟩, hunits⟩ := hroom
  have hlength : ((freeUnits s inbound).take n).length = n := by
    rw [List.length_take, Nat.min_eq_left (Nat.not_lt.1 hunits)]
  rw [findRoom_eq_some_iff.2 ⟨not_not.1 hd, rfl, hlength⟩] at h
  cases h

/-- R102, R104: the descriptor and the units of the room found, as its takers need them. -/
structure Room (s : State) (inbound : Bool) (n : Nat) (d : DescNo) (us : List UnitNo) : Prop where
  free : s.desc d = none
  share : d ∈ shareDescs inbound
  length : us.length = n
  ascending : us.Pairwise (· < ·)
  unit : ∀ u ∈ us, decide (1280 ≤ u.val) = inbound ∧ u ∉ heldUnits s inbound

theorem room_of_findRoom {s : State} {inbound : Bool} {n : Nat} {d : DescNo} {us : List UnitNo}
    (h : findRoom s inbound n = some (d, us)) : Room s inbound n d us := by
  obtain ⟨hd, rfl, hlength⟩ := findRoom_eq_some_iff.1 h
  obtain ⟨hfree, hshare⟩ := lowestFreeDesc_eq_some hd
  exact ⟨hfree, hshare, hlength, (freeUnits_ascending s inbound).sublist (List.take_sublist _ _),
    fun u hu => mem_freeUnits.1 (List.mem_of_mem_take hu)⟩

theorem Room.nodup {s : State} {inbound : Bool} {n : Nat} {d : DescNo} {us : List UnitNo}
    (h : Room s inbound n d us) : us.Nodup :=
  h.ascending.imp fun hlt => ne_of_lt hlt

end Sys2Proof.Machine

namespace Sys2Proof.Proofs

open Sys2Proof Sys2Proof.Machine

/-- Settles O30: the descriptor is the first free one of an ascending list, the units the first of another; and
where there is no room, one list is empty or the other too short. -/
theorem roomIsLowestNumbered : Obligations.RoomIsLowestNumbered := by
  unfold Obligations.RoomIsLowestNumbered
  intro s inbound n inShare isFree
  refine ⟨fun d us h => ?_, fun h => ?_⟩
  · have hroom := room_of_findRoom h
    obtain ⟨hd, hus, -⟩ := findRoom_eq_some_iff.1 h
    refine ⟨hroom.free, mem_shareDescs.1 hroom.share, fun e hlt he => ?_, hroom.length, hroom.ascending,
      hroom.unit, fun u v hu hlt hv => ?_⟩
    · exact lowestFreeDesc_below hd (mem_shareDescs.2 he) hlt
    · rw [hus] at hu ⊢
      exact mem_take_of_lt (freeUnits_ascending s inbound) hu (mem_freeUnits.2 hv) hlt
  · refine (findRoom_eq_none h).imp (fun hd d hshare => ?_) fun hshort us hnodup hus => ?_
    · exact lowestFreeDesc_eq_none hd d (mem_shareDescs.2 hshare)
    · exact (hnodup.subperm fun u hu => mem_freeUnits.2 (hus u hu)).length_le.trans_lt hshort

end Sys2Proof.Proofs
end

section
/-! The commands on outbound queues: QUEUE_HOLD, QUEUE_RELEASE, QUEUE_UNHOLD, QUEUE_DISCARD and TRAFFIC_OUT. -/

namespace Sys2Proof.Machine

/-! ### The hold controls (R110 to R112) -/

section Hold

variable {s : State} {link : Byte} {l : LinkId} (hl : linkOfByte link = some l) (hlive : (s.link l).live = true)
include hl hlive

theorem onLiveLink_live (f : LinkId → State → State × Answer) : onLiveLink link f s = f l s := by
  rw [onLiveLink_some hl, if_pos hlive]

theorem hold_live : hold link s = queueReply l (s.modLink l fun k => { k with hold := true }) :=
  onLiveLink_live hl hlive _

theorem release_live {count : Byte} (hcount : count ≠ 0) :
    release link count s = queueReply l (s.modLink l fun k => { k with allowance := count.toNat }) :=
  (onLiveLink_live hl hlive _).trans (if_neg hcount)

theorem release_live_zero : release link 0 s = refuse .badValue s :=
  (onLiveLink_live hl hlive _).trans (if_pos rfl)

theorem unhold_live :
    unhold link s = queueReply l (s.modLink l fun k => { k with hold := false, allowance := 0 }) :=
  onLiveLink_live hl hlive _

/-! ### QUEUE_DISCARD (R113) -/

theorem discard_live_badValue {count : W16} (hcount : 384 < count.toNat) :
    discard link count s = refuse .badValue s :=
  (onLiveLink_live hl hlive _).trans (if_pos hcount)

/-- R113: the part with the first frames of a queue freed and gone from it, before the starts of the event. -/
def dequeued (l : LinkId) (n : Nat) (s : State) : State :=
  (freeFrames ((s.queue l).take n) s).setQueue l ((s.queue l).drop n)

/-- R113: the number of frames that QUEUE_DISCARD removes for a count. -/
def discardCount (s : State) (l : LinkId) (count : Nat) : Nat :=
  if count = 0 then (s.queue l).length else min count (s.queue l).length

omit hl hlive in
theorem discarded_eq (count : Nat) : discarded s l count = (s.queue l).take (discardCount s l count) := by
  unfold discarded discardCount
  split
  · rw [List.take_length]
  · rw [List.take_eq_take_iff]
    simp

omit hl hlive in
theorem length_discarded (count : Nat) : (discarded s l count).length = discardCount s l count := by
  have hle : discardCount s l count ≤ (s.queue l).length := by
    unfold discardCount
    split
    · exact Nat.le_refl _
    · exact Nat.min_le_right _ _
  rw [discarded_eq, List.length_take, Nat.min_eq_left hle]

theorem discard_live {count : W16} (hcount : count.toNat ≤ 384) :
    let n := discardCount s l count.toNat
    let t := settleBlocks (dequeued l n s)
    discard link count s =
      okWith (queueBytes t l ++ beBytes 2 n ++ ((s.queue l).take n).map (hostTagOf s)) t := by
  intro n t
  refine (onLiveLink_live hl hlive _).trans ?_
  dsimp only
  rw [if_neg (Nat.not_lt.2 hcount), length_discarded, discarded_eq]
  rfl

end Hold

theorem dequeued_eq (l : LinkId) (n : Nat) (s : State) : ∃ descs,
    dequeued l n s = { s with store := { s.store with
      descs := descs, queues := tput s.store.queues l ((s.queue l).drop n) } } ∧
    ∀ d, tget descs d = if d ∈ (s.queue l).take n then none else s.desc d := by
  obtain ⟨descs, e, hdescs⟩ := freeFrames_eq ((s.queue l).take n) s
  exact ⟨descs, by rw [dequeued, e]; rfl, hdescs⟩

/-! ### TRAFFIC_OUT (R106, R107) -/

section TrafficOut

variable {s : State} {tag link : Byte} {payload : List Byte} {l : LinkId} {p : Profile}

theorem trafficOut_live (hl : linkOfByte link = some l) (hlive : (s.link l).live = true)
    (hp : (s.link l).profile = some p) : trafficOut tag link payload s = admitTraffic tag payload p l s := by
  simp only [trafficOut, hl, hlive, if_true, hp]

theorem admitTraffic_badValue (h : payload.length = 0 ∨ p.maxPayload < payload.length) :
    admitTraffic tag payload p l s = refuseTraffic .badValue l s :=
  if_pos h

variable (hlow : 1 ≤ payload.length) (hhigh : payload.length ≤ p.maxPayload)
include hlow hhigh

theorem admitTraffic_quota (h : p.quota < queueUnits s l + unitsFor payload.length) :
    admitTraffic tag payload p l s = refuseTraffic .quota l s := by
  rw [admitTraffic]
  dsimp only
  rw [if_neg (by omega), if_pos h]

variable (hquota : queueUnits s l + unitsFor payload.length ≤ p.quota)
include hquota

theorem admitTraffic_storeFull (h : findRoom s false (unitsFor payload.length) = none) :
    admitTraffic tag payload p l s = refuseTraffic .storeFull l s := by
  rw [admitTraffic]
  dsimp only
  rw [if_neg (by omega), if_neg (by omega), h]

theorem admitTraffic_accepted {d : DescNo} {us : List UnitNo}
    (h : findRoom s false (unitsFor payload.length) = some (d, us)) :
    admitTraffic tag payload p l s = (admitOutbound l tag payload d us s,
      ⟨.accepted, beBytes 2 ((s.queue l).length + 1), false⟩) := by
  have hqueue : (admitOutbound l tag payload d us s).queue l = s.queue l ++ [d] := tget_tput_self _ _ _
  have hdepth : depthBytes (admitOutbound l tag payload d us s) l = beBytes 2 ((s.queue l).length + 1) := by
    rw [depthBytes, hqueue, List.length_append, List.length_singleton]
  rw [admitTraffic]
  dsimp only
  rw [if_neg (by omega), if_neg (by omega), h]
  dsimp only
  rw [hdepth]

end TrafficOut

/-- R107: a payload written from the start of a chain that has room for it stands there. -/
theorem chainBytes_written {us : List UnitNo} (hnodup : us.Nodup) {mem : List Host.Cell} (hwf : Memory.wf mem = true)
    {payload : List Byte} (hlength : payload.length ≤ 64 * us.length) :
    chainBytes (writeChain us 0 payload mem) us 0 payload.length = payload := by
  rw [chainBytes_writeChain hnodup hwf (Nat.zero_add _).le hlength, overwritten, List.take_zero, List.nil_append,
    Nat.zero_add, List.drop_eq_nil_of_le (length_chainBytes _ _ _ _).le, List.append_nil]

end Sys2Proof.Machine

namespace Sys2Proof.Proofs

open Sys2Proof Sys2Proof.Machine

/-- Settles O31: each control is one change of the link, and the reply is built when the blocks have come to rest. -/
theorem holdControls : Obligations.HoldControls := by
  unfold Obligations.HoldControls
  intro s tag link count l h hl hlive held released unheld
  exact ⟨commandArrives_of_takesAtOnce h (Nat.le_of_ble_eq_true rfl) (hold_live hl hlive),
    fun hcount => commandArrives_of_takesAtOnce h (Nat.le_of_ble_eq_true rfl) (release_live hl hlive hcount),
    commandArrives_of_takesAtOnce h (Nat.le_of_ble_eq_true rfl) (release_live_zero hl hlive),
    commandArrives_of_takesAtOnce h (Nat.le_of_ble_eq_true rfl) (unhold_live hl hlive)⟩

/-- Settles O32: the frames removed are the first of the queue, and freeing them touches their descriptors alone. -/
theorem queueDiscardFreesTheHead : Obligations.QueueDiscardFreesTheHead := by
  unfold Obligations.QueueDiscardFreesTheHead
  intro s tag link count l h hl hlive
  refine ⟨fun hcount => ?_, fun hcount => ?_⟩
  · exact commandArrives_of_takesAtOnce h (Nat.le_of_ble_eq_true rfl) (discard_live_badValue hl hlive hcount)
  · intro n
    obtain ⟨descs, e, hdescs⟩ := dequeued_eq l n s
    refine ⟨dequeued l n s, commandArrives_of_takesAtOnce h (Nat.le_of_ble_eq_true rfl) (discard_live hl hlive hcount),
      ?_⟩
    rw [e]
    exact ⟨tget_tput_self _ _ _, fun j hj => tget_tput_of_ne _ _ hj.symm, fun d hd => (hdescs d).trans (if_pos hd),
      fun d hd => (hdescs d).trans (if_neg hd), rfl, rfl, rfl, rfl, rfl, rfl, rfl, rfl, rfl, rfl⟩

/-- Settles O29: the checks of R106 in their order; an admission takes the room found, and the payload goes into
its units. -/
theorem trafficOutIsAdmitted : Obligations.TrafficOutIsAdmitted := by
  unfold Obligations.TrafficOutIsAdmitted
  intro s tag link l p payload h hmem hl hlive hp hlength depth n
  have answers : ∀ {t code fields}, admitTraffic tag payload p l s = (t, ⟨code, fields, false⟩) →
      exec (.trafficOut tag link payload) s = .next (replied tag code fields t) := fun he =>
    commandArrives_of_takesAtOnce h (by simp only [List.length_cons]; omega)
      ((trafficOut_live hl hlive hp).trans he)
  refine ⟨fun hrange => answers (admitTraffic_badValue hrange), fun hlow hhigh =>
    ⟨fun hquota => answers (admitTraffic_quota hlow hhigh hquota),
      fun hquota => ⟨fun hroom => ?_, fun d us hroom => ?_⟩⟩⟩
  · exact answers (admitTraffic_storeFull hlow hhigh hquota hroom)
  · have hfound := room_of_findRoom hroom
    have hfits : payload.length ≤ 64 * us.length := by
      rw [hfound.length]
      omega
    exact ⟨answers (admitTraffic_accepted hlow hhigh hquota hroom), chainBytes_written hfound.nodup hmem.1 hfits,
      fun a ha => read_writeChain_of_notMem us payload ha 0 s.store.mem hmem.1⟩

end Sys2Proof.Proofs
end

section
/-! What the laws of the units, the circuit receivers and the frame store look at, and the operations on links and
keys that leave all of it. -/

namespace Sys2Proof.Machine

/-- R102 to R105: what the law of the frame store looks at. -/
def coreView (s : State) :=
  ((fun l => ((s.link l).live, (s.link l).profile)), s.sealer.current, s.opener,
    (s.store.descs, s.store.queues, s.store.delivery), s.trunk.receivers, s.trunk.transmitters, lineFrame s.host)

/-- R102 to R105, R132, R136: what the laws of the units, the circuit receivers and the frame store look at. -/
def storeView (s : State) :=
  (coreView s, s.store.mem, s.trunk.live, s.trunk.selected, s.trunk.monitorA, s.trunk.monitorB)

theorem mem_of_storeView {s t : State} (h : storeView t = storeView s) : t.store.mem = s.store.mem :=
  congrArg (fun v => v.2.1) h

section Primitives

variable (s : State)

/-- A change of a link that keeps its profile, and keeps it live or not. -/
theorem storeView_modLink {l : LinkId} {f : Link → Link}
    (hf : (f (s.link l)).live = (s.link l).live ∧ (f (s.link l)).profile = (s.link l).profile) :
    storeView (s.modLink l f) = storeView s := by
  have hlinks : (fun j => (((s.modLink l f).link j).live, ((s.modLink l f).link j).profile)) =
      fun j => ((s.link j).live, (s.link j).profile) := by
    funext j
    rw [State.link_modLink]
    split
    · next e => rw [← e, hf.1, hf.2]
    · rfl
  unfold storeView coreView
  rw [hlinks]
  rfl

/-- A change that keeps every link's state and profile. -/
@[simp] theorem storeView_modLink_keep {l : LinkId} {f : Link → Link}
    (hf : ∀ x, (f x).state = x.state ∧ (f x).profile = x.profile) : storeView (s.modLink l f) = storeView s := by
  obtain ⟨hstate, hprofile⟩ := hf (s.link l)
  exact storeView_modLink s ⟨by rw [Link.live, hstate]; rfl, hprofile⟩

@[simp] theorem storeView_modRenewal (l : LinkId) (f : Renewal → Renewal) :
    storeView (s.modRenewal l f) = storeView s := storeView_modLink s ⟨rfl, rfl⟩
@[simp] theorem storeView_count (l : LinkId) (c : Counter) : storeView (s.count l c) = storeView s :=
  storeView_modLink s ⟨rfl, rfl⟩
@[simp] theorem storeView_modFaults (f : Supervisor → Supervisor) : storeView (s.modFaults f) = storeView s := rfl
@[simp] theorem storeView_modEvents (l : LinkId) (f : LinkEvents → LinkEvents) :
    storeView (s.modEvents l f) = storeView s := rfl
@[simp] theorem storeView_modSlot (k : SlotNo) (f : KeySlot → KeySlot) : storeView (s.modSlot k f) = storeView s := rfl
@[simp] theorem storeView_setRequests (r : List DerivationRequest) : storeView (s.setRequests r) = storeView s := rfl
@[simp] theorem storeView_setDerivation (d : Option Derivation) : storeView (s.setDerivation d) = storeView s := rfl
@[simp] theorem storeView_listNotice (n : NoticeItem) : storeView (s.listNotice n) = storeView s := rfl
@[simp] theorem storeView_leaveWaitList (l : LinkId) : storeView (leaveWaitList l s) = storeView s := rfl
@[simp] theorem storeView_raiseInFlight (k : SlotNo) : storeView (raiseInFlight k s) = storeView s := rfl
@[simp] theorem storeView_replaceEntry (e : FaultEntry) : storeView (replaceEntry e s) = storeView s := rfl

@[simp] theorem storeView_grant : storeView (grant s) = storeView s := by
  obtain ⟨_, e⟩ := grant_rest s
  rw [e]
  rfl

@[simp] theorem storeView_setEventPending (l : LinkId) : storeView (s.setEventPending l) = storeView s := by
  rcases setEventPending_cases l s with ⟨_, e⟩ | ⟨_, e⟩ <;> simp [e]

theorem storeView_countTimers : storeView (countTimers s) = storeView s := by
  have hlinks : (fun j => (((countTimers s).link j).live, ((countTimers s).link j).profile)) =
      fun j => ((s.link j).live, (s.link j).profile) := by
    funext j
    rw [State.link_countTimers]
    rfl
  unfold storeView coreView
  rw [hlinks]
  rfl

end Primitives

/-! ### Renewals, triggers and releases -/

/-- Starts of renewals. -/
theorem storeView_of_frame {ls : List LinkId} {s t : State} (h : RenewalFrame ls s t) : storeView t = storeView s := by
  have hlinks : (fun j => ((t.link j).live, (t.link j).profile)) = fun j => ((s.link j).live, (s.link j).profile) :=
    funext fun j => congrArg (fun x => (x.live, x.profile)) (h.kept j)
  unfold storeView coreView
  rw [hlinks, h.rest]

section Renewals

variable (s : State)

@[simp] theorem storeView_trigger (l : LinkId) : storeView (trigger l s) = storeView s :=
  storeView_of_frame (trigger_frame l s)
@[simp] theorem storeView_reevaluate (l : LinkId) : storeView (reevaluate l s) = storeView s :=
  storeView_of_frame (reevaluate_frame l s)
@[simp] theorem storeView_handOver : storeView (handOver s) = storeView s := storeView_of_frame (handOver_frame s).1

@[simp] theorem storeView_releaseSlots (ks : List SlotNo) : storeView (releaseSlots ks s) = storeView s := by
  simp [storeView, coreView, releaseSlots_eq_released]

@[simp] theorem storeView_lowerInFlight (k : SlotNo) : storeView (lowerInFlight k s) = storeView s := by
  rcases lowerInFlight_cases k s with ⟨_, _, e⟩ | ⟨_, e⟩ <;> simp [e]

@[simp] theorem storeView_chargeSlot (k : SlotNo) (l : LinkId) (n : Nat) :
    storeView (chargeSlot k l n s) = storeView s := by
  obtain ⟨_, _, e | e⟩ := chargeSlot_frame k l n s <;> simp [e]

/-- R13: an isolated link is live as it was. -/
theorem storeView_isolate {l : LinkId} (hl : (s.link l).live = true) : storeView (isolate l s) = storeView s := by
  have hstate : storeView (s.modLink l fun x => { x with state := .isolated }) = storeView s :=
    storeView_modLink s ⟨by rw [hl]; rfl, rfl⟩
  simp [isolate, abortRenewal, hstate]

@[simp] theorem storeView_autoIsolate (l : LinkId) : storeView (autoIsolate l s) = storeView s := by
  unfold autoIsolate
  split
  · next hactive => rw [storeView_setEventPending, storeView_isolate s (Link.live_eq_true.2 (.inl hactive))]
  · rfl

@[simp] theorem storeView_failRenewal (l : LinkId) : storeView (failRenewal l s) = storeView s := by
  unfold failRenewal
  dsimp only
  split <;> simp

@[simp] theorem storeView_cutover (l : LinkId) : storeView (cutover l s) = storeView s := by simp [cutover]

@[simp] theorem storeView_retire (l : LinkId) : storeView (retire l s) = storeView s := by simp [retire]

@[simp] theorem storeView_reportEpoch (l : LinkId) (epoch : Nat) : storeView (reportEpoch l epoch s) = storeView s := by
  unfold reportEpoch
  split
  · split <;> simp
  · rfl

@[simp] theorem storeView_handAccept (l : LinkId) (epoch : Nat) (echo ns : Nonce) :
    storeView (handAccept l epoch echo ns s) = storeView s := by
  unfold handAccept
  dsimp only
  split
  · split <;> simp
  · simp

@[simp] theorem storeView_reportSealed (r : Sealing) : storeView (reportSealed r s) = storeView s := by
  unfold reportSealed reportOffer reportCutover
  split
  · split <;> simp
  · split <;> simp
  · rfl
  · rfl
  · rfl

theorem storeView_expire (t : TimerName) (l : LinkId) : storeView (expire t l s) = storeView s := by
  cases t with
  | interval => simp [expire, expireInterval]
  | offer =>
    unfold expire expireOffer
    dsimp only
    split
    · split <;> simp
    · simp
  | grace =>
    unfold expire expireGrace
    dsimp only
    split <;> simp
  | backoff =>
    unfold expire expireBackoff
    dsimp only
    split <;> simp

/-! ### The deriver, the sampling, a notice's send start -/

theorem storeView_beginDerivation : storeView (beginDerivation s) = storeView s := by
  unfold beginDerivation
  split <;> simp

theorem storeView_completeDerivation (d : Derivation) : storeView (completeDerivation d s) = storeView s := by
  unfold completeDerivation queueCutover
  dsimp only
  split
  · split <;> simp
  · simp

theorem storeView_declarationAct (source : FaultSource) (kind : FaultKind) :
    storeView (declarationAct source kind s) = storeView s := by
  unfold declarationAct tagFaultAction
  split
  · split
    · split <;> simp
    · rfl
  · rfl

theorem storeView_stepEntry (now : W32) (c : Condition) (e : FaultEntry) :
    storeView (stepEntry now c e s) = storeView s := by
  have hjoin : ∀ (b : Bool) (n : NoticeItem) (t : State),
      storeView (if b = true then t.listNotice n else t) = storeView t := fun b n t => by
    split <;> rfl
  unfold stepEntry
  dsimp only
  split
  · rw [storeView_declarationAct, hjoin, storeView_replaceEntry]
  · rw [hjoin, storeView_replaceEntry]

theorem storeView_sampleCondition (now : W32) (c : Condition) :
    storeView (sampleCondition now s c) = storeView s := by
  unfold sampleCondition createEntry
  split
  · exact storeView_stepEntry s now c _
  · split
    · split
      · rw [storeView_stepEntry, storeView_modFaults]
      · rfl
    · rfl

theorem storeView_sampling : storeView (sampling s) = storeView s := by
  have hfold : storeView ((conditions s).foldl (sampleCondition s.host.clock) s) = storeView s :=
    List.foldlRecOn (motive := fun t => storeView t = storeView s) _ _ rfl fun t ht c _ =>
      (storeView_sampleCondition t _ c).trans ht
  unfold sampling
  rw [storeView_modFaults, storeView_sampleCondition, hfold]

theorem storeView_clearPending (n : NoticeItem) : storeView (clearPending n s) = storeView s := by
  cases n with
  | ready => rfl
  | fault source kind => rfl
  | link l => exact storeView_modLink s ⟨rfl, rfl⟩

end Renewals

end Sys2Proof.Machine
end

section
/-! The bytes of the units: every command and event leaves them in their canonical form, within the 2048 units. -/

namespace Sys2Proof.Machine

theorem mem_of_finishView {s t : State} (h : finishView t = finishView s) : t.store.mem = s.store.mem :=
  congrArg (fun v => v.2.2.2.1) h

namespace MemoryLaw

variable {s t : State} (h : MemoryLaw s)
include h

theorem of_mem (ht : t.store.mem = s.store.mem) : MemoryLaw t := by
  unfold MemoryLaw
  rw [ht]
  exact h

theorem of_view (ht : storeView t = storeView s) : MemoryLaw t := h.of_mem (mem_of_storeView ht)

/-- R102: bytes written into the units of a chain. -/
theorem writeUnits (chain : List UnitNo) (j : Nat) (bs : List Byte) : MemoryLaw (s.writeUnits chain j bs) :=
  ⟨wf_writeChain chain bs j _ h.1, mem_writeChain_lt chain bs j _ h.2⟩

end MemoryLaw

/-! ### Ends of operations -/

theorem mem_lowerInFlight (k : SlotNo) (s : State) : (lowerInFlight k s).store.mem = s.store.mem :=
  mem_of_storeView (storeView_lowerInFlight s k)

theorem mem_freeSealed (r : Sealing) (s : State) : (freeSealed r s).store.mem = s.store.mem := by
  unfold freeSealed
  split <;> rfl

theorem mem_handToTransmitter (r : Sealing) (s : State) : (handToTransmitter r s).store.mem = s.store.mem := by
  unfold handToTransmitter
  split <;> rfl

theorem mem_reportSealed (r : Sealing) (s : State) : (reportSealed r s).store.mem = s.store.mem :=
  mem_of_storeView (storeView_reportSealed s r)

theorem mem_completeSealing (r : Sealing) (s : State) : (completeSealing r s).store.mem = s.store.mem := by
  have hlowered : (lowerInFlight r.slot (writeTag r (tagOf r.tagChain) (s.setSealing none))).store.mem =
      s.store.mem := by
    rw [mem_lowerInFlight]
    rcases writeTag_cases r (tagOf r.tagChain) (s.setSealing none) with ⟨_, e⟩ | ⟨_, _, e⟩
    · rw [e]
      rfl
    · rw [e]
      rfl
  unfold completeSealing
  dsimp only
  split
  · rw [mem_freeSealed, hlowered]
  · split
    · rw [mem_reportSealed, mem_handToTransmitter]
      exact hlowered
    · rw [mem_reportSealed, mem_freeSealed]
      exact hlowered

theorem mem_disposeGood (r : Opening) (s : State) : (disposeGood r s).store.mem = s.store.mem := by
  have hfree : ∀ {t : State}, storeView t = storeView s → (t.freeFrame r.desc).store.mem = s.store.mem :=
    fun {t} ht => (mem_of_storeView ht : t.store.mem = s.store.mem)
  unfold disposeGood handAsk
  dsimp only
  split
  · split <;> rfl
  · exact hfree (storeView_handAccept s _ _ _ _)
  · exact hfree (storeView_trigger s _)
  · rfl
  · rfl

theorem mem_completeOpening (r : Opening) (s : State) : (completeOpening r s).store.mem = s.store.mem := by
  unfold completeOpening
  dsimp only
  split
  · exact mem_lowerInFlight _ _
  · split
    · rw [mem_disposeGood, mem_of_storeView (storeView_reportEpoch _ _ _), mem_lowerInFlight]
      rfl
    · exact mem_lowerInFlight _ _

theorem MemoryLaw.sealingOperation {s : State} (h : MemoryLaw s) (r : Sealing) (i : Nat) :
    MemoryLaw (sealingOperation r i s).1 := by
  unfold Machine.sealingOperation
  dsimp only
  split
  · exact h
  · split
    · unfold writeSealing
      split
      · exact h.writeUnits _ _ _
      · exact h
    · exact h

theorem MemoryLaw.openingOperation {s : State} (h : MemoryLaw s) (r : Opening) (i : Nat) :
    MemoryLaw (openingOperation r i s).1 := by
  unfold Machine.openingOperation
  dsimp only
  split
  · exact h
  · split
    · exact h
    · exact h.writeUnits _ _ _

theorem MemoryLaw.endOperation {s : State} (h : MemoryLaw s) (q : Requester) : MemoryLaw (endOperation q s) := by
  cases q with
  | sealer =>
    simp only [Machine.endOperation, endSealerOperation]
    split
    · next r _ =>
      have hwritten := h.sealingOperation r (cost r.length - r.left)
      split
      · exact hwritten.of_mem (mem_completeSealing _ _)
      · exact hwritten
    · exact h
  | opener =>
    simp only [Machine.endOperation, endOpenerOperation]
    split
    · next r _ =>
      have hwritten := h.openingOperation r (cost r.length - r.left)
      split
      · exact hwritten.of_mem (mem_completeOpening _ _)
      · exact hwritten
    · exact h
  | deriver =>
    simp only [Machine.endOperation, endDeriverOperation]
    split
    · split
      · exact h.of_view (storeView_completeDerivation _ _)
      · exact h
    · exact h

theorem memoryLaw_effects : EffectsKeep MemoryLaw where
  refresh _ h := h
  draw _ _ h := h
  sealing s _ _ h := h.of_mem (mem_of_finishView (finishView_startSealing s))
  opening s _ h := h.of_mem (mem_of_finishView (finishView_startOpening s))
  derivation s _ h := h.of_view (storeView_beginDerivation s)
  queue _ _ h := h
  host _ _ _ h := h
  traffic _ _ _ _ _ h := h
  sent _ _ _ _ _ h := h
  reset _ _ _ h := h
  report _ _ _ _ h := h
  holds _ _ _ _ _ h := h
  profile _ _ _ _ _ _ _ h := h
  root _ _ _ h := h
  activation _ _ _ _ _ h := h
  isolation s l hl h := h.of_view (storeView_isolate s (Link.live_eq_true.2 (.inl hl)))
  resumption _ _ _ h := h
  triggered s l h := h.of_view (storeView_trigger s l)
  torn s l _ h := by
    obtain ⟨_, _, e, _⟩ := disposeFrames_eq l s
    have hdisposed : MemoryLaw (disposeFrames l s) := by
      rw [e]
      exact h
    unfold teardown
    generalize disposeFrames l s = t at hdisposed ⊢
    have hslots : MemoryLaw (((leaveWaitList l t).modLink l tornDown).setSealRequests
        (t.sealer.requests.filter fun x => x ≠ l)) := hdisposed
    exact hslots.of_view ((storeView_handOver _).trans (storeView_releaseSlots _ _))
  timers _ h := h
  offerTimer _ _ _ h := h
  expiry t l s h := h.of_view (storeView_expire s t l)
  operation r _ h := h.endOperation r
  engine _ _ h := h
  outbound _ _ _ _ _ _ _ _ _ _ _ h := h.writeUnits _ _ _
  dequeue s l n h := by
    obtain ⟨_, e, _⟩ := freeFrames_eq ((s.queue l).take n) s
    rw [e]
    exact h
  units _ _ _ _ h := h.writeUnits _ _ _
  trunk _ _ _ _ _ _ h := h
  monitor _ p _ _ h := by cases p <;> exact h
  reception s l h := by
    obtain ⟨_, _, e⟩ := abandonReception_eq l s
    rw [e]
    exact h
  transmission s l h := by
    obtain ⟨_, e, _⟩ := abandonTransmission_eq l s
    rw [e]
    exact h
  receiver _ _ _ _ h := h
  inbound _ _ _ _ _ _ _ _ h := h
  received _ _ _ _ _ h := h
  transmitter _ _ _ _ h := h
  transmitted _ _ _ _ _ h := h
  counts _ _ _ _ h := h
  policy _ _ _ _ h := h
  entries _ _ _ h := h

/-- R102: every step keeps the unit bytes canonical and within the 2048 units. -/
theorem step_memoryLaw {s t : State} (hs : MemoryLaw s) (ht : step s = .next t) : MemoryLaw t :=
  memoryLaw_effects.step hs ht

end Sys2Proof.Machine
end

section
/-! The induction over commands and events, for a law that tells the frame on the outbound line: the line is freed
alone only where no frame is on it. -/

namespace Sys2Proof.Machine

/-- A property kept by every effect of a command or an event. -/
structure EventsKeep (P : State → Prop) : Prop extends PortKeeps P where
  queue : ∀ s q, P s → P { s with pending := q }
  port : ∀ s f, (f s.host).line = s.host.line → P s → P (s.modHost f)
  arrival : ∀ s x, P s → P (receive x s)
  timers : ∀ s, P s → P (countTimers s)
  sample : ∀ s, P s → P (sampling s)
  expiry : ∀ t l s, P s → P (expire t l s)
  operation : ∀ r s, P s → P (endOperation r s)
  unit : ∀ s, P s → P (freeUnit s)
  monitor : ∀ p f s, (∀ m : Monitor, f m = m.absent ∨ ∃ good, f m = m.mark good) → P s → P (monitorEvent p f s)
  cycle : ∀ bytes s, P s → P (feedCycle bytes s)
  transmit : ∀ s, P s → P (transmitCycle s)
  line : ∀ s r, s.host.line = some r → r.frame = none → P s → P (s.setLine none)
  sent : ∀ s r d, s.host.line = some r → r.frame = some d → P s → P ((s.setLine none).freeFrame d)
  reset : ∀ cause input s, P s → P (resetPart cause input s)

namespace EventsKeep

variable {P : State → Prop} (h : EventsKeep P)
include h

theorem showAttention (s : State) (hs : P s) : P (showAttention s) := by
  unfold Machine.showAttention
  exact h.port s _ rfl hs

theorem finish (s : State) (hs : P s) : P (finish s) := h.showAttention _ (settle_keeps h.toPortKeeps s hs)

theorem advanceClock (s : State) (hs : P s) : P (advanceClock s) := by
  unfold Machine.advanceClock
  exact h.port s _ rfl hs

theorem setRecordReceiver (s : State) (r : RecordReceiver) (hs : P s) : P (s.setRecordReceiver r) := by
  unfold State.setRecordReceiver
  exact h.port s _ rfl hs

/-! ### Arrivals -/

theorem startWaiting (s : State) (hs : P s) : P (startWaiting s) := by
  unfold Machine.startWaiting
  split
  · exact h.finish s hs
  · exact hs

theorem byteArrives (s : State) (b : Byte) (hs : P s) : P (byteArrives s b) := by
  have hwaiting := h.startWaiting s hs
  unfold Machine.byteArrives takeByte
  split
  · exact h.setRecordReceiver _ _ hwaiting
  · exact h.finish _ (h.arrival _ _ (h.setRecordReceiver _ _ hwaiting))

theorem bytesArrive (bs : List Byte) (s : State) (hs : P s) : P (bytesArrive bs s) := by
  unfold Machine.bytesArrive
  split
  · exact hs
  · exact List.foldlRecOn _ _ hs fun t ht b _ => h.byteArrives t b ht

theorem commandArrives {kind : RecordKind} {tag : Byte} {body : List Byte} {effect : State → State × Answer}
    (he : ∀ s, answer tag (effect s) = answerRecord (.record kind tag body) s) (s : State) (hs : P s) :
    P (commandArrives kind tag body effect s) := by
  rw [commandArrives_eq_receive he]
  split
  · exact hs
  · split
    · exact h.finish _ (h.arrival _ _ (h.startWaiting s hs))
    · exact h.bytesArrive _ s hs

theorem endSending (s : State) (hs : P s) : P (endSending s) := by
  unfold Machine.endSending
  split
  · exact hs
  · next r hr =>
    split
    · exact h.reset _ _ s hs
    · split
      · next d hd => exact h.finish _ (h.sent s r d hr hd hs)
      · next hd => exact h.finish _ (h.line s r hr hd hs)

/-! ### Ticks, operations and cycles -/

theorem takeItem (i : TickItem) (s : State) (hs : P s) : P (takeItem i s) := by
  cases i with
  | sampling => exact h.sample s hs
  | expiry t l =>
    simp only [Machine.takeItem]
    split
    · exact h.expiry t l s hs
    · exact hs

theorem runAgenda : ∀ (n : Nat) (items : List TickItem) (s : State), P s → P (runAgenda n items s) := by
  intro n
  induction n with
  | zero => exact fun _ _ hs => hs
  | succ n ih =>
    intro items s hs
    simp only [Machine.runAgenda]
    split
    · refine ih _ _ (settle_keeps h.toPortKeeps _ (h.takeItem _ _ ?_))
      unfold spendDraw
      split
      · exact hs
      · exact h.draw _ _ hs
    · exact hs

theorem tickPart (s : State) (hs : P s) : P (tickPart s) := by
  have hclock : P (Machine.advanceClock s) := h.advanceClock s hs
  unfold Machine.tickPart
  split
  · exact hclock
  · exact h.showAttention _ (h.runAgenda _ _ _ (h.timers _ hclock))

theorem expiryEvent (t : TimerName) (l : LinkId) (s : State) (hs : P s) : P (expiryEvent t l s) := by
  unfold Machine.expiryEvent
  split
  · exact h.finish _ (h.expiry t l s hs)
  · exact hs

theorem operationEnds (r : Requester) (s : State) (hs : P s) : P (operationEnds r s) :=
  h.finish _ (h.unit _ (settleBlocks_keeps h.toBlocksKeep _ (h.operation r s hs)))

theorem receiveCycle (port : Port) (good : Bool) (bytes : Vector Byte 96) (s : State) (hs : P s) :
    P (receiveCycle port good bytes s) := by
  unfold Machine.receiveCycle
  split
  · exact hs
  · have hmarked := h.monitor port (fun m => m.mark good) s (fun m => .inr ⟨good, rfl⟩) hs
    refine h.finish _ ?_
    split
    · exact h.cycle bytes _ hmarked
    · exact hmarked

/-! ### Every command and event -/

theorem exec (c : Instr) (s : State) (hs : P s) : ∃ t, exec c s = .next t ∧ P t := by
  have hwhen : ∀ (b : Bool) (t : State), (b = true → P t) → P (if b then t else s) := fun b t ht => by
    split
    · next hb => exact ht hb
    · exact hs
  have hends : ∀ (b : Bool) (r : Requester), P (if b then Machine.operationEnds r s else s) := fun b r =>
    hwhen b _ fun _ => h.operationEnds r s hs
  cases c with
  | linkConfigure =>
    exact ⟨_, rfl, h.commandArrives (fun s => by simp only [Machine.answerRecord, runCommand_linkConfigure]) s hs⟩
  | queueDiscard =>
    exact ⟨_, rfl, h.commandArrives (fun s => by simp only [Machine.answerRecord, runCommand_queueDiscard]) s hs⟩
  | setClock =>
    exact ⟨_, rfl, h.commandArrives (fun s => by simp only [Machine.answerRecord, runCommand_setClock]) s hs⟩
  | linkActivate | linkIsolate | linkResume | linkDeactivate | linkUnconfigure | linkStatus | rootLoad | rootErase
  | storeStatus | renew | trafficOut | queueHold | queueRelease | queueUnhold | portMode | mapSet | mapRead
  | mapCommit | trunkStatus | faultPolicy | faultList | faultRead | faultPurge | identify | reset =>
    exact ⟨_, rfl, h.commandArrives (fun _ => rfl) s hs⟩
  | recordArrival | malformedRecord => exact ⟨_, rfl, h.bytesArrive _ s hs⟩
  | takeRecord => exact ⟨_, rfl, hwhen _ _ fun ht => h.finish _ (h.take s ht hs)⟩
  | sendStart => exact ⟨_, rfl, hwhen _ _ fun hc => h.finish _ (h.send s hc hs)⟩
  | sendEnd => exact ⟨_, rfl, h.endSending s hs⟩
  | powerOn => exact ⟨_, rfl, h.reset _ _ s hs⟩
  | resetLineAssert =>
    refine ⟨_, rfl, ?_⟩
    split
    · exact hs
    · exact h.reset _ _ s hs
  | resetLineRelease =>
    exact ⟨_, rfl, hwhen _ _ fun _ => h.finish _ (h.port s (fun k => { k with resetInput := false }) rfl hs)⟩
  | tick => exact ⟨_, rfl, h.tickPart s hs⟩
  | intervalTimerExpiry l => exact ⟨_, rfl, h.expiryEvent .interval l s hs⟩
  | offerTimerExpiry l => exact ⟨_, rfl, h.expiryEvent .offer l s hs⟩
  | graceTimerExpiry l => exact ⟨_, rfl, h.expiryEvent .grace l s hs⟩
  | backoffTimerExpiry l => exact ⟨_, rfl, h.expiryEvent .backoff l s hs⟩
  | sealingStart =>
    refine ⟨_, rfl, hwhen _ _ fun hready => h.finish _ ?_⟩
    exact h.sealing _ hready (refreshRequests_eligible s) (h.requests _ _ hs)
  | openingStart => exact ⟨_, rfl, hwhen _ _ fun hready => h.finish _ (h.opening s hready hs)⟩
  | derivationBegin => exact ⟨_, rfl, hwhen _ _ fun hready => h.finish _ (h.derivation s hready hs)⟩
  | blockOperationEnd =>
    refine ⟨_, rfl, ?_⟩
    split
    · exact h.operationEnds _ s hs
    · exact hs
  | sealingCompletion | openingCompletion | derivationCompletion => exact ⟨_, rfl, hends _ _⟩
  | receiveCycle port good bytes => exact ⟨_, rfl, h.receiveCycle port good bytes s hs⟩
  | signalAbsence port => exact ⟨_, rfl, h.finish _ (h.monitor port _ s (fun _ => .inl rfl) hs)⟩
  | transmitCycleRequest => exact ⟨_, rfl, h.finish _ (h.transmit s hs)⟩

/-- What every effect keeps, every step keeps. -/
theorem step {s t : State} (hs : P s) (ht : step s = .next t) : P t := by
  unfold Machine.step at ht
  split at ht
  · cases ht
    exact hs
  · next c rest _ =>
    obtain ⟨t', he, hkept⟩ := h.exec c { s with pending := rest } (h.queue s rest hs)
    rw [he] at ht
    cases ht
    exact hkept

end EventsKeep

end Sys2Proof.Machine
end

section
/-! The law of the frame store with frames in hand: every held descriptor stands in exactly one place or is in hand,
no unit is held twice, and no quota is exceeded; and one rule per operation on the places. -/

namespace Sys2Proof.Machine

/-- R102, R103: the held frames' units lie in the share of their descriptor, and no unit is held twice. -/
structure ChainsApart (s : State) : Prop where
  nodup : ∀ d, (frameUnits s d).Nodup
  share : ∀ d, ∀ u ∈ frameUnits s d, decide (1280 ≤ u.val) = decide (384 ≤ d.val)
  apart : ∀ d e, d ≠ e → (frameUnits s d).Disjoint (frameUnits s e)

/-- R103 to R105: a held descriptor stands in exactly one place or is in hand, and a free one in none; no unit is held
twice; no quota is exceeded. A link that is neither ACTIVE nor ISOLATED has an empty queue and an idle transmitter,
and so is the transmitter of the link whose frame is in sealing. -/
structure StoreCore (hand : List DescNo) (s : State) : Prop where
  places : ∀ d, placeCount s d + hand.count d = if (s.desc d).isSome then 1 else 0
  chains : ChainsApart s
  quota : ∀ l p, (s.link l).profile = some p → queueUnits s l ≤ p.quota
  idle : ∀ l, (s.link l).live = false → s.queue l = [] ∧ s.transmitter l = .idle
  sealing : ∀ r, s.sealer.current = some r → s.transmitter r.link = .idle

/-! ### The law of the frame store in these terms -/

theorem mem_heldUnits {s : State} {inbound : Bool} {u : UnitNo} :
    u ∈ heldUnits s inbound ↔ ∃ d, decide (384 ≤ d.val) = inbound ∧ u ∈ frameUnits s d := by
  simp [heldUnits, mem_shareDescs]

theorem shareDescs_nodup (inbound : Bool) : (shareDescs inbound).Nodup :=
  (shareDescs_ascending inbound).imp fun hlt => ne_of_lt hlt

theorem chainsApart_iff (s : State) : ChainsApart s ↔ ∀ inbound,
    (heldUnits s inbound).Nodup ∧ ∀ u ∈ heldUnits s inbound, decide (1280 ≤ u.val) = inbound := by
  have hnodup : ∀ inbound, (heldUnits s inbound).Nodup ↔ (∀ d ∈ shareDescs inbound, (frameUnits s d).Nodup) ∧
      (shareDescs inbound).Pairwise fun d e => (frameUnits s d).Disjoint (frameUnits s e) := fun inbound =>
    List.nodup_flatMap
  constructor
  · intro h inbound
    refine ⟨(hnodup inbound).2 ⟨fun d _ => h.nodup d, (shareDescs_nodup inbound).imp fun hne => h.apart _ _ hne⟩, ?_⟩
    intro u hu
    obtain ⟨d, hd, hm⟩ := mem_heldUnits.1 hu
    exact (h.share d u hm).trans hd
  · intro h
    have hshare : ∀ d, ∀ u ∈ frameUnits s d, decide (1280 ≤ u.val) = decide (384 ≤ d.val) := fun d u hu =>
      (h (decide (384 ≤ d.val))).2 u (mem_heldUnits.2 ⟨d, rfl, hu⟩)
    refine ⟨fun d => ?_, hshare, fun d e hne u hd he => ?_⟩
    · obtain ⟨hchains, -⟩ := (hnodup (decide (384 ≤ d.val))).1 (h _).1
      exact hchains d (mem_shareDescs.2 rfl)
    · have hsame : decide (384 ≤ e.val) = decide (384 ≤ d.val) := (hshare e u he).symm.trans (hshare d u hd)
      obtain ⟨-, hpairs⟩ := (hnodup (decide (384 ≤ d.val))).1 (h _).1
      have hsymm : Std.Symm fun d e => (frameUnits s d).Disjoint (frameUnits s e) :=
        ⟨fun _ _ hdisjoint => hdisjoint.symm⟩
      exact hpairs.forall (mem_shareDescs.2 rfl) (mem_shareDescs.2 hsame) hne hd he

/-- Numbers listed once, from a range of a given size. -/
theorem length_le_of_range {n : Nat} {xs : List (Fin n)} (hn : xs.Nodup) (lo size : Nat)
    (hr : ∀ x ∈ xs, lo ≤ x.val ∧ x.val < lo + size) : xs.length ≤ size := by
  have hsub : xs.map Fin.val ⊆ List.range' lo size := fun i hi => by
    obtain ⟨x, hx, rfl⟩ := List.mem_map.1 hi
    exact List.mem_range'_1.2 (hr x hx)
  simpa using (List.subperm_of_subset (hn.map Fin.val_injective) hsub).length_le

theorem unitsHeld_le {s : State} (h : ChainsApart s) (inbound : Bool) :
    unitsHeld s inbound ≤ shareUnitCount inbound := by
  obtain ⟨hnodup, hshare⟩ := (chainsApart_iff s).1 h inbound
  refine length_le_of_range hnodup (if inbound then 1280 else 0) _ fun u hu => ?_
  have hlt := u.isLt
  have hside := hshare u hu
  cases inbound <;> simp [shareUnitCount] at hside ⊢ <;> omega

theorem descsHeld_le (s : State) (inbound : Bool) : descsHeld s inbound ≤ shareDescCount inbound := by
  refine length_le_of_range ((shareDescs_nodup inbound).filter _) (if inbound then 384 else 0) _ fun d hd => ?_
  have hlt := d.isLt
  have hside := mem_shareDescs.1 (List.mem_of_mem_filter hd)
  cases inbound <;> simp [shareDescCount] at hside ⊢ <;> omega

theorem places_iff (s : State) :
    ((framePlaces s).Nodup ∧ ∀ d, d ∈ framePlaces s ↔ (s.desc d).isSome = true) ↔
      ∀ d, placeCount s d + ([] : List DescNo).count d = if (s.desc d).isSome then 1 else 0 := by
  simp only [List.nodup_iff_count_le_one, ← forall_and, ← List.count_pos_iff, count_framePlaces, List.count_nil]
  refine forall_congr' fun d => ?_
  split
  · next hd => simp only [hd, iff_true]; omega
  · next hd => simp only [hd, Bool.false_eq_true, iff_false]; omega

theorem storeLaw_iff (s : State) : StoreLaw s ↔ StoreCore [] s ∧ ReceiverLaw s := by
  constructor
  · rintro ⟨hnodup, hheld, hunits, hquota, hidle, hsealing, hreceivers⟩
    have hchains : ChainsApart s := (chainsApart_iff s).2 fun inbound =>
      have ⟨hunits, hshare, _⟩ := hunits inbound
      ⟨hunits, hshare⟩
    exact ⟨⟨(places_iff s).1 ⟨hnodup, hheld⟩, hchains, hquota, hidle, hsealing⟩, hreceivers⟩
  · rintro ⟨h, hreceivers⟩
    obtain ⟨hnodup, hheld⟩ := (places_iff s).2 h.places
    refine ⟨hnodup, hheld, fun inbound => ?_, h.quota, h.idle, h.sealing, hreceivers⟩
    obtain ⟨hunits, hshare⟩ := (chainsApart_iff s).1 h.chains inbound
    exact ⟨hunits, hshare, unitsHeld_le h.chains inbound, descsHeld_le s inbound⟩

end Sys2Proof.Machine
end

section
/-! One rule per operation on the places, the descriptors and the links, for the law of the frame store with frames
in hand. -/

namespace Sys2Proof.Machine

/-! ### The units of frames -/

section Units

variable (s : State)

theorem frameUnits_freeFrame (d e : DescNo) :
    frameUnits (s.freeFrame d) e = if d = e then [] else frameUnits s e := by
  by_cases hde : d = e <;> simp [frameUnits, State.desc_freeFrame, hde]

theorem frameUnits_setDesc_some (d e : DescNo) (x : Descriptor) :
    frameUnits (s.setDesc d (some x)) e = if d = e then x.chain else frameUnits s e := by
  by_cases hde : d = e <;> simp [frameUnits, State.desc_setDesc, hde]

theorem frameUnits_modDesc (d e : DescNo) {f : Descriptor → Descriptor} (hf : ∀ x, (f x).chain = x.chain) :
    frameUnits (s.modDesc d f) e = frameUnits s e := by
  by_cases hde : d = e
  · subst hde
    cases hd : s.desc d <;> simp [frameUnits, State.modDesc, hd, hf]
  · simp [frameUnits, State.modDesc, State.desc_setDesc, hde]

end Units

theorem unitsOf_cons (s : State) (d : DescNo) (ds : List DescNo) :
    unitsOf s (d :: ds) = (frameUnits s d).length + unitsOf s ds := by
  simp [unitsOf]

theorem unitsOf_append (s : State) (ds es : List DescNo) : unitsOf s (ds ++ es) = unitsOf s ds + unitsOf s es := by
  simp [unitsOf]

theorem unitsOf_sublist {s : State} {ds es : List DescNo} (h : ds.Sublist es) : unitsOf s ds ≤ unitsOf s es :=
  (h.flatMap _).length_le

/-- Each frame has the units that it had, or none. -/
def FramesShrink (s t : State) : Prop := ∀ d, frameUnits t d = frameUnits s d ∨ frameUnits t d = []

namespace FramesShrink

variable {s t : State} (h : FramesShrink s t)
include h

theorem subset (d : DescNo) : frameUnits t d ⊆ frameUnits s d := by
  rcases h d with e | e <;> rw [e]
  · exact List.Subset.refl _
  · exact List.nil_subset _

theorem unitsOf_le (ds : List DescNo) : unitsOf t ds ≤ unitsOf s ds := by
  induction ds with
  | nil => exact Nat.le_refl 0
  | cons d ds ih =>
    rw [unitsOf_cons, unitsOf_cons]
    rcases h d with e | e <;> rw [e]
    · omega
    · rw [List.length_nil]
      omega

theorem chainsApart (hs : ChainsApart s) : ChainsApart t where
  nodup d := by
    rcases h d with e | e <;> rw [e]
    · exact hs.nodup d
    · exact List.nodup_nil
  share d u hu := hs.share d u (h.subset d hu)
  apart d e hne _ hd he := hs.apart d e hne (h.subset d hd) (h.subset e he)

end FramesShrink

theorem framesShrink_freeFrame (d : DescNo) (s : State) : FramesShrink s (s.freeFrame d) := fun e => by
  rw [frameUnits_freeFrame]
  split
  · exact .inr rfl
  · exact .inl rfl

/-- R104: units found free join the held ones apart from them. -/
theorem ChainsApart.hold {s : State} (h : ChainsApart s) {inbound : Bool} {n : Nat} {d : DescNo} {x : Descriptor}
    (hroom : Room s inbound n d x.chain) : ChainsApart (s.setDesc d (some x)) := by
  have hshare : ∀ u ∈ x.chain, decide (1280 ≤ u.val) = decide (384 ≤ d.val) := fun u hu =>
    (hroom.unit u hu).1.trans (mem_shareDescs.1 hroom.share).symm
  have hfree : ∀ e, ∀ u ∈ x.chain, u ∉ frameUnits s e := fun e u hu he => by
    obtain ⟨hside, hout⟩ := hroom.unit u hu
    exact hout (mem_heldUnits.2 ⟨e, (h.share e u he).symm.trans hside, he⟩)
  refine ⟨fun e => ?_, fun e u hu => ?_, fun e e' hne u hu hu' => ?_⟩
  · rw [frameUnits_setDesc_some]
    split
    · exact hroom.nodup
    · exact h.nodup e
  · rw [frameUnits_setDesc_some] at hu
    split at hu
    · next hde => exact hde ▸ hshare u hu
    · exact h.share e u hu
  · rw [frameUnits_setDesc_some] at hu hu'
    split at hu
    · next hde =>
      rw [if_neg (hde ▸ hne)] at hu'
      exact hfree e' u hu hu'
    · split at hu'
      · exact hfree e u hu' hu
      · exact h.apart e e' hne hu hu'

/-! ### The rules -/

namespace StoreCore

variable {hand : List DescNo} {s : State} (h : StoreCore hand s)
include h

/-- A frame that stands in a place, or is in hand, is held, and stands nowhere else. -/
theorem held {d : DescNo} (hd : 1 ≤ placeCount s d + hand.count d) : (s.desc d).isSome = true := by
  by_contra hfree
  have hnone := h.places d
  rw [if_neg hfree] at hnone
  omega

/-- Frames that move between places and hand. -/
theorem exchange {t : State} {hand' : List DescNo} (hdescs : t.store.descs = s.store.descs)
    (hc : ∀ d, placeCount t d + hand'.count d = placeCount s d + hand.count d)
    (hquota : ∀ l p, (t.link l).profile = some p → unitsOf s (t.queue l) ≤ p.quota)
    (hidle : ∀ l, (t.link l).live = false → t.queue l = [] ∧ t.transmitter l = .idle)
    (hsealing : ∀ r, t.sealer.current = some r → t.transmitter r.link = .idle) : StoreCore hand' t := by
  have hdesc : t.desc = s.desc := by
    funext d
    rw [State.desc, State.desc, hdescs]
  have hunits : frameUnits t = frameUnits s := by
    funext d
    rw [frameUnits, frameUnits, hdesc]
  have hshrink : FramesShrink s t := fun d => .inl (congrFun hunits d)
  refine ⟨fun d => ?_, hshrink.chainsApart h.chains, fun l p hp => ?_, hidle, hsealing⟩
  · rw [hc, hdesc]
    exact h.places d
  · exact (hshrink.unitsOf_le _).trans (hquota l p hp)

theorem of_core {t : State} (ht : coreView t = coreView s) : StoreCore hand t := by
  simp only [coreView, Prod.mk.injEq] at ht
  obtain ⟨elinks, esealing, eopener, ⟨edescs, equeues, edelivery⟩, ereceivers, etransmitters, eline⟩ := ht
  have hqueue : t.queue = s.queue := by
    funext l
    rw [State.queue, State.queue, equeues]
  have htransmitter : t.transmitter = s.transmitter := by
    funext l
    rw [State.transmitter, State.transmitter, etransmitters]
  have hlink := fun l => Prod.mk.inj (congrFun elinks l)
  refine h.exchange edescs (fun d => ?_) (fun l p hp => ?_) (fun l hl => ?_) fun r hr => ?_
  · simp only [placeCount, esealing, eopener, equeues, edelivery, ereceivers, etransmitters, eline]
  · rw [hqueue]
    exact h.quota l p ((hlink l).2.symm.trans hp)
  · rw [hqueue, htransmitter]
    exact h.idle l ((hlink l).1.symm.trans hl)
  · rw [htransmitter]
    exact h.sealing r (esealing.symm.trans hr)

theorem of_view {t : State} (ht : storeView t = storeView s) : StoreCore hand t :=
  h.of_core (congrArg (fun v => v.1) ht)

theorem setQueue {hand' : List DescNo} {l : LinkId} {q : List DescNo}
    (hc : ∀ d, q.count d + hand'.count d = (s.queue l).count d + hand.count d)
    (hquota : ∀ p, (s.link l).profile = some p → unitsOf s q ≤ p.quota) (hlive : q = [] ∨ (s.link l).live = true) :
    StoreCore hand' (s.setQueue l q) := by
  refine h.exchange rfl (fun d => ?_) (fun j p hp => ?_) (fun j hj => ?_) h.sealing
  · have hsum := sum_tput s.store.queues l q fun q => q.count d
    have := hc d
    simp only [placeCount, queuedCount, State.setQueue, State.queue] at *
    omega
  · rw [State.queue_setQueue]
    split
    · next e => exact hquota p (by rw [e]; exact hp)
    · exact h.quota j p hp
  · rw [State.queue_setQueue]
    refine ⟨?_, (h.idle j hj).2⟩
    split
    · next e => exact hlive.resolve_right fun hl => by rw [e] at hl; exact absurd (hl.symm.trans hj) (by simp)
    · exact (h.idle j hj).1

/-- R105: frames leave a queue. -/
theorem shortenQueue {hand' : List DescNo} {l : LinkId} {q : List DescNo} (hq : q.Sublist (s.queue l))
    (hc : ∀ d, q.count d + hand'.count d = (s.queue l).count d + hand.count d) :
    StoreCore hand' (s.setQueue l q) := by
  refine h.setQueue hc (fun p hp => (unitsOf_sublist hq).trans (h.quota l p hp)) ?_
  cases hl : (s.link l).live with
  | true => exact .inr rfl
  | false => exact .inl (List.sublist_nil.1 ((h.idle l hl).1 ▸ hq))

theorem setTransmitter {hand' : List DescNo} {l : LinkId} {t : Transmitter}
    (hc : ∀ d, (sentFrame t).count d + hand'.count d = (sentFrame (s.transmitter l)).count d + hand.count d)
    (ht : t = .idle ∨ (s.link l).live = true ∧ ∀ r, s.sealer.current = some r → r.link ≠ l) :
    StoreCore hand' (s.setTransmitter l t) := by
  refine h.exchange rfl (fun d => ?_) h.quota (fun j hj => ?_) fun r hr => ?_
  · have hsum := sum_tput s.trunk.transmitters l t fun t => (sentFrame t).count d
    have := hc d
    simp only [placeCount, sentCount, State.setTransmitter, State.transmitter] at *
    omega
  · rw [State.transmitter_setTransmitter]
    refine ⟨(h.idle j hj).1, ?_⟩
    split
    · next e => exact ht.resolve_right fun ⟨hl, _⟩ => by rw [e] at hl; exact absurd (hl.symm.trans hj) (by simp)
    · exact (h.idle j hj).2
  · rw [State.transmitter_setTransmitter]
    split
    · next e => exact ht.resolve_right fun ⟨_, hl⟩ => hl r hr e.symm
    · exact h.sealing r hr

theorem setReceiver {hand' : List DescNo} {l : LinkId} {r : Receiver}
    (hc : ∀ d, (receivedFrame r).count d + hand'.count d = (receivedFrame (s.receiver l)).count d + hand.count d) :
    StoreCore hand' (s.setReceiver l r) := by
  refine h.exchange rfl (fun d => ?_) h.quota h.idle h.sealing
  have hsum := sum_tput s.trunk.receivers l r fun r => (receivedFrame r).count d
  have := hc d
  simp only [placeCount, receivedCount, State.setReceiver, State.receiver] at *
  omega

theorem setOpenList {hand' w : List DescNo}
    (hc : ∀ d, w.count d + hand'.count d = s.opener.waiting.count d + hand.count d) :
    StoreCore hand' (s.setOpenList w) := by
  refine h.exchange rfl (fun d => ?_) h.quota h.idle h.sealing
  have := hc d
  simp only [placeCount, State.setOpenList] at *
  omega

theorem setDelivery {hand' q : List DescNo}
    (hc : ∀ d, q.count d + hand'.count d = s.store.delivery.count d + hand.count d) :
    StoreCore hand' (s.setDelivery q) := by
  refine h.exchange rfl (fun d => ?_) h.quota h.idle h.sealing
  have := hc d
  simp only [placeCount, State.setDelivery] at *
  omega

theorem setSealing {hand' : List DescNo} {r : Option Sealing}
    (hc : ∀ d, (r.bind fun r => r.desc).toList.count d + hand'.count d =
      (s.sealer.current.bind fun r => r.desc).toList.count d + hand.count d)
    (hidle : ∀ x, r = some x → s.transmitter x.link = .idle) : StoreCore hand' (s.setSealing r) := by
  refine h.exchange rfl (fun d => ?_) h.quota h.idle hidle
  have := hc d
  simp only [placeCount, State.setSealing] at *
  omega

theorem setOpening {hand' : List DescNo} {r : Option Opening}
    (hc : ∀ d, (r.map fun r => r.desc).toList.count d + hand'.count d =
      (s.opener.current.map fun r => r.desc).toList.count d + hand.count d) :
    StoreCore hand' (s.setOpening r) := by
  refine h.exchange rfl (fun d => ?_) h.quota h.idle h.sealing
  have := hc d
  simp only [placeCount, State.setOpening] at *
  omega

theorem setHost {hand' : List DescNo} {p : HostPort}
    (hc : ∀ d, (lineFrame p).count d + hand'.count d = (lineFrame s.host).count d + hand.count d) :
    StoreCore hand' { s with host := p } := by
  refine h.exchange rfl (fun d => ?_) h.quota h.idle h.sealing
  have := hc d
  simp only [placeCount] at *
  omega

/-- A link's context replaced: a link that is not live afterwards has nothing to send, and a profile allows what its
queue holds. -/
theorem modLink {l : LinkId} {f : Link → Link}
    (hidle : (f (s.link l)).live = false → s.queue l = [] ∧ s.transmitter l = .idle)
    (hquota : ∀ p, (f (s.link l)).profile = some p → queueUnits s l ≤ p.quota) :
    StoreCore hand (s.modLink l f) := by
  refine h.exchange rfl (fun _ => rfl) (fun j p hp => ?_) (fun j hj => ?_) h.sealing
  · rw [State.link_modLink] at hp
    split at hp
    · next e => exact e ▸ hquota p hp
    · exact h.quota j p hp
  · rw [State.link_modLink] at hj
    split at hj
    · next e => exact e ▸ hidle hj
    · exact h.idle j hj

/-- R104: a frame in hand freed. -/
theorem free {d : DescNo} {hand' : List DescNo} (hh : ∀ e, hand.count e = (d :: hand').count e) :
    StoreCore hand' (s.freeFrame d) where
  places e := by
    have hplaces : placeCount s e + hand.count e = _ := h.places e
    have hsame : placeCount (s.freeFrame d) e = placeCount s e := rfl
    rw [hh, List.count_cons] at hplaces
    rw [hsame, State.desc_freeFrame]
    by_cases hde : d = e
    · subst hde
      have hone : (if (s.desc d).isSome = true then 1 else 0) ≤ 1 := by split <;> omega
      simp at hplaces ⊢
      omega
    · simpa [hde] using hplaces
  chains := (framesShrink_freeFrame d s).chainsApart h.chains
  quota l p hp := ((framesShrink_freeFrame d s).unitsOf_le (s.queue l)).trans (h.quota l p hp)
  idle := h.idle
  sealing := h.sealing

/-- R104: frames in hand freed. -/
theorem freeAll {ds hand' : List DescNo} (hh : ∀ e, hand.count e = (ds ++ hand').count e) :
    StoreCore hand' (freeFrames ds s) := by
  induction ds generalizing hand s with
  | nil =>
    refine ⟨fun d => ?_, h.chains, h.quota, h.idle, h.sealing⟩
    rw [show hand'.count d = hand.count d from (hh d).symm]
    exact h.places d
  | cons d ds ih => exact ih (h.free (hand' := ds ++ hand') hh) fun _ => rfl

/-- A free descriptor stands in no queue. -/
theorem notMem_queue {d : DescNo} (hd : s.desc d = none) (l : LinkId) : d ∉ s.queue l := fun hm => by
  have hplaces := h.places d
  have hqueued : 1 ≤ queuedCount s.store.queues d :=
    (List.count_pos_iff.2 hm).trans_le (Finset.single_le_sum (f := fun i => (tget s.store.queues i).count d)
      (fun _ _ => Nat.zero_le _) (Finset.mem_univ l))
  rw [hd] at hplaces
  simp [placeCount] at hplaces
  omega

theorem queueUnits_setDesc {d : DescNo} (hd : s.desc d = none) (x : Descriptor) (l : LinkId) :
    queueUnits (s.setDesc d (some x)) l = queueUnits s l := by
  unfold queueUnits unitsOf
  rw [State.queue_setDesc]
  congr 1
  refine List.flatMap_congr fun e he => ?_
  rw [frameUnits_setDesc_some, if_neg (by rintro rfl; exact h.notMem_queue hd l he)]

/-- R104: a free descriptor and free units taken together. -/
theorem take {inbound : Bool} {n : Nat} {d : DescNo} {x : Descriptor} (hroom : Room s inbound n d x.chain) :
    StoreCore (d :: hand) (s.setDesc d (some x)) where
  places e := by
    have hplaces := h.places e
    have hsame : placeCount (s.setDesc d (some x)) e = placeCount s e := rfl
    rw [hsame, State.desc_setDesc, List.count_cons]
    by_cases hde : d = e
    · subst hde
      rw [hroom.free] at hplaces
      simp at hplaces ⊢
      omega
    · simpa [hde] using hplaces
  chains := h.chains.hold hroom
  quota l p hp := by
    have hsame : queueUnits (s.setDesc d (some x)) l = queueUnits s l := h.queueUnits_setDesc hroom.free x l
    rw [hsame]
    exact h.quota l p hp
  idle := h.idle
  sealing := h.sealing

theorem modDesc (d : DescNo) {f : Descriptor → Descriptor} (hf : ∀ x, (f x).chain = x.chain) :
    StoreCore hand (s.modDesc d f) := by
  have hshrink : FramesShrink s (s.modDesc d f) := fun e => .inl (frameUnits_modDesc s d e hf)
  refine ⟨fun e => ?_, hshrink.chainsApart h.chains, fun l p hp => ?_, h.idle, h.sealing⟩
  · have hsame : placeCount (s.modDesc d f) e = placeCount s e := rfl
    have hheld : ((s.modDesc d f).desc e).isSome = (s.desc e).isSome := by
      rw [State.modDesc, State.desc_setDesc]
      split
      · next hde => rw [← hde, Option.isSome_map]
      · rfl
    rw [hsame, hheld]
    exact h.places e
  · exact (hshrink.unitsOf_le (s.queue l)).trans (h.quota l p hp)

end StoreCore

end Sys2Proof.Machine
end

section
/-! The starts of the blocks and the ends of their operations keep the law of the circuit receivers, and with it the
law of the frame store. -/

namespace Sys2Proof.Machine

/-! ### The circuit receivers -/

/-- R136: what the law of the circuit receivers looks at. -/
def receptionView (s : State) :=
  ((fun l => (s.link l).live), s.trunk.receivers, s.trunk.live, s.trunk.selected, s.trunk.monitorA, s.trunk.monitorB)

theorem receptionView_of_storeView {s t : State} (h : storeView t = storeView s) :
    receptionView t = receptionView s := by
  simp only [storeView, coreView, Prod.mk.injEq] at h
  obtain ⟨⟨elinks, _, _, _, ereceivers, _⟩, _, elive, eselected, ea, eb⟩ := h
  have hlive : (fun l => (t.link l).live) = fun l => (s.link l).live :=
    funext fun l => congrArg Prod.fst (congrFun elinks l)
  unfold receptionView
  rw [hlive, ereceivers, elive, eselected, ea, eb]

namespace ReceiverLaw

variable {s : State} (h : ReceiverLaw s)
include h

theorem of_reception {t : State} (ht : receptionView t = receptionView s) : ReceiverLaw t := by
  simp only [receptionView, Prod.mk.injEq] at ht
  obtain ⟨elinks, ereceivers, elive, eselected, ea, eb⟩ := ht
  intro l hl
  have hruns : receiverRuns t l = receiverRuns s l := by
    rw [receiverRuns, receiverRuns, circuitUp_congr elive ea eb eselected]
    exact congrArg (· && circuitUp s l) (congrFun elinks l)
  rw [State.receiver, ereceivers]
  exact h l (hruns.symm.trans hl)

theorem of_view {t : State} (ht : storeView t = storeView s) : ReceiverLaw t :=
  h.of_reception (receptionView_of_storeView ht)

/-- R136: a receiver returns to HUNT, or a running one takes any state. -/
theorem setReceiver {l : LinkId} {r : Receiver} (hr : r = .hunt ∨ receiverRuns s l = true) :
    ReceiverLaw (s.setReceiver l r) := by
  intro j hj
  have hstopped : receiverRuns s j = false := hj
  rw [State.receiver_setReceiver]
  split
  · next e =>
    subst e
    exact hr.resolve_right fun hruns => absurd (hruns.symm.trans hstopped) (by simp)
  · exact h j hstopped

end ReceiverLaw

/-! ### The two laws together -/

theorem transmitter_of_storeView {s t : State} (h : storeView t = storeView s) (l : LinkId) :
    t.transmitter l = s.transmitter l := by
  simp only [storeView, coreView, Prod.mk.injEq] at h
  obtain ⟨⟨_, _, _, _, _, etransmitters, _⟩, _⟩ := h
  rw [State.transmitter, etransmitters, State.transmitter]

theorem sealing_of_storeView {s t : State} (h : storeView t = storeView s) : t.sealer.current = s.sealer.current :=
  congrArg (fun v => v.1.2.1) h

theorem live_of_storeView {s t : State} (h : storeView t = storeView s) (l : LinkId) :
    (t.link l).live = (s.link l).live :=
  congrArg Prod.fst (congrFun (congrArg (fun v => v.1.1) h) l)

/-- R103 to R105, R136: the law of the circuit receivers, and where `b` asks for it the law of the frame store with
frames in hand. -/
structure StoreState (b : Bool) (hand : List DescNo) (s : State) : Prop where
  receivers : ReceiverLaw s
  core : b = true → StoreCore hand s

namespace StoreState

variable {b : Bool} {hand : List DescNo} {s : State} (h : StoreState b hand s)
include h

theorem of_view {t : State} (ht : storeView t = storeView s) : StoreState b hand t :=
  ⟨h.receivers.of_view ht, fun hb => (h.core hb).of_view ht⟩

/-- A change that leaves the circuit receivers. -/
theorem move {t : State} {hand' : List DescNo} (ht : receptionView t = receptionView s)
    (hcore : StoreCore hand s → StoreCore hand' t) : StoreState b hand' t :=
  ⟨h.receivers.of_reception ht, fun hb => hcore (h.core hb)⟩

theorem free {d : DescNo} {hand' : List DescNo} (hh : ∀ e, hand.count e = (d :: hand').count e) :
    StoreState b hand' (s.freeFrame d) :=
  h.move rfl fun hcore => hcore.free hh

/-- R64: a rejected frame is freed. -/
theorem rejectFrame {d : DescNo} {hand' : List DescNo} (hh : ∀ e, hand.count e = (d :: hand').count e) (l : LinkId)
    (c : Counter) : StoreState b hand' (rejectFrame d l c s) := by
  have hcounted : StoreState b hand' ((s.freeFrame d).count l c) := (h.free hh).of_view (storeView_count _ l c)
  unfold Machine.rejectFrame countEpochEvent
  split
  · exact hcounted.of_view (storeView_modEvents _ _ _)
  · exact hcounted

/-! ### The sealing starts -/

/-- R50: a frame in hand, or a control frame, goes into sealing. -/
theorem fillSealing {r : Sealing} (hcurrent : s.sealer.current = none) (hidle : s.transmitter r.link = .idle)
    (hh : ∀ d, r.desc.toList.count d = hand.count d) : StoreState b [] (s.setSealing (some r)) := by
  refine h.move rfl fun hcore => hcore.setSealing (fun d => ?_) ?_
  · simpa [hcurrent] using hh d
  · rintro _ ⟨⟩
    exact hidle

theorem admitSealing {l : LinkId} {kind : FrameKind} {k : SlotNo} {seq p : Nat} {desc : Option DescNo}
    {payload : List Byte} (hcurrent : s.sealer.current = none) (hidle : s.transmitter l = .idle)
    (hh : ∀ d, desc.toList.count d = hand.count d) :
    StoreState b [] (admitSealing l kind k seq p desc payload s) := by
  have hview : storeView (raiseInFlight k (chargeSlot k l (cost p)
      (s.modSlot k fun x => { x with next := seqAfter seq }))) = storeView s := by simp
  unfold Machine.admitSealing
  dsimp only
  refine of_view ?_ (storeView_grant _)
  generalize raiseInFlight k (chargeSlot k l (cost p) (s.modSlot k fun x => { x with next := seqAfter seq })) = u
    at hview
  have hcharged : StoreState b hand u := h.of_view hview
  have hcurrent' : u.sealer.current = none := (sealing_of_storeView hview).trans hcurrent
  have hidle' : u.transmitter l = .idle := (transmitter_of_storeView hview l).trans hidle
  cases desc with
  | some d =>
    have hwritten : StoreState b hand (u.modDesc d fun x => { x with
        epoch := some (s.slot k).epoch, seq := some seq, header := some (headerBytes kind (s.slot k).epoch seq p) }) :=
      hcharged.move rfl fun hcore => hcore.modDesc d fun _ => rfl
    exact hwritten.fillSealing hcurrent' hidle' hh
  | none =>
    have hwritten : StoreState b hand { u with sealer := { u.sealer with
        control := payload ++ u.sealer.control.drop payload.length
        controlHeader := headerBytes kind (s.slot k).epoch seq p } } := hcharged.of_view rfl
    exact hwritten.fillSealing hcurrent' hidle' hh

end StoreState

namespace StoreState

variable {b : Bool} {s : State} (h : StoreState b [] s)
include h

/-- R105: the head frame of a queue, taken into hand. -/
theorem takeHead {l : LinkId} {d : DescNo} {rest : List DescNo} (hq : s.queue l = d :: rest) :
    StoreState b [d] (s.setQueue l rest) := by
  refine h.move rfl fun hcore => hcore.shortenQueue ?_ fun e => ?_
  · rw [hq]
    exact List.sublist_cons_self d rest
  · rw [hq, List.count_cons, List.count_cons]
    simp

theorem startTraffic {l : LinkId} (hcurrent : s.sealer.current = none) (hidle : s.transmitter l = .idle) :
    StoreState b [] (startTraffic l s) := by
  unfold Machine.startTraffic
  split
  · next k d rest _ hq =>
    split
    · split
      · have hspend : ∀ x, (spendAllowance x).state = x.state ∧ (spendAllowance x).profile = x.profile := fun x => by
          unfold spendAllowance
          split <;> exact ⟨rfl, rfl⟩
        have hspent : StoreState b [d] ((s.setQueue l rest).modLink l spendAllowance) :=
          (h.takeHead hq).of_view (storeView_modLink_keep _ hspend)
        exact hspent.admitSealing hcurrent hidle fun _ => rfl
      · exact h.of_view (by simp)
    · exact h
  · exact h

theorem startControl {l : LinkId} (m : LaneMsg) (hcurrent : s.sealer.current = none)
    (hidle : s.transmitter l = .idle) : StoreState b [] (startControl l m s) := by
  unfold Machine.startControl
  split
  · split
    · split
      · exact h.admitSealing hcurrent hidle fun _ => rfl
      · exact h.of_view (storeView_failRenewal s l)
    · exact h
  · have hcut : StoreState b [] (cutover l s) := h.of_view (storeView_cutover s l)
    dsimp only
    split
    · split
      · exact hcut.admitSealing ((sealing_of_storeView (storeView_cutover s l)).trans hcurrent)
          ((transmitter_of_storeView (storeView_cutover s l) l).trans hidle) fun _ => rfl
      · exact hcut
    · exact hcut

/-- R42, R44: the link whose sealing starts has an idle transmitter. -/
theorem startSealing (hlist : ∀ l ∈ s.sealer.requests, sealEligible s l = true) :
    StoreState b [] (startSealing s) := by
  unfold Machine.startSealing
  split
  · next l rest hcurrent hr =>
    obtain ⟨⟨hidle, _⟩, _⟩ := (sealEligible_iff s l).1 (hlist l (by rw [hr]; exact List.mem_cons_self))
    have hlisted : StoreState b [] (s.setSealRequests rest) := h.of_view rfl
    dsimp only
    split
    · have hlane : StoreState b [] ((s.setSealRequests rest).modLink l fun x => { x with lane := none }) :=
        hlisted.of_view (by simp)
      exact hlane.startControl _ hcurrent hidle
    · exact hlisted.startTraffic hcurrent hidle
  · exact h

/-! ### The opening start -/

theorem startOpening : StoreState b [] (startOpening s) := by
  unfold Machine.startOpening
  split
  · next d rest hcurrent hw =>
    have htaken : StoreState b [d] (s.setOpenList rest) := h.move rfl fun hcore => hcore.setOpenList fun e => by
      rw [hw, List.count_cons, List.count_cons]
      simp
    dsimp only
    split
    · next x _ =>
      split
      · next k _ =>
        have hview : storeView (raiseInFlight k (chargeSlot k x.link (cost x.length) (s.setOpenList rest))) =
            storeView (s.setOpenList rest) := by simp
        unfold chargeOpening
        dsimp only
        refine of_view ?_ (storeView_grant _)
        generalize raiseInFlight k (chargeSlot k x.link (cost x.length) (s.setOpenList rest)) = u at hview
        have hidle : u.opener.current = none := (congrArg (fun v => v.1.2.2.1.current) hview).trans hcurrent
        exact (htaken.of_view hview).move rfl fun hcore => hcore.setOpening fun e => by
          simp [hidle, List.count_singleton]
      · exact htaken.rejectFrame (fun _ => rfl) _ _
    · next hd =>
      refine htaken.move rfl fun hcore => absurd (hcore.held (d := d) (by simp)) (by simp [hd])
  · exact h

end StoreState

end Sys2Proof.Machine
end

section
/-! The ends of the blocks' operations, for the law of the circuit receivers and with it the law of the frame store. -/

namespace Sys2Proof.Machine

/-- R73, R56: a frame in sealing without the discard mark is of a live link. -/
theorem RoleLaw.sealing_live {s : State} (h : RoleLaw s) {r : Sealing} (hr : s.sealer.current = some r)
    (hdiscard : r.discard = false) : (s.link r.link).live = true := by
  obtain ⟨hroles, _, _, _, ⟨hframe, _⟩, _⟩ := h
  obtain ⟨hlive, _⟩ := hroles r.link
  have hkeys := hframe r hr
  simp only [hdiscard, Bool.false_eq_true, if_false] at hkeys
  obtain ⟨hcurrent, _⟩ := hkeys
  exact hlive.1 (by rw [hcurrent]; rfl)

/-- R53: a tag is written beside the frame's path. -/
theorem writeTag_path (r : Sealing) (tag : List Byte) (s : State) :
    (writeTag r tag s).sealer.current = s.sealer.current ∧ (writeTag r tag s).trunk = s.trunk ∧
      (writeTag r tag s).links = s.links := by
  rcases writeTag_cases r tag s with ⟨_, e⟩ | ⟨_, _, e⟩
  · rw [e]
    exact ⟨rfl, rfl, rfl⟩
  · rw [e]
    exact ⟨rfl, rfl, rfl⟩

namespace StoreState

/-! ### The sealing completion -/

section Completion

variable {b : Bool} {s : State} {r : Sealing} (h : StoreState b r.desc.toList s)
include h

theorem freeSealed : StoreState b [] (freeSealed r s) := by
  unfold Machine.freeSealed
  split
  · next d hd => exact h.free fun _ => by rw [hd]; rfl
  · next hd => exact h.move rfl fun hcore => by rw [hd] at hcore; exact hcore

/-- R56: a frame passes to the idle transmitter of its live link. -/
theorem handToTransmitter (hcurrent : s.sealer.current = none) (hidle : b = true → s.transmitter r.link = .idle)
    (hlive : b = true → (s.link r.link).live = true) : StoreState b [] (handToTransmitter r s) := by
  have hput : ∀ t : Transmitter, sentFrame t = r.desc.toList → StoreState b [] (s.setTransmitter r.link t) :=
    fun t ht => ⟨h.receivers.of_reception rfl, fun hb => (h.core hb).setTransmitter
      (fun d => by rw [ht, hidle hb]; simp [sentFrame]) (.inr ⟨hlive hb, fun x hx => by rw [hcurrent] at hx; cases hx⟩)⟩
  unfold Machine.handToTransmitter
  split
  · next d hd => exact hput _ (by rw [hd]; rfl)
  · next hd => exact hput _ (by rw [hd]; rfl)

end Completion

theorem completeSealing {b : Bool} {s : State} (h : StoreState b [] s) {r : Sealing}
    (hdesc : (s.sealer.current.bind fun r => r.desc) = r.desc) (hidle : b = true → s.transmitter r.link = .idle)
    (hlive : b = true → r.discard = false → (s.link r.link).live = true) : StoreState b [] (completeSealing r s) := by
  have hcleared : StoreState b r.desc.toList (s.setSealing none) := h.move rfl fun hcore =>
    hcore.setSealing (fun d => by simp [hdesc]) fun _ hr => nomatch hr
  have htagged : StoreState b r.desc.toList (writeTag r (tagOf r.tagChain) (s.setSealing none)) := by
    rcases writeTag_cases r (tagOf r.tagChain) (s.setSealing none) with ⟨_, e⟩ | ⟨d, _, e⟩ <;> rw [e]
    · exact hcleared.of_view rfl
    · exact hcleared.move rfl fun hcore => hcore.modDesc d fun _ => rfl
  unfold Machine.completeSealing
  dsimp only
  obtain ⟨hcurrent, htrunk, hlinks⟩ := writeTag_path r (tagOf r.tagChain) (s.setSealing none)
  generalize writeTag r (tagOf r.tagChain) (s.setSealing none) = u at hcurrent htrunk hlinks htagged
  have hlowered := htagged.of_view (storeView_lowerInFlight u r.slot)
  have hview : storeView ((lowerInFlight r.slot u).count r.link .framesSealed) = storeView u := by simp
  split
  · exact hlowered.freeSealed
  · next hdiscard =>
    have hcounted := hlowered.of_view (storeView_count _ r.link .framesSealed)
    split
    · refine of_view (hcounted.handToTransmitter ?_ (fun hb => ?_) fun hb => ?_) (storeView_reportSealed _ _)
      · exact (sealing_of_storeView hview).trans hcurrent
      · rw [transmitter_of_storeView hview, State.transmitter, htrunk]
        exact hidle hb
      · rw [live_of_storeView hview, State.link, hlinks]
        exact hlive hb (Bool.eq_false_of_not_eq_true hdiscard)
    · exact (freeSealed (hcounted.of_view (storeView_count _ _ _))).of_view (storeView_reportSealed _ _)

/-! ### The opening completion -/

theorem disposeGood {b : Bool} {s : State} {r : Opening} (h : StoreState b [r.desc] s) :
    StoreState b [] (disposeGood r s) := by
  have hfree : ∀ {u : State}, storeView u = storeView s → StoreState b [] (u.freeFrame r.desc) := fun hu =>
    (h.of_view hu).free fun _ => rfl
  have hcount : ∀ c : Counter, StoreState b [] ((s.freeFrame r.desc).count r.link c) := fun c =>
    of_view (hfree rfl) (storeView_count _ _ c)
  unfold Machine.disposeGood handAsk
  dsimp only
  split
  · split
    · have hdelivered : StoreState b [] (s.setDelivery (s.store.delivery ++ [r.desc])) :=
        h.move rfl fun hcore => hcore.setDelivery fun d => by simp
      exact hdelivered.of_view (storeView_count _ _ _)
    · exact hcount _
  · exact hfree (storeView_handAccept s _ _ _ _)
  · exact hfree (storeView_trigger s _)
  · exact hcount _
  · exact hcount _

theorem completeOpening {b : Bool} {s : State} (h : StoreState b [] s) {r : Opening}
    (hdesc : (s.opener.current.map fun r => r.desc) = some r.desc) : StoreState b [] (completeOpening r s) := by
  have hcleared : StoreState b [r.desc] (s.setOpening none) := h.move rfl fun hcore =>
    hcore.setOpening fun d => by simp [hdesc]
  have hfreed : StoreState b [] ((s.setOpening none).freeFrame r.desc) := hcleared.free fun _ => rfl
  unfold Machine.completeOpening
  dsimp only
  split
  · exact hfreed.of_view (storeView_lowerInFlight _ _)
  · split
    · exact disposeGood (hcleared.of_view (by simp))
    · exact hfreed.of_view (by simp)

/-! ### Every operation -/

/-- Block operations of a sealing write bytes alone. -/
theorem sealingOperation {b : Bool} {s : State} (h : StoreState b [] s) (r : Sealing) (i : Nat) :
    StoreState b [] (sealingOperation r i s).1 := by
  obtain ⟨_, _, e⟩ := sealingOperation_eq r i s
  rw [e]
  exact h.move rfl fun hcore => hcore.of_core rfl

theorem openingOperation {b : Bool} {s : State} (h : StoreState b [] s) (r : Opening) (i : Nat) :
    StoreState b [] (openingOperation r i s).1 := by
  obtain ⟨_, e⟩ := openingOperation_eq r i s
  rw [e]
  exact h.move rfl fun hcore => hcore.of_core rfl

theorem endOperation {b : Bool} {s : State} (h : StoreState b [] s) (hroles : b = true → RoleLaw s) (q : Requester) :
    StoreState b [] (endOperation q s) := by
  cases q with
  | sealer =>
    simp only [Machine.endOperation, endSealerOperation]
    split
    · next r hr =>
      have hwritten := h.sealingOperation r (cost r.length - r.left)
      obtain ⟨_, _, e⟩ := sealingOperation_eq r (cost r.length - r.left) s
      have hcurrent : (Machine.sealingOperation r (cost r.length - r.left) s).1.sealer.current = some r := by
        rw [e]
        exact hr
      split
      · refine hwritten.completeSealing (by rw [hcurrent]; rfl) (fun hb => (hwritten.core hb).sealing r hcurrent) ?_
        have hlive : b = true → r.discard = false → (s.link r.link).live = true := fun hb =>
          (hroles hb).sealing_live hr
        intro hb hdiscard
        rw [e]
        exact hlive hb hdiscard
      · exact hwritten.move rfl fun hcore => hcore.setSealing (fun d => by rw [hcurrent]; rfl) (by
          rintro _ ⟨⟩
          exact hcore.sealing r hcurrent)
    · exact h
  | opener =>
    simp only [Machine.endOperation, endOpenerOperation]
    split
    · next r hr =>
      have hwritten := h.openingOperation r (cost r.length - r.left)
      obtain ⟨_, e⟩ := openingOperation_eq r (cost r.length - r.left) s
      have hcurrent : (Machine.openingOperation r (cost r.length - r.left) s).1.opener.current = some r := by
        rw [e]
        exact hr
      split
      · exact hwritten.completeOpening (by rw [hcurrent]; rfl)
      · exact hwritten.move rfl fun hcore => hcore.setOpening fun d => by rw [hcurrent]; rfl
    · exact h
  | deriver =>
    simp only [Machine.endOperation, endDeriverOperation]
    split
    · split
      · exact h.of_view (storeView_completeDerivation _ _)
      · exact h.of_view rfl
    · exact h

end StoreState

end Sys2Proof.Machine
end

section
/-! Circuits that go up and down, changes of the selection, of the protection mode and of the slot map, and
teardowns and activations, for the law of the circuit receivers and the law of the frame store. -/

namespace Sys2Proof.Machine

/-! ### Receptions and transmissions abandoned -/

namespace StoreCore

variable {s : State} (h : StoreCore [] s)
include h

theorem abandonReception (l : LinkId) : StoreCore [] (abandonReception l s) := by
  have hhunt : ∀ ds, receivedFrame (s.receiver l) = ds → StoreCore ds (s.setReceiver l .hunt) := fun ds hds =>
    h.setReceiver fun d => by
      rw [hds]
      simp [receivedFrame]
  unfold Machine.abandonReception
  split
  · next d _ hr => exact of_core ((hhunt [d] (by rw [hr]; rfl)).free fun _ => rfl) rfl
  · exact h
  · next hr => exact hhunt [] (by rw [hr]; rfl)
  · next hr => exact hhunt [] (by rw [hr]; rfl)

theorem abandonTransmission (l : LinkId) : StoreCore [] (abandonTransmission l s) := by
  have hidle : ∀ ds, sentFrame (s.transmitter l) = ds → StoreCore ds (s.setTransmitter l .idle) := fun ds hds =>
    h.setTransmitter (fun d => by rw [hds]; simp [sentFrame]) (.inl rfl)
  unfold Machine.abandonTransmission
  split
  · exact h
  · next d _ ht =>
    have hfreed : StoreCore [] ((s.freeFrame d).setTransmitter l .idle) :=
      of_core ((hidle [d] (by rw [ht]; rfl)).free fun _ => rfl) rfl
    exact hfreed.of_view (storeView_count _ _ _)
  · next ht => exact (hidle [] (by rw [ht]; rfl)).of_view (storeView_count _ _ _)

/-! ### Circuits and selection -/

theorem reconcileCircuits (before : State) : StoreCore [] (reconcileCircuits before s) := by
  refine List.foldlRecOn _ _ h fun t ht l _ => ?_
  unfold reconcileCircuit
  split
  · exact (ht.abandonReception l).of_view (storeView_modRenewal _ _ _)
  · exact ht.of_view (storeView_modRenewal _ _ _)
  · exact ht
  · exact ht

theorem switchTo (p : Port) : StoreCore [] (switchTo p s) := by
  have hfold : StoreCore [] ((allFin 64).foldl (fun s l => Machine.abandonReception l s) s) :=
    List.foldlRecOn _ _ h fun t ht l _ => ht.abandonReception l
  unfold Machine.switchTo
  generalize (allFin 64).foldl (fun s l => Machine.abandonReception l s) s = t at hfold ⊢
  exact hfold.of_core rfl

theorem followMonitor (p : Port) (old : Monitor) : StoreCore [] (followMonitor p old s) := by
  unfold Machine.followMonitor
  split
  · split
    · split
      · exact h.switchTo _
      · exact h
    · split
      · exact h.switchTo _
      · exact h
  · exact h

theorem monitorEvent (p : Port) (f : Monitor → Monitor) : StoreCore [] (monitorEvent p f s) := by
  have hset : StoreCore [] (s.setMonitor p (f (s.monitor p))) := h.of_core (by cases p <;> rfl)
  exact (hset.followMonitor p _).reconcileCircuits s

theorem selectPort (p : Port) : StoreCore [] (selectPort p s) := by
  unfold Machine.selectPort
  split
  · exact h
  · exact h.switchTo p

theorem applyMode (m : ProtectionMode) : StoreCore [] (applyMode m s) := by
  have hmode : StoreCore [] { s with trunk := { s.trunk with mode := m } } := h.of_core rfl
  rw [applyMode_eq]
  cases m with
  | fixedA => exact hmode.selectPort .a
  | fixedB => exact hmode.selectPort .b
  | auto =>
    unfold followMode
    dsimp only
    split
    · exact hmode.switchTo _
    · exact hmode

theorem abandonAffected (ls : List LinkId) : StoreCore [] (ls.foldl abandonAffected s) :=
  List.foldlRecOn _ _ h fun _ ht l _ => (ht.abandonReception l).abandonTransmission l

end StoreCore

/-! ### The circuit receivers over such a change -/

/-- The receivers stay as they are or return to HUNT, and no link becomes live or ceases to be. -/
def ReceptionsEnd (s t : State) : Prop :=
  ∀ l, (t.link l).live = (s.link l).live ∧ (t.receiver l = s.receiver l ∨ t.receiver l = .hunt)

namespace ReceptionsEnd

theorem refl (s : State) : ReceptionsEnd s s := fun _ => ⟨rfl, .inl rfl⟩

theorem trans {s t u : State} (h : ReceptionsEnd s t) (h' : ReceptionsEnd t u) : ReceptionsEnd s u := fun l => by
  obtain ⟨hlive, hreceiver⟩ := h l
  obtain ⟨hlive', hreceiver'⟩ := h' l
  refine ⟨hlive'.trans hlive, ?_⟩
  rcases hreceiver' with e | e
  · rw [e]
    exact hreceiver
  · exact .inr e

theorem abandonReception (l : LinkId) (s : State) : ReceptionsEnd s (abandonReception l s) := by
  obtain ⟨_, e, _⟩ := abandonReception_eq_hunt l s
  rw [e]
  refine fun j => ⟨rfl, ?_⟩
  change tget (tput s.trunk.receivers l .hunt) j = _ ∨ tget (tput s.trunk.receivers l .hunt) j = _
  rw [tget_tput]
  split
  · exact .inr rfl
  · exact .inl rfl

theorem abandonTransmission (l : LinkId) (s : State) : ReceptionsEnd s (abandonTransmission l s) := by
  have hcount : ∀ t : State, t.links = s.links → t.trunk.receivers = s.trunk.receivers →
      ReceptionsEnd s (t.count l .abandoned) := fun t hlinks hreceivers j => by
    rw [live_of_storeView (storeView_count t l .abandoned), State.link, hlinks, State.receiver_count, State.receiver,
      hreceivers]
    exact ⟨rfl, .inl rfl⟩
  unfold Machine.abandonTransmission
  split
  · exact refl s
  · exact hcount _ rfl rfl
  · exact hcount _ rfl rfl

theorem switchTo (p : Port) (s : State) : ReceptionsEnd s (switchTo p s) := by
  obtain ⟨_, _, e, hhunt⟩ := switchTo_eq p s
  rw [e]
  exact fun l => ⟨rfl, .inr (hhunt l)⟩

theorem followMonitor (p : Port) (old : Monitor) (s : State) : ReceptionsEnd s (followMonitor p old s) := by
  unfold Machine.followMonitor
  split
  · split
    · split
      · exact switchTo _ s
      · exact refl s
    · split
      · exact switchTo _ s
      · exact refl s
  · exact refl s

theorem selectPort (p : Port) (s : State) : ReceptionsEnd s (selectPort p s) := by
  unfold Machine.selectPort
  split
  · exact refl s
  · exact switchTo p s

theorem applyMode (m : ProtectionMode) (s : State) : ReceptionsEnd s (applyMode m s) := by
  have hmode : ReceptionsEnd s { s with trunk := { s.trunk with mode := m } } := fun _ => ⟨rfl, .inl rfl⟩
  rw [applyMode_eq]
  refine hmode.trans ?_
  cases m with
  | fixedA => exact selectPort .a _
  | fixedB => exact selectPort .b _
  | auto =>
    unfold followMode
    dsimp only
    split
    · exact switchTo _ _
    · exact refl _

theorem abandonAffected (ls : List LinkId) (s : State) : ReceptionsEnd s (ls.foldl abandonAffected s) :=
  List.foldlRecOn _ _ (refl s) fun t ht l _ =>
    ht.trans ((abandonReception l t).trans (abandonTransmission l _))

end ReceptionsEnd

/-- R132, R136: where every link's circuit follows, the receivers of circuits that are down are in HUNT. -/
theorem ReceiverLaw.reconcileCircuits {s t : State} (h : ReceiverLaw s) (ht : ReceptionsEnd s t) :
    ReceiverLaw (reconcileCircuits s t) := by
  obtain ⟨links, receivers, descs, e, hfollow⟩ := reconcileCircuits_follows s t
  intro l hl
  obtain ⟨hlink, hreceiver⟩ := hfollow l
  obtain ⟨hlive, hends⟩ := ht l
  have hlive' : ((Machine.reconcileCircuits s t).link l).live = (s.link l).live := by
    rw [e, State.link, hlink]
    exact hlive
  have hruns : receiverRuns (Machine.reconcileCircuits s t) l = ((s.link l).live && circuitUp t l) := by
    rw [receiverRuns, hlive', circuitUp_reconcileCircuits]
  rw [hruns] at hl
  have hfollowed : (Machine.reconcileCircuits s t).receiver l =
      followedReceiver (circuitUp s l) (circuitUp t l) (t.receiver l) := by
    rw [e]
    exact hreceiver
  rw [hfollowed, followedReceiver]
  split
  · rfl
  · next hdown =>
    have hstopped : receiverRuns s l = false := by
      rw [receiverRuns]
      cases hs : (s.link l).live
      · rfl
      · rw [hs] at hl
        cases hwas : circuitUp s l
        · rfl
        · exact absurd ⟨hwas, hl⟩ hdown
    rcases hends with e | e
    · rw [e, h l hstopped]
    · exact e

/-- A link in HUNT may change. -/
theorem ReceiverLaw.modLink {s : State} (h : ReceiverLaw s) {l : LinkId} {f : Link → Link}
    (hl : s.receiver l = .hunt) : ReceiverLaw (s.modLink l f) := fun j hj => by
  by_cases e : l = j
  · exact e ▸ hl
  · refine h j ?_
    rw [receiverRuns, State.link_modLink_of_ne _ _ e] at hj
    exact hj

theorem ReceiverLaw.of_dead {s : State} (h : ReceiverLaw s) {l : LinkId} (hl : (s.link l).live = false) :
    s.receiver l = .hunt :=
  h l (by rw [receiverRuns, hl]; rfl)

namespace StoreState

variable {b : Bool} {s : State} (h : StoreState b [] s)
include h

theorem monitorEvent (p : Port) (f : Monitor → Monitor) : StoreState b [] (monitorEvent p f s) := by
  refine ⟨h.receivers.reconcileCircuits ?_, fun hb => (h.core hb).monitorEvent p f⟩
  have hset : ReceptionsEnd s (s.setMonitor p (f (s.monitor p))) := fun l => by
    cases p <;> exact ⟨rfl, .inl rfl⟩
  exact hset.trans (.followMonitor p _ _)

theorem applyMode (m : ProtectionMode) : StoreState b [] (reconcileCircuits s (applyMode m s)) :=
  ⟨h.receivers.reconcileCircuits (.applyMode m s), fun hb => ((h.core hb).applyMode m).reconcileCircuits s⟩

theorem mapCommit : StoreState b [] (mapCommit s).1 := by
  have hmap : ReceptionsEnd s { s with trunk := { s.trunk with live := s.trunk.shadow } } := fun _ => ⟨rfl, .inl rfl⟩
  have hcore : b = true → StoreCore [] { s with trunk := { s.trunk with live := s.trunk.shadow } } := fun hb =>
    (h.core hb).of_core rfl
  exact ⟨h.receivers.reconcileCircuits (hmap.trans (.abandonAffected _ _)), fun hb =>
    ((hcore hb).abandonAffected _).reconcileCircuits s⟩

end StoreState

end Sys2Proof.Machine
end

section
/-! Teardowns and activations, TRAFFIC_OUT and QUEUE_DISCARD, and the cycles of the trunk, for the law of the circuit
receivers and the law of the frame store. -/

namespace Sys2Proof.Machine

theorem receptionView_freeFrames (ds : List DescNo) (s : State) :
    receptionView (freeFrames ds s) = receptionView s := by
  obtain ⟨_, e, _⟩ := freeFrames_eq ds s
  rw [e]
  rfl

theorem freeFrames_setQueue (ds : List DescNo) (l : LinkId) (q : List DescNo) (s : State) :
    freeFrames ds (s.setQueue l q) = (freeFrames ds s).setQueue l q := by
  induction ds generalizing s with
  | nil => rfl
  | cons d ds ih => exact ih (s.freeFrame d)

/-! ### Frames discarded -/

namespace StoreCore

variable {s : State} (h : StoreCore [] s)
include h

/-- R18, R113: frames at the front of a queue leave it and are freed. -/
theorem dequeued (l : LinkId) (n : Nat) : StoreCore [] (dequeued l n s) := by
  have htaken : StoreCore ((s.queue l).take n) (s.setQueue l ((s.queue l).drop n)) :=
    h.shortenQueue (List.drop_sublist n _) fun d => by
      have hsplit : ((s.queue l).take n ++ (s.queue l).drop n).count d = (s.queue l).count d := by
        rw [List.take_append_drop]
      rw [List.count_append] at hsplit
      simp only [List.count_nil]
      omega
  have hfreed := htaken.freeAll (ds := (s.queue l).take n) (hand' := []) fun _ => by simp
  rw [freeFrames_setQueue] at hfreed
  exact hfreed

theorem discardOpenList (l : LinkId) : StoreCore [] (discardOpenList l s) := by
  have htaken : StoreCore (s.opener.waiting.filter (frameOf s l))
      (s.setOpenList (s.opener.waiting.filter fun d => !frameOf s l d)) :=
    h.setOpenList fun d => by
      have hsplit := (List.filter_append_perm (frameOf s l) s.opener.waiting).count_eq d
      rw [List.count_append] at hsplit
      simp only [List.count_nil]
      omega
  exact htaken.freeAll fun _ => by simp

theorem markFrames (l : LinkId) : StoreCore [] (markOpening l (markSealing l s)) := by
  have hmarked : StoreCore [] (markSealing l s) := by
    unfold markSealing
    split
    · next r hr =>
      split
      · refine h.setSealing (fun d => by rw [hr]; rfl) ?_
        rintro _ ⟨⟩
        exact h.sealing r hr
      · exact h
    · exact h
  unfold markOpening
  split
  · next r hr =>
    split
    · exact hmarked.setOpening fun d => by rw [hr]; rfl
    · exact hmarked
  · exact hmarked

theorem disposeFrames (l : LinkId) : StoreCore [] (disposeFrames l s) := by
  have hpath := (((h.markFrames l).abandonTransmission l).abandonReception l).discardOpenList l
  have hall := hpath.dequeued l ((Machine.discardOpenList l (Machine.abandonReception l
    (Machine.abandonTransmission l (markOpening l (markSealing l s))))).queue l).length
  rw [Machine.dequeued, List.take_length, List.drop_length] at hall
  exact hall

end StoreCore

/-! ### Links that become live, and cease to be -/

namespace StoreState

variable {b : Bool} {s : State} (h : StoreState b [] s)
include h

theorem dequeued (l : LinkId) (n : Nat) : StoreState b [] (dequeued l n s) :=
  h.move (receptionView_freeFrames ((s.queue l).take n) s) fun hcore => hcore.dequeued l n

/-- R17, R18: a link torn down holds no frame but one in sealing or in opening. -/
theorem teardown (l : LinkId) : StoreState b [] (teardown l s) := by
  obtain ⟨_, _, e, _⟩ := disposeFrames_eq l s
  have hhunt : (disposeFrames l s).receiver l = .hunt := by
    rw [e]
    exact tget_tput_self _ _ _
  have hempty : (disposeFrames l s).queue l = [] ∧ (disposeFrames l s).transmitter l = .idle := by
    rw [e]
    exact ⟨tget_tput_self _ _ _, tget_tput_self _ _ _⟩
  have hdisposed : StoreState b [] (disposeFrames l s) := by
    refine ⟨?_, fun hb => (h.core hb).disposeFrames l⟩
    rw [e]
    have hhunt : ∀ stats, ReceiverLaw ((s.setReceiver l .hunt).modLink l fun x => { x with stats := stats }) :=
      fun _ => (h.receivers.setReceiver (.inl rfl)).modLink (tget_tput_self _ _ _)
    exact (hhunt _).of_reception rfl
  unfold Machine.teardown
  generalize disposeFrames l s = t at hhunt hempty hdisposed ⊢
  have htorn : StoreState b [] (t.modLink l tornDown) :=
    ⟨hdisposed.receivers.modLink hhunt, fun hb =>
      (hdisposed.core hb).modLink (fun _ => hempty) fun p hp => (hdisposed.core hb).quota l p hp⟩
  have hslots : StoreState b [] (((leaveWaitList l t).modLink l tornDown).setSealRequests
      (t.sealer.requests.filter fun x => x ≠ l)) := htorn.of_view rfl
  exact hslots.of_view ((storeView_handOver _).trans (storeView_releaseSlots _ _))

/-- A link that is neither ACTIVE nor ISOLATED may take another state and another profile. -/
theorem modDeadLink {l : LinkId} (hl : (s.link l).live = false) (f : Link → Link) :
    StoreState b [] (s.modLink l f) := by
  refine ⟨h.receivers.modLink (h.receivers.of_dead hl), fun hb => ?_⟩
  have hempty := (h.core hb).idle l hl
  refine (h.core hb).modLink (fun _ => hempty) fun p _ => ?_
  rw [queueUnits, hempty.1]
  exact Nat.zero_le _

theorem activateOn {l : LinkId} (hl : (s.link l).state = .configured) (k : SlotNo) :
    StoreState b [] (activateOn l k s) := by
  have hdead : (s.link l).live = false := Link.live_eq_false.2 (.inr hl)
  have hhunt : s.receiver l = .hunt := h.receivers.of_dead hdead
  have hreceiving : ∀ {t : State}, t.receiver l = .hunt → StoreState b [] t → StoreState b [] (t.setReceiver l .hunt) :=
    fun ht hstore =>
      ⟨hstore.receivers.setReceiver (.inl rfl), fun hb => (hstore.core hb).setReceiver fun d => by rw [ht]⟩
  have hsending : ∀ {t : State}, t.transmitter l = s.transmitter l → StoreState b [] t →
      StoreState b [] (t.setTransmitter l .idle) := fun ht hstore =>
    ⟨hstore.receivers.of_reception rfl, fun hb => (hstore.core hb).setTransmitter
      (fun d => by rw [ht, ((h.core hb).idle l hdead).2]) (.inl rfl)⟩
  unfold Machine.activateOn
  dsimp only
  refine hsending rfl (hreceiving (by exact hhunt) (modDeadLink ?_ (by exact hdead) _))
  exact h.of_view rfl

end StoreState

end Sys2Proof.Machine
end

section
/-! TRAFFIC_OUT, the cycles of the trunk and the outbound line, for the law of the circuit receivers, the law of the
frame store, and with it the law of the key roles. -/

namespace Sys2Proof.Machine

/-- R107: the descriptor of an admitted outbound frame. -/
def outboundFrame (l : LinkId) (tag : Byte) (payload : List Byte) (us : List UnitNo) : Descriptor :=
  ⟨l, false, .traffic, none, none, payload.length, us, some tag, none, none⟩

theorem admitOutbound_eq (l : LinkId) (tag : Byte) (payload : List Byte) (d : DescNo) (us : List UnitNo) (s : State) :
    admitOutbound l tag payload d us s =
      ((s.setDesc d (some (outboundFrame l tag payload us))).writeUnits us 0 payload).setQueue l (s.queue l ++ [d]) :=
  rfl

/-- R115: the descriptor of an inbound frame whose header was accepted. -/
def inboundFrame (l : LinkId) (h : HeaderFields) (us : List UnitNo) : Descriptor :=
  ⟨l, true, h.kind, some h.epoch, some h.seq, h.bodyLength - 8, us, none, none, none⟩

theorem admitInbound_eq (l : LinkId) (h : HeaderFields) (d : DescNo) (us : List UnitNo) (s : State) :
    admitInbound l h d us s = s.setDesc d (some (inboundFrame l h us)) := rfl

namespace StoreState

variable {b : Bool} {s : State} (h : StoreState b [] s)
include h

/-- R104, R107: an outbound frame takes its room within its link's quota. -/
theorem admitOutbound {l : LinkId} {p : Profile} {tag : Byte} {payload : List Byte} {d : DescNo} {us : List UnitNo}
    (hlive : (s.link l).live = true) (hp : (s.link l).profile = some p)
    (hquota : queueUnits s l + unitsFor payload.length ≤ p.quota)
    (hroom : findRoom s false (unitsFor payload.length) = some (d, us)) :
    StoreState b [] (admitOutbound l tag payload d us s) := by
  rw [admitOutbound_eq]
  refine h.move rfl fun hcore => ?_
  have hfound := room_of_findRoom hroom
  have htaken : StoreCore [d] (s.setDesc d (some (outboundFrame l tag payload us))) := hcore.take hfound
  have hunits : unitsOf (s.setDesc d (some (outboundFrame l tag payload us))) (s.queue l ++ [d]) =
      queueUnits s l + unitsFor payload.length := by
    rw [unitsOf_append, unitsOf_cons, frameUnits_setDesc_some, if_pos rfl, ← hfound.length]
    exact congrArg₂ (· + ·) (hcore.queueUnits_setDesc hfound.free _ l) rfl
  have hwritten : StoreCore [d] ((s.setDesc d (some (outboundFrame l tag payload us))).writeUnits us 0 payload) :=
    htaken.of_core rfl
  refine hwritten.setQueue (fun e => List.count_append) (fun q hq => ?_) (.inr hlive)
  have hsame : p = q := Option.some.inj (hp.symm.trans hq)
  exact hsame ▸ hunits.trans_le hquota

/-! ### The transmit cycle -/

/-- R134: a transmitter that sends goes on with what it sends. -/
theorem setTransmitter_sending {l : LinkId} {t : Transmitter} (hlive : (s.link l).live = true)
    (hsending : s.transmitter l ≠ .idle) (ht : sentFrame t = sentFrame (s.transmitter l)) :
    StoreState b [] (s.setTransmitter l t) := by
  refine h.move rfl fun hcore => hcore.setTransmitter (fun d => by rw [ht]) (.inr ⟨hlive, fun r hr e => ?_⟩)
  exact hsending (e ▸ hcore.sealing r hr)

theorem linkSlotByte (l : LinkId) : StoreState b [] (linkSlotByte l s).2 := by
  unfold Machine.linkSlotByte
  split
  · next hlive =>
    split
    · exact h
    · next d n ht =>
      have hidle : StoreState b [d] (s.setTransmitter l .idle) := h.move rfl fun hcore =>
        hcore.setTransmitter (fun e => by simp [ht, sentFrame]) (.inl rfl)
      unfold sendFrameByte
      split
      · dsimp only
        split
        · exact of_view (hidle.free fun _ => rfl) rfl
        · exact h.setTransmitter_sending hlive (by simp [ht]) (by rw [ht]; rfl)
      · next hd => exact hidle.move rfl fun hcore => absurd (hcore.held (d := d) (by simp)) (by simp [hd])
    · next bs n ht =>
      refine h.setTransmitter_sending hlive (by simp [ht]) ?_
      rw [ht]
      split <;> rfl
  · exact h

theorem transmitCycle : StoreState b [] (transmitCycle s) := by
  have hfold : StoreState b [] ((allFin 96).foldl transmitSlot ([], s)).2 := by
    refine List.foldlRecOn (motive := fun r : List Byte × State => StoreState b [] r.2) _ _ h fun r hr i _ => ?_
    unfold transmitSlot
    split
    · exact hr
    · exact hr.linkSlotByte _
  unfold Machine.transmitCycle
  generalize (allFin 96).foldl transmitSlot ([], s) = r at hfold ⊢
  exact hfold.of_view rfl

/-! ### The outbound line -/

/-- R164: a record without a frame starts on the free line. -/
theorem setLine {r : Option LineRecord} (hline : lineFrame s.host = []) (hr : (r.bind fun x => x.frame) = none) :
    StoreState b [] (s.setLine r) := by
  refine h.move rfl fun hcore => hcore.setHost fun d => ?_
  rw [hline, lineFrame, hr]
  rfl

theorem startSending (hsend : canSend s = true) : StoreState b [] (startSending s) := by
  have hline : lineFrame s.host = [] := by
    simp only [canSend, Bool.and_eq_true, Option.isNone_iff_eq_none] at hsend
    rw [lineFrame, hsend.1.1]
    rfl
  have hnotice : ∀ n rest, StoreState b [] (sendNotice n rest s) := fun n rest => by
    have hcleared : StoreState b [] (clearPending n s) := h.of_view (storeView_clearPending s n)
    have hline' : lineFrame (clearPending n s).host = [] := by cases n <;> exact hline
    have hserved : StoreState b [] ((clearPending n s).modHost fun h => { h with
        notices := rest, servedLast := .notices }) := hcleared.of_view rfl
    exact hserved.setLine (r := some _) hline' rfl
  have htraffic : ∀ d rest, s.store.delivery = d :: rest → StoreState b [] (sendTraffic d rest s) :=
    fun d rest hd => by
      have htaken : StoreState b [d] (s.setDelivery rest) := h.move rfl fun hcore => hcore.setDelivery fun e => by
        rw [hd, List.count_cons, List.count_cons]
        simp
      exact htaken.move rfl fun hcore => hcore.setHost fun e => by
        rw [show lineFrame (s.setDelivery rest).host = [] from hline]
        simp [lineFrame]
  unfold Machine.startSending
  split
  · next r rest _ =>
    have htaken : StoreState b [] (s.modHost fun h => { h with replies := rest, recordsLost := false }) := h.of_view rfl
    exact htaken.setLine (r := some _) hline rfl
  · exact hnotice _ _
  · next hd => exact htraffic _ _ hd
  · next hd =>
    split
    · exact hnotice _ _
    · exact htraffic _ _ hd
  · exact h

theorem sent {r : LineRecord} {d : DescNo} (hr : s.host.line = some r) (hd : r.frame = some d) :
    StoreState b [] ((s.setLine none).freeFrame d) := by
  have hcleared : StoreState b [d] (s.setLine none) := h.move rfl fun hcore => hcore.setHost fun e => by
    simp [lineFrame, hr, hd]
  exact hcleared.free fun _ => rfl

end StoreState

theorem storeState_resetPart (b : Bool) (cause : ResetCause) (input : Bool) (s : State) :
    StoreState b [] (resetPart cause input s) := by
  have hqueue : ∀ l, (resetPart cause input s).queue l = [] := fun l => by
    simp [State.queue, resetPart, State.afterReset, FrameStore.reset, tget]
  have hreceiver : ∀ l, (resetPart cause input s).receiver l = .hunt := fun l => by
    simp [State.receiver, resetPart, State.afterReset, Trunk.reset, tget]
  have htransmitter : ∀ l, (resetPart cause input s).transmitter l = .idle := fun l => by
    simp [State.transmitter, resetPart, State.afterReset, Trunk.reset, tget]
  have hdesc : ∀ d, (resetPart cause input s).desc d = none := fun d => by
    simp [State.desc, resetPart, State.afterReset, FrameStore.reset, tget]
  have hunits : ∀ d, frameUnits (resetPart cause input s) d = [] := fun d => by rw [frameUnits, hdesc]
  have hchains : ChainsApart (resetPart cause input s) := by
    refine ⟨fun d => ?_, fun d u hu => ?_, fun d e _ u hu _ => ?_⟩
    · rw [hunits]
      exact List.nodup_nil
    · rw [hunits] at hu
      cases hu
    · rw [hunits] at hu
      cases hu
  refine ⟨fun l _ => hreceiver l, fun _ =>
    ⟨fun d => ?_, hchains, ?_, fun l _ => ⟨hqueue l, htransmitter l⟩, fun r _ => htransmitter r.link⟩⟩
  · have hnone : placeCount (resetPart cause input s) d ≤ _ :=
      Nat.le_of_add_right_le ((framesLaw_reset true cause input s).places rfl d)
    rw [hdesc] at hnone ⊢
    simpa using hnone
  · intro l p hp
    rw [resetPart_link] at hp
    cases hp

/-! ### With the law of the key roles -/

/-- R136, and where `b` asks for it R103 to R105 with the law of the key roles, whose frames in sealing without the
discard mark are of live links. -/
structure StoreKept (b : Bool) (s : State) : Prop where
  roles : b = true → RoleLaw s
  store : StoreState b [] s

theorem storeKept_blocks (b : Bool) : BlocksKeep (StoreKept b) where
  requests _ _ h := ⟨fun hb => (h.roles hb).of_same rfl rfl rfl, h.store.of_view rfl⟩
  draw s d h := ⟨fun hb => roleLaw_effects.draw s d (h.roles hb), h.store.of_view rfl⟩
  sealing s hready hlist h :=
    ⟨fun hb => roleLaw_effects.sealing s hready hlist (h.roles hb), h.store.startSealing hlist⟩
  opening s hready h := ⟨fun hb => roleLaw_effects.opening s hready (h.roles hb), h.store.startOpening⟩
  derivation s hready h := ⟨fun hb => roleLaw_effects.derivation s hready (h.roles hb),
    h.store.of_view (storeView_beginDerivation s)⟩

/-! ### The receive cycle -/

theorem receiverRuns_of_storeView {s t : State} (h : storeView t = storeView s) (l : LinkId) :
    receiverRuns t l = receiverRuns s l := by
  simp only [receiverRuns, live_of_storeView h]
  simp only [storeView, Prod.mk.injEq] at h
  obtain ⟨_, _, elive, eselected, ea, eb⟩ := h
  rw [circuitUp_congr elive ea eb eselected]

namespace StoreState

variable {b : Bool} {s : State} (h : StoreState b [] s) {l : LinkId} (hruns : receiverRuns s l = true)
include h hruns

/-- R137, R138: a running receiver takes another state with the frame that it receives into, if any. -/
theorem setReceiver_running {r : Receiver} (hr : receivedFrame r = receivedFrame (s.receiver l)) :
    StoreState b [] (s.setReceiver l r) :=
  ⟨h.receivers.setReceiver (.inr hruns), fun hb => (h.core hb).setReceiver fun d => by rw [hr]⟩

theorem headerCollected {bs : List Byte} (bytes : List Byte) (hr : s.receiver l = .header bs) :
    StoreState b [] (headerCollected l bytes s) := by
  have hskip : ∀ (c : Counter) (f : LinkEvents → LinkEvents) (r : Receiver), receivedFrame r = [] →
      StoreState b [] (((s.count l c).modEvents l f).setReceiver l r) := fun c f r he => by
    have hview : storeView ((s.count l c).modEvents l f) = storeView s := by simp
    refine (h.of_view hview).setReceiver_running ((receiverRuns_of_storeView hview l).trans hruns) ?_
    rw [he, State.receiver_modEvents, State.receiver_count, hr]
    rfl
  unfold Machine.headerCollected
  split
  · next header _ =>
    unfold acceptHeader
    split
    · next d us hroom =>
      rw [admitInbound_eq]
      refine ⟨(h.receivers.setReceiver (.inr hruns)).of_reception rfl, fun hb => ?_⟩
      have htaken : StoreCore [d] (s.setDesc d (some (inboundFrame l header us))) :=
        (h.core hb).take (room_of_findRoom hroom)
      exact htaken.setReceiver fun e => by simp [hr, receivedFrame]
    · exact hskip _ _ _ rfl
  · exact hskip _ _ _ (receivedFrame_replayHeader bytes)

end StoreState

namespace StoreKept

variable {b : Bool} {s : State} (h : StoreKept b s)
include h

/-- R139: the last byte of a body hands the frame to the opener. -/
theorem bodyByte {l : LinkId} (hruns : receiverRuns s l = true) {d : DescNo} {n : Nat} (byte : Byte)
    (hr : s.receiver l = .body d n) : StoreState b [] (bodyByte l d n byte s) := by
  have hwritten : StoreState b [] (s.writeUnits (frameUnits s d) n [byte]) :=
    h.store.move rfl fun hcore => hcore.of_core rfl
  have hroles : b = true → RoleLaw (s.writeUnits (frameUnits s d) n [byte]) := fun hb =>
    roleLaw_effects.units s _ _ _ (h.roles hb)
  unfold Machine.bodyByte
  dsimp only
  generalize hu : s.writeUnits (frameUnits s d) n [byte] = u at hwritten hroles
  have hr' : u.receiver l = .body d n := by rw [← hu]; exact hr
  have hruns' : receiverRuns u l = true := by rw [← hu]; exact hruns
  split
  · refine (settleBlocks_keeps (storeKept_blocks b) _
      ⟨fun hb => roleLaw_effects.received u l d n hr' (hroles hb), ?_⟩).store
    refine ⟨(hwritten.receivers.setReceiver (.inl rfl)).of_reception rfl, fun hb => ?_⟩
    have hhunt : StoreCore [d] (u.setReceiver l .hunt) := (hwritten.core hb).setReceiver fun e => by
      simp [hr', receivedFrame]
    exact hhunt.setOpenList fun e => by simp
  · exact hwritten.setReceiver_running hruns' (by rw [hr']; rfl)

theorem receiverByte {l : LinkId} (hruns : receiverRuns s l = true) (byte : Byte) :
    StoreKept b (receiverByte l byte s) := by
  refine ⟨fun hb => roleLaw_effects.receiverByte l byte s (h.roles hb), ?_⟩
  have hset : ∀ r, receivedFrame r = receivedFrame (s.receiver l) → StoreState b [] (s.setReceiver l r) := fun r hr =>
    h.store.setReceiver_running hruns hr
  unfold Machine.receiverByte
  split
  · next hr => exact hset _ (by rw [hr]; unfold huntByte; dsimp only; split <;> rfl)
  · next hr =>
    split
    · exact hset _ (by rw [hr]; rfl)
    · exact h.store.headerCollected hruns _ hr
  · next hr => exact h.bodyByte hruns byte hr
  · next hr => exact hset _ (by rw [hr]; split <;> rfl)

theorem feedCycle (bytes : Vector Byte 96) : StoreKept b (feedCycle bytes s) := by
  refine List.foldlRecOn _ _ h fun t ht i _ => ?_
  unfold feedSlot
  split
  · split
    · next hruns => exact ht.receiverByte hruns _
    · exact ht
  · exact ht

end StoreKept

end Sys2Proof.Machine
end

section
/-! Every command and event keeps the law of the circuit receivers, and with the law of the key roles the law of the
frame store. -/

namespace Sys2Proof.Machine

/-! ### The commands -/

namespace StoreKept

variable {b : Bool} {s : State} (h : StoreKept b s)
include h

theorem configure (link : Byte) (p : Option Profile) : StoreState b [] (configure link p s).1 := by
  refine onLink_keeps link _ s h.store fun l => ?_
  split
  · next hstate =>
    split
    · next p =>
      exact h.store.modDeadLink (Link.live_eq_false.2 hstate) fun k =>
        { k with state := .configured, profile := some p }
    · exact h.store
  · exact h.store

theorem unconfigure (link : Byte) : StoreState b [] (unconfigure link s).1 := by
  refine onLink_keeps link _ s h.store fun l => ?_
  split
  · next hstate =>
    exact h.store.modDeadLink (Link.live_eq_false.2 (.inr hstate)) fun k => { k with state := .idle, profile := none }
  · exact h.store

theorem activate (link : Byte) : StoreState b [] (activate link s).1 := by
  refine onLink_keeps link _ s h.store fun l => ?_
  split
  · next hstate =>
    split
    · exact h.store
    · split
      · next k _ => exact h.store.activateOn hstate k
      · exact h.store
  · exact h.store

theorem isolateCommand (link : Byte) : StoreState b [] (isolateCommand link s).1 := by
  refine onLiveLink_keeps link _ s h.store fun l hlive => ?_
  split
  · exact h.store.of_view (storeView_isolate s hlive)
  · exact h.store

theorem resume (link : Byte) : StoreState b [] (resume link s).1 := by
  refine onLiveLink_keeps link _ s h.store fun l hlive => ?_
  have hresumed : storeView (s.modLink l fun k => { k with state := .active }) = storeView s :=
    storeView_modLink s ⟨hlive.symm, rfl⟩
  split
  · exact h.store.of_view ((storeView_reevaluate _ l).trans hresumed)
  · exact h.store

theorem deactivate (link : Byte) : StoreState b [] (deactivate link s).1 :=
  onLiveLink_keeps link _ s h.store fun l _ => h.store.teardown l

theorem linkStatus (link clear : Byte) : StoreState b [] (linkStatus link clear s).1 := by
  refine onLink_keeps link _ s h.store fun l => ?_
  split
  · exact h.store.of_view (storeView_modLink s ⟨rfl, rfl⟩)
  · exact h.store
  · exact h.store

theorem rootLoad (link : Byte) (key : List Byte) : StoreState b [] (rootLoad link key s).1 := by
  refine onLink_keeps link _ s h.store fun l => ?_
  split
  · exact h.store
  · split
    · exact h.store.of_view rfl
    · exact h.store

theorem rootErase (link : Byte) : StoreState b [] (rootErase link s).1 := by
  refine onLink_keeps link _ s h.store fun l => ?_
  split
  · exact h.store
  · exact h.store.of_view rfl

theorem renewCommand (link : Byte) : StoreState b [] (renewCommand link s).1 := by
  refine onLink_keeps link _ s h.store fun l => ?_
  dsimp only
  split
  · exact h.store
  · split
    · exact h.store
    · split
      · exact h.store
      · exact h.store.of_view (storeView_trigger s l)

theorem trafficOut (tag link : Byte) (payload : List Byte) : StoreState b [] (trafficOut tag link payload s).1 := by
  unfold Machine.trafficOut
  split
  · exact h.store
  · next l _ =>
    split
    · next hlive =>
      split
      · next p hp =>
        unfold admitTraffic
        dsimp only
        split
        · exact h.store
        · split
          · exact h.store
          · next hquota =>
            split
            · exact h.store
            · next d us hroom => exact h.store.admitOutbound hlive hp (Nat.not_lt.1 hquota) hroom
      · exact h.store
    · exact h.store

/-- R109: the queue commands answer once the blocks have come to rest. -/
theorem settleBlocks : StoreState b [] (settleBlocks s) := (settleBlocks_keeps (storeKept_blocks b) s h).store

/-- R110 to R112: the hold controls set the hold flag and an allowance of at most 255. -/
theorem holds {l : LinkId} (flag : Bool) {allowance : Nat}
    (hallowance : allowance ≤ 255 ∨ allowance ≤ (s.link l).allowance) :
    StoreState b [] (Machine.settleBlocks (s.modLink l fun x => { x with hold := flag, allowance := allowance })) :=
  settleBlocks
    ⟨fun hb => roleLaw_effects.holds s l flag allowance hallowance (h.roles hb),
      h.store.of_view (storeView_modLink s ⟨rfl, rfl⟩)⟩

theorem hold (link : Byte) : StoreState b [] (hold link s).1 :=
  onLiveLink_keeps link _ s h.store fun l _ => h.holds true (.inr (Nat.le_refl (s.link l).allowance))

theorem release (link count : Byte) : StoreState b [] (release link count s).1 := by
  refine onLiveLink_keeps link _ s h.store fun l _ => ?_
  split
  · exact h.store
  · exact h.holds (s.link l).hold (.inl (Nat.le_of_lt_succ count.isLt))

theorem unhold (link : Byte) : StoreState b [] (unhold link s).1 :=
  onLiveLink_keeps link _ s h.store fun _ _ => h.holds false (.inl (Nat.zero_le 255))

theorem discard (link : Byte) (count : W16) : StoreState b [] (discard link count s).1 := by
  refine onLiveLink_keeps link _ s h.store fun l _ => ?_
  split
  · exact h.store
  · dsimp only [okWith]
    rw [length_discarded, discarded_eq]
    exact settleBlocks ⟨fun hb => roleLaw_effects.dequeue s l _ (h.roles hb), h.store.dequeued l _⟩

theorem portMode (mode : Byte) : StoreState b [] (portMode mode s).1 := by
  unfold Machine.portMode
  split
  · exact h.store
  · exact h.store.applyMode _

theorem mapSet (first count entry : Byte) : StoreState b [] (mapSet first count entry s).1 := by
  have hshadow : ∀ map, StoreState b [] { s with trunk := { s.trunk with shadow := map } } := fun _ =>
    h.store.of_view rfl
  unfold Machine.mapSet
  split
  · split
    · exact hshadow _
    · exact h.store
  · exact h.store

theorem trunkStatus (clear : Byte) : StoreState b [] (trunkStatus clear s).1 := by
  unfold Machine.trunkStatus
  split
  · exact h.store.of_view rfl
  · exact h.store
  · exact h.store

theorem faultPolicy (kind declare clear report : Byte) :
    StoreState b [] (faultPolicy kind declare clear report s).1 := by
  unfold Machine.faultPolicy
  split
  · exact h.store
  · split
    · exact h.store
    · split
      · split
        · exact h.store.of_view rfl
        · exact h.store
      · exact h.store

/-- R162, R173: the effect of a COMMAND with any code and any fields. -/
theorem commandEffect {code : Nat} {fields : List Byte} {effect : State → State × Answer}
    (he : commandEffect code fields = some effect) : StoreState b [] (effect s).1 := by
  have hcode : code ∈ assignedCodes := by
    by_contra hno
    rw [commandEffect_unassigned hno] at he
    cases he
  simp only [assignedCodes, List.mem_cons, List.not_mem_nil, or_false] at hcode
  rcases hcode with rfl | rfl | rfl | rfl | rfl | rfl | rfl | rfl | rfl | rfl | rfl | rfl | rfl | rfl |
    rfl | rfl | rfl | rfl | rfl | rfl | rfl | rfl | rfl | rfl | rfl | rfl | rfl
  · obtain _ | ⟨_, _ | ⟨_, _ | ⟨_, _ | ⟨_, _ | ⟨_, _ | ⟨_, _ | ⟨_, _ |
      ⟨_, _ | ⟨_, _ | ⟨_, _ | ⟨_, _ | ⟨_, _ | ⟨_, _ | ⟨_, _ | ⟨_, _⟩⟩⟩⟩⟩⟩⟩⟩⟩⟩⟩⟩⟩⟩⟩ := fields <;> cases he
    exact h.configure _ _
  · obtain _ | ⟨_, _ | ⟨_, _⟩⟩ := fields <;> cases he
    exact h.activate _
  · obtain _ | ⟨_, _ | ⟨_, _⟩⟩ := fields <;> cases he
    exact h.isolateCommand _
  · obtain _ | ⟨_, _ | ⟨_, _⟩⟩ := fields <;> cases he
    exact h.resume _
  · obtain _ | ⟨_, _ | ⟨_, _⟩⟩ := fields <;> cases he
    exact h.deactivate _
  · obtain _ | ⟨_, _ | ⟨_, _⟩⟩ := fields <;> cases he
    exact h.unconfigure _
  · obtain _ | ⟨_, _ | ⟨_, _ | ⟨_, _⟩⟩⟩ := fields <;> cases he
    exact h.linkStatus _ _
  · obtain _ | ⟨_, _⟩ := fields <;> cases he
    exact h.rootLoad _ _
  · obtain _ | ⟨_, _ | ⟨_, _⟩⟩ := fields <;> cases he
    exact h.rootErase _
  · obtain _ | ⟨_, _⟩ := fields <;> cases he
    exact h.store
  · obtain _ | ⟨_, _ | ⟨_, _⟩⟩ := fields <;> cases he
    exact h.renewCommand _
  · obtain _ | ⟨_, _ | ⟨_, _⟩⟩ := fields <;> cases he
    exact h.hold _
  · obtain _ | ⟨_, _ | ⟨_, _ | ⟨_, _⟩⟩⟩ := fields <;> cases he
    exact h.release _ _
  · obtain _ | ⟨_, _ | ⟨_, _⟩⟩ := fields <;> cases he
    exact h.unhold _
  · obtain _ | ⟨_, _ | ⟨_, _ | ⟨_, _ | ⟨_, _⟩⟩⟩⟩ := fields <;> cases he
    exact h.discard _ _
  · obtain _ | ⟨_, _ | ⟨_, _⟩⟩ := fields <;> cases he
    exact h.portMode _
  · obtain _ | ⟨_, _ | ⟨_, _ | ⟨_, _ | ⟨_, _⟩⟩⟩⟩ := fields <;> cases he
    exact h.mapSet _ _ _
  · obtain _ | ⟨_, _ | ⟨_, _⟩⟩ := fields <;> cases he
    exact (mapRead_state _ s).symm ▸ h.store
  · obtain _ | ⟨_, _⟩ := fields <;> cases he
    exact h.store.mapCommit
  · obtain _ | ⟨_, _ | ⟨_, _⟩⟩ := fields <;> cases he
    exact h.trunkStatus _
  · obtain _ | ⟨_, _ | ⟨_, _ | ⟨_, _ | ⟨_, _ | ⟨_, _⟩⟩⟩⟩⟩ := fields <;> cases he
    exact h.faultPolicy _ _ _ _
  · obtain _ | ⟨_, _ | ⟨_, _⟩⟩ := fields <;> cases he
    exact (faultList_state _ s).symm ▸ h.store
  · obtain _ | ⟨_, _ | ⟨_, _ | ⟨_, _⟩⟩⟩ := fields <;> cases he
    exact (faultRead_state _ _ s).symm ▸ h.store
  · obtain _ | ⟨_, _⟩ := fields <;> cases he
    exact h.store.of_view rfl
  · obtain _ | ⟨_, _ | ⟨_, _ | ⟨_, _ | ⟨_, _ | ⟨_, _⟩⟩⟩⟩⟩ := fields <;> cases he
    exact h.store.of_view rfl
  · obtain _ | ⟨_, _⟩ := fields <;> cases he
    exact h.store
  · obtain _ | ⟨_, _⟩ := fields <;> cases he
    exact h.store.of_view rfl

/-! ### Records -/

theorem runCommand (body : List Byte) : StoreState b [] (runCommand body s).1 := by
  unfold Machine.runCommand
  split
  · exact h.store
  · split
    · next he => exact h.commandEffect he
    · split <;> exact h.store

theorem runTraffic (tag : Byte) (body : List Byte) : StoreState b [] (runTraffic tag body s).1 := by
  unfold Machine.runTraffic
  split
  · exact h.store
  · exact h.trafficOut _ _ _

theorem answerRecord (x : InRecord) : StoreKept b (answerRecord x s) := by
  refine ⟨fun hb => roleLaw_effects.answerRecord x s (h.roles hb), ?_⟩
  have hanswered : ∀ (tag : Byte) (r : State × Answer), StoreState b [] r.1 → StoreState b [] (answer tag r) :=
    fun _ _ hr => hr.of_view rfl
  unfold Machine.answerRecord
  split
  · exact hanswered _ _ (h.runCommand _)
  · exact hanswered _ _ (h.runTraffic _ _)
  · exact hanswered _ _ h.store

/-- A change of the host port that leaves the line. -/
theorem modHost (f : HostPort → HostPort) (hline : (f s.host).line = s.host.line) : StoreKept b (s.modHost f) := by
  have hframe : lineFrame (f s.host) = lineFrame s.host := by rw [lineFrame, hline, lineFrame]
  refine ⟨fun hb => roleLaw_effects.modHost s f (by rw [hframe]) (h.roles hb), ?_⟩
  exact h.store.move rfl fun hcore => hcore.setHost fun d => by rw [hframe]

theorem takeRecord : StoreKept b (takeRecord s) := by
  unfold Machine.takeRecord
  split
  · exact h
  · exact (h.modHost _ rfl).answerRecord _

theorem receive (x : InRecord) : StoreKept b (receive x s) := by
  refine ⟨fun hb => roleLaw_effects.receive x s (h.roles hb), ?_⟩
  unfold Machine.receive arrive
  split
  · exact (h.answerRecord x).store
  · split
    · exact h.store.of_view rfl
    · exact h.store.of_view rfl

end StoreKept

/-! ### Every event -/

theorem storeKept_events (b : Bool) : EventsKeep (StoreKept b) where
  toBlocksKeep := storeKept_blocks b
  take _ _ h := h.takeRecord
  send s hsend h := ⟨fun hb => roleLaw_effects.startSending s hsend (h.roles hb), h.store.startSending hsend⟩
  queue s q h := ⟨fun hb => roleLaw_effects.queue s q (h.roles hb), h.store.of_view rfl⟩
  port _ f hline h := h.modHost f hline
  arrival _ x h := h.receive x
  timers s h := ⟨fun hb => roleLaw_effects.timers s (h.roles hb), h.store.of_view (storeView_countTimers s)⟩
  sample s h := ⟨fun hb => roleLaw_effects.sampling s (h.roles hb), h.store.of_view (storeView_sampling s)⟩
  expiry t l s h := ⟨fun hb => roleLaw_effects.expiry t l s (h.roles hb), h.store.of_view (storeView_expire s t l)⟩
  operation r s h := ⟨fun hb => roleLaw_effects.operation r s (h.roles hb), h.store.endOperation h.roles r⟩
  unit s h := ⟨fun hb => roleLaw_effects.freeUnit s (h.roles hb), h.store.of_view (storeView_grant _)⟩
  monitor p f s hf h := ⟨fun hb => roleLaw_effects.monitorEvent p f hf s (h.roles hb), h.store.monitorEvent p f⟩
  cycle bytes _ h := h.feedCycle bytes
  transmit s h := ⟨fun hb => roleLaw_effects.transmitCycle s (h.roles hb), h.store.transmitCycle⟩
  line s r hr hframe h := by
    refine ⟨fun hb => roleLaw_effects.setLine s none rfl (h.roles hb), h.store.setLine ?_ rfl⟩
    rw [lineFrame, hr]
    exact congrArg Option.toList hframe
  sent s r d hr hd h := ⟨fun hb => roleLaw_effects.sent s r d hr hd (h.roles hb), h.store.sent hr hd⟩
  reset cause input s _ := ⟨fun _ => roleLaw_resetPart cause input s, storeState_resetPart b cause input s⟩

/-- R136: every step keeps the circuit receivers of stopped circuits in HUNT. -/
theorem step_receiverLaw {s t : State} (hs : ReceiverLaw s) (ht : step s = .next t) : ReceiverLaw t :=
  ((storeKept_events false).step ⟨(fun hb => nomatch hb), ⟨hs, (fun hb => nomatch hb)⟩⟩ ht).store.receivers

/-- R103 to R105: every step keeps the law of the frame store, where the key roles obey theirs. -/
theorem step_storeLaw {s t : State} (hroles : RoleLaw s) (hs : StoreLaw s) (ht : step s = .next t) : StoreLaw t := by
  obtain ⟨hcore, hreceivers⟩ := (storeLaw_iff s).1 hs
  have hkept := (storeKept_events true).step ⟨fun _ => hroles, ⟨hreceivers, fun _ => hcore⟩⟩ ht
  exact (storeLaw_iff t).2 ⟨hkept.store.core rfl, hkept.store.receivers⟩

end Sys2Proof.Machine

namespace Sys2Proof.Proofs

open Sys2Proof Sys2Proof.Machine

/-- Settles O4: each of the three laws is kept by every effect that commands and events are made of. -/
theorem stepKeepsMemoryLaw : Obligations.StepKeepsMemoryLaw := by
  unfold Obligations.StepKeepsMemoryLaw
  exact ⟨fun _ _ => step_memoryLaw, fun _ _ => step_receiverLaw, fun _ _ => step_storeLaw⟩

end Sys2Proof.Proofs
end
